-- ==== Sys2Proof/Word.lean ====
section
/-! DEFINITION. The plainest data of the model: bytes and words of the messages, and records of six like
things (the part has six motor ports and six sensor ports, spec/00 "The part at a glance"). -/

namespace Sys2Proof

/-- A byte of a frame or a character of a smart line. -/
abbrev Byte := BitVec 8
/-- A two-byte field (R168). -/
abbrev Half := BitVec 16
/-- A four-byte field (R168). -/
abbrev Word := BitVec 32

/-- One of six: motor ports A to F and sensor ports 1 to 6 are both numbered by it. -/
inductive Idx6 where
  | i0 | i1 | i2 | i3 | i4 | i5
  deriving DecidableEq, Repr

/-- All six, in order. -/
def Idx6.all : List Idx6 := [.i0, .i1, .i2, .i3, .i4, .i5]

/-- The index as a number 0..5. -/
def Idx6.toNat : Idx6 → Nat
  | .i0 => 0 | .i1 => 1 | .i2 => 2 | .i3 => 3 | .i4 => 4 | .i5 => 5

/-- The index a number 0..5 names. -/
def Idx6.ofNat? : Nat → Option Idx6
  | 0 => some .i0 | 1 => some .i1 | 2 => some .i2
  | 3 => some .i3 | 4 => some .i4 | 5 => some .i5
  | _ => none

/-- Six values of one type, one for each index. -/
structure Six (α : Type) where
  i0 : α
  i1 : α
  i2 : α
  i3 : α
  i4 : α
  i5 : α
  deriving DecidableEq, Repr

/-- The value at an index. -/
def Six.get {α : Type} (v : Six α) : Idx6 → α
  | .i0 => v.i0 | .i1 => v.i1 | .i2 => v.i2
  | .i3 => v.i3 | .i4 => v.i4 | .i5 => v.i5

/-- The six values with the one at an index replaced. -/
def Six.set {α : Type} (v : Six α) (i : Idx6) (a : α) : Six α :=
  match i with
  | .i0 => { v with i0 := a } | .i1 => { v with i1 := a } | .i2 => { v with i2 := a }
  | .i3 => { v with i3 := a } | .i4 => { v with i4 := a } | .i5 => { v with i5 := a }

/-- Six copies of one value. -/
def Six.all {α : Type} (a : α) : Six α := ⟨a, a, a, a, a, a⟩

/-- A function applied to each of the six. -/
def Six.map {α β : Type} (f : α → β) (v : Six α) : Six β :=
  ⟨f v.i0, f v.i1, f v.i2, f v.i3, f v.i4, f v.i5⟩

/-- Six values made from their indexes. -/
def Six.ofFn {α : Type} (f : Idx6 → α) : Six α :=
  ⟨f .i0, f .i1, f .i2, f .i3, f .i4, f .i5⟩

end Sys2Proof
end

