-- ==== Sys2Proof/Syntax.lean ====
section
/-! DEFINITION. The commands of the K40: one constructor of `Instr` for each row of spec/opcode_table.json.
A request row carries the line it arrives on, its tag, and the raw fields of its layout in spec/11 (R168, R169), so that
a field outside its range can be said. An event row carries what the event brings with it. -/

namespace Sys2Proof

/-- The two serial lines (spec/00): the host line and the tablet line. -/
inductive LineId where
  | host | tablet
  deriving DecidableEq, Repr

/-- The two digital pins of a sensor port (R58): pin A is connector pin 5, pin B connector pin 6. -/
inductive PinId where
  | a | b
  deriving DecidableEq, Repr

/-- The 23-byte port configuration of PORT_SETUP, in the order of R169. -/
structure PortConfigRaw where
  motorPolarity : Byte
  encoderPolarity : Byte
  maxSpeed : Half
  accel : Half
  kp : Half
  ki : Byte
  kf : Half
  dutyLimit : Half
  stallDuty : Half
  stallSpeed : Half
  stallTime : Half
  tolerance : Byte
  holdSpeed : Half
  failAction : Byte
  deriving DecidableEq, Repr

/-- The 25-byte move record of MOVE and MOVE_NOW, in the order of R169. -/
structure MoveRaw where
  kind : Byte
  speed : Half
  target : Word
  duration : Word
  restStyle : Byte
  endAction : Byte
  group : Byte
  tag : Half
  guardPresent : Byte
  guardPort : Byte
  guardIndex : Byte
  guardComparison : Byte
  guardThreshold : Word
  guardStrict : Byte
  deriving DecidableEq, Repr

/-- The 15-byte clip record of CLIP, in the order of R169. -/
structure ClipRaw where
  tag : Half
  kind : Byte
  frequency : Half
  duration : Half
  waveform : Byte
  format : Byte
  rate : Half
  sampleCount : Word
  deriving DecidableEq, Repr

/-- The 27-byte sensor setup of SENSOR_SETUP, in the order of R169. -/
structure SensorSetupRaw where
  mode : Byte
  samplePeriod : Half
  averaging : Byte
  pullA : Byte
  pullB : Byte
  directionA : Byte
  directionB : Byte
  debounceA : Byte
  debounceB : Byte
  edgeA : Byte
  edgeB : Byte
  countingEdge : Byte
  gate : Byte
  preset : Word
  maxRate : Byte
  preferred : Byte
  policy : Byte
  delta : Word
  interval : Half
  deriving DecidableEq, Repr

/-- The seven fields of LINK_SETUP, in the order of R169. -/
structure LinkSetupRaw where
  rate : Byte
  readMask : Byte
  setupAllowed : Byte
  queryAllowed : Byte
  quietUnit : Byte
  quietSteps : Byte
  strikeLimit : Byte
  deriving DecidableEq, Repr

/-- The seven owner values of SET_OWNERS (R2): motor ports A to F, then sound. -/
structure OwnersRaw where
  motor : Six Byte
  sound : Byte
  deriving DecidableEq, Repr

/-- The thirty request kinds with their parameters (R169), as the request decoder reads them from a frame. -/
inductive Request where
  | identify
  | reset
  | setWatch (period : Half)
  | setMask (mask : Half)
  | allStop
  | portSetup (port : Byte) (config : PortConfigRaw)
  | setOwners (owners : OwnersRaw)
  | move (port : Byte) (record : MoveRaw)
  | moveNow (port : Byte) (record : MoveRaw)
  | queueClear (port : Byte) (stop : Byte)
  | preset (port : Byte) (position : Word)
  | portQuery (port : Byte)
  | groupDefine (group : Byte) (members : Byte)
  | sensorSetup (port : Byte) (setup : SensorSetupRaw)
  | sensorRead (port : Byte)
  | smartSelect (port : Byte) (mode : Byte)
  | smartWrite (port : Byte) (count : Byte) (bytes : List Byte)
  | smartProfile (port : Byte)
  | soundSetup (action : Byte) (volume : Byte) (threshold : Half)
  | clip (record : ClipRaw)
  | soundData (count : Byte) (endFlag : Byte) (bytes : List Byte)
  | immediateTone (frequency : Half) (duration : Half)
  | soundStop
  | powerSetup (vLow : Half) (vCritical : Half) (vRestore : Half) (limit : Half)
  | powerQuery
  | linkSetup (setup : LinkSetupRaw)
  | tabletSend (payload : List Byte)
  | linkStatus
  | linkReset
  | relayUp (payload : List Byte)
  deriving DecidableEq, Repr

/-- The commands: the 66 rows of spec/opcode_table.json, in the table's order. `line` is the line a request
arrives on, `tag` its tag; `port` bytes are as sent; `m` names a motor port and `i` a sensor port. -/
inductive Instr where
  | identify (line : LineId) (tag : Byte)
  | reset (line : LineId) (tag : Byte)
  | setWatch (line : LineId) (tag : Byte) (period : Half)
  | setMask (line : LineId) (tag : Byte) (mask : Half)
  | allStop (line : LineId) (tag : Byte)
  | portSetup (line : LineId) (tag : Byte) (port : Byte) (config : PortConfigRaw)
  | setOwners (line : LineId) (tag : Byte) (owners : OwnersRaw)
  | move (line : LineId) (tag : Byte) (port : Byte) (record : MoveRaw)
  | moveNow (line : LineId) (tag : Byte) (port : Byte) (record : MoveRaw)
  | queueClear (line : LineId) (tag : Byte) (port : Byte) (stop : Byte)
  | preset (line : LineId) (tag : Byte) (port : Byte) (position : Word)
  | portQuery (line : LineId) (tag : Byte) (port : Byte)
  | groupDefine (line : LineId) (tag : Byte) (group : Byte) (members : Byte)
  | sensorSetup (line : LineId) (tag : Byte) (port : Byte) (setup : SensorSetupRaw)
  | sensorRead (line : LineId) (tag : Byte) (port : Byte)
  | smartSelect (line : LineId) (tag : Byte) (port : Byte) (mode : Byte)
  | smartWrite (line : LineId) (tag : Byte) (port : Byte) (count : Byte) (bytes : List Byte)
  | smartProfile (line : LineId) (tag : Byte) (port : Byte)
  | soundSetupQuery (line : LineId) (tag : Byte) (volume : Byte) (threshold : Half)
  | soundSetupApply (line : LineId) (tag : Byte) (volume : Byte) (threshold : Half)
  | clip (line : LineId) (tag : Byte) (record : ClipRaw)
  | soundData (line : LineId) (tag : Byte) (count : Byte) (endFlag : Byte) (bytes : List Byte)
  | immediateTone (line : LineId) (tag : Byte) (frequency : Half) (duration : Half)
  | soundStop (line : LineId) (tag : Byte)
  | powerSetup (line : LineId) (tag : Byte) (vLow : Half) (vCritical : Half) (vRestore : Half) (limit : Half)
  | powerQuery (line : LineId) (tag : Byte)
  | linkSetup (line : LineId) (tag : Byte) (setup : LinkSetupRaw)
  | tabletSend (line : LineId) (tag : Byte) (payload : List Byte)
  | linkStatus (line : LineId) (tag : Byte)
  | linkReset (line : LineId) (tag : Byte)
  | relayUp (line : LineId) (tag : Byte) (payload : List Byte)
  | unknownKind (line : LineId) (kind : Byte) (tag : Byte) (params : List Byte)
  | byteReceived (line : LineId) (byte : Byte)
  | interByteTimeout (line : LineId)
  | transmissionEnd (line : LineId)
  | radioReadyRise
  | radioReadyFall
  | breakEnd
  | softResetEffect
  | hostWatchExpiry
  | quietTimerExpiry
  | powerOnResetBegin
  | powerOnResetEnd
  | resetnLow
  | resetnRise
  | regulationEvent (m : Idx6)
  | encoderTransition (m : Idx6) (ch1 : Bool) (ch2 : Bool)
  | supplyChannelsDue
  | analogChannelDue (i : Idx6)
  | conversionComplete (raw : BitVec 12)
  | recoveryHoldExpiry
  | digitalPinChange (i : Idx6) (pin : PinId) (level : Bool)
  | debounceExpiry (i : Idx6) (pin : PinId)
  /-- `us` is the time of the change in µs after the latest millisecond of uptime, 0..999 (log entry 5). -/
  | counterPinAChange (i : Idx6) (level : Bool) (us : Nat)
  | counterPinBChange (i : Idx6) (level : Bool)
  | sensorSupplyOverload (i : Idx6)
  | intervalExpiry (i : Idx6)
  /-- `framing` says that the character's stop bit was found low (R77). -/
  | smartCharacterReceived (i : Idx6) (char : Byte) (framing : Bool)
  | pauseExpiry (i : Idx6)
  | announceLimitExpiry (i : Idx6)
  | switchDelayExpiry (i : Idx6)
  | nudgeTimerExpiry (i : Idx6)
  | lossTimerExpiry (i : Idx6)
  | smartRecordSent (i : Idx6)
  | outputSampleEvent
  | uptimeTick
  deriving DecidableEq, Repr

end Sys2Proof
end

