-- ==== Sys2Proof/Decode.lean ====
section
/-! DEFINITION. Reading and writing requests: the byte layouts of spec/11 (R168, R169), first read (`decodeRequest`), then
written (`Request.body`); and the decoder the host asks about, which reads words by the opcode table's bits. -/

namespace Sys2Proof

/-! ### Fields of a body (R168): least significant byte first -/

/-- The byte at a position of a body. -/
def rd8 (b : List Byte) (i : Nat) : Byte := b.getD i 0
/-- The two-byte field at a position. -/
def rd16 (b : List Byte) (i : Nat) : Half := rd8 b (i + 1) ++ rd8 b i
/-- The four-byte field at a position. -/
def rd32 (b : List Byte) (i : Nat) : Word := rd16 b (i + 2) ++ rd16 b i
/-- A two-byte field as sent. -/
def le16 (v : Half) : List Byte := [v.extractLsb' 0 8, v.extractLsb' 8 8]
/-- A four-byte field as sent. -/
def le32 (v : Word) : List Byte := le16 (v.extractLsb' 0 16) ++ le16 (v.extractLsb' 16 16)

/-! ### The request decoder's checks 1 and 2 (R135, R169) -/

/-- Whether a body has the length L that R169 gives its kind; `none` for a kind that names no request (R135, check 1). The
counted kinds take their length from their own count byte, and the payload kinds any length of 3..240. -/
def lengthAllowed (kind : Byte) (b : List Byte) : Option Bool :=
  let fixed (n : Nat) : Option Bool := some (b.length == n)
  -- SOUND_DATA's count is its first parameter, SMART_WRITE's its second
  let counted (at_ : Nat) : Option Bool := some (4 ≤ b.length && b.length == 4 + (rd8 b at_).toNat)
  let payload : Option Bool := some (3 ≤ b.length && b.length ≤ 240)
  match kind.toNat with
  | 0x01 => fixed 2 | 0x02 => fixed 2 | 0x03 => fixed 4 | 0x04 => fixed 4 | 0x05 => fixed 2
  | 0x10 => fixed 26 | 0x11 => fixed 9 | 0x12 => fixed 28 | 0x13 => fixed 28 | 0x14 => fixed 4
  | 0x15 => fixed 7 | 0x16 => fixed 3 | 0x17 => fixed 4
  | 0x20 => fixed 30 | 0x21 => fixed 3 | 0x22 => fixed 4 | 0x23 => counted 3 | 0x24 => fixed 3
  | 0x30 => fixed 6 | 0x31 => fixed 17 | 0x32 => counted 2 | 0x33 => fixed 6 | 0x34 => fixed 2
  | 0x38 => fixed 10 | 0x39 => fixed 2
  | 0x40 => fixed 9 | 0x41 => payload | 0x42 => fixed 2 | 0x43 => fixed 2 | 0x44 => payload
  | _ => none

/-- The port configuration from body position 3 on (R169). -/
def rdPortConfig (b : List Byte) : PortConfigRaw where
  motorPolarity := rd8 b 3
  encoderPolarity := rd8 b 4
  maxSpeed := rd16 b 5
  accel := rd16 b 7
  kp := rd16 b 9
  ki := rd8 b 11
  kf := rd16 b 12
  dutyLimit := rd16 b 14
  stallDuty := rd16 b 16
  stallSpeed := rd16 b 18
  stallTime := rd16 b 20
  tolerance := rd8 b 22
  holdSpeed := rd16 b 23
  failAction := rd8 b 25

/-- The move record from body position 3 on (R169: its offsets 0..24 are body positions 3..27). -/
def rdMove (b : List Byte) : MoveRaw where
  kind := rd8 b 3
  speed := rd16 b 4
  target := rd32 b 6
  duration := rd32 b 10
  restStyle := rd8 b 14
  endAction := rd8 b 15
  group := rd8 b 16
  tag := rd16 b 17
  guardPresent := rd8 b 19
  guardPort := rd8 b 20
  guardIndex := rd8 b 21
  guardComparison := rd8 b 22
  guardThreshold := rd32 b 23
  guardStrict := rd8 b 27

/-- The clip record from body position 2 on (R169: its offsets 0..14 are body positions 2..16). -/
def rdClip (b : List Byte) : ClipRaw where
  tag := rd16 b 2
  kind := rd8 b 4
  frequency := rd16 b 5
  duration := rd16 b 7
  waveform := rd8 b 9
  format := rd8 b 10
  rate := rd16 b 11
  sampleCount := rd32 b 13

/-- The sensor setup from body position 3 on (R169). -/
def rdSensorSetup (b : List Byte) : SensorSetupRaw where
  mode := rd8 b 3
  samplePeriod := rd16 b 4
  averaging := rd8 b 6
  pullA := rd8 b 7
  pullB := rd8 b 8
  directionA := rd8 b 9
  directionB := rd8 b 10
  debounceA := rd8 b 11
  debounceB := rd8 b 12
  edgeA := rd8 b 13
  edgeB := rd8 b 14
  countingEdge := rd8 b 15
  gate := rd8 b 16
  preset := rd32 b 17
  maxRate := rd8 b 21
  preferred := rd8 b 22
  policy := rd8 b 23
  delta := rd32 b 24
  interval := rd16 b 28

/-- The link setup from body position 2 on (R169). -/
def rdLinkSetup (b : List Byte) : LinkSetupRaw where
  rate := rd8 b 2
  readMask := rd8 b 3
  setupAllowed := rd8 b 4
  queryAllowed := rd8 b 5
  quietUnit := rd8 b 6
  quietSteps := rd8 b 7
  strikeLimit := rd8 b 8

/-- The request a body of the right length carries, by its kind (R169). -/
def rdRequest (kind : Byte) (b : List Byte) : Option Request :=
  match kind.toNat with
  | 0x01 => some .identify
  | 0x02 => some .reset
  | 0x03 => some (.setWatch (rd16 b 2))
  | 0x04 => some (.setMask (rd16 b 2))
  | 0x05 => some .allStop
  | 0x10 => some (.portSetup (rd8 b 2) (rdPortConfig b))
  | 0x11 => some (.setOwners ⟨⟨rd8 b 2, rd8 b 3, rd8 b 4, rd8 b 5, rd8 b 6, rd8 b 7⟩, rd8 b 8⟩)
  | 0x12 => some (.move (rd8 b 2) (rdMove b))
  | 0x13 => some (.moveNow (rd8 b 2) (rdMove b))
  | 0x14 => some (.queueClear (rd8 b 2) (rd8 b 3))
  | 0x15 => some (.preset (rd8 b 2) (rd32 b 3))
  | 0x16 => some (.portQuery (rd8 b 2))
  | 0x17 => some (.groupDefine (rd8 b 2) (rd8 b 3))
  | 0x20 => some (.sensorSetup (rd8 b 2) (rdSensorSetup b))
  | 0x21 => some (.sensorRead (rd8 b 2))
  | 0x22 => some (.smartSelect (rd8 b 2) (rd8 b 3))
  | 0x23 => some (.smartWrite (rd8 b 2) (rd8 b 3) (b.drop 4))
  | 0x24 => some (.smartProfile (rd8 b 2))
  | 0x30 => some (.soundSetup (rd8 b 2) (rd8 b 3) (rd16 b 4))
  | 0x31 => some (.clip (rdClip b))
  | 0x32 => some (.soundData (rd8 b 2) (rd8 b 3) (b.drop 4))
  | 0x33 => some (.immediateTone (rd16 b 2) (rd16 b 4))
  | 0x34 => some .soundStop
  | 0x38 => some (.powerSetup (rd16 b 2) (rd16 b 4) (rd16 b 6) (rd16 b 8))
  | 0x39 => some .powerQuery
  | 0x40 => some (.linkSetup (rdLinkSetup b))
  | 0x41 => some (.tabletSend (b.drop 2))
  | 0x42 => some .linkStatus
  | 0x43 => some .linkReset
  | 0x44 => some (.relayUp (b.drop 2))
  | _ => none

/-- What the first two checks of the request decoder make of a frame's body (R135). -/
inductive Decoded where
  /-- The kind names no request: refused UNKNOWN_KIND. -/
  | unknownKind
  /-- The body's length is not the one R169 gives for the kind: refused BAD_LENGTH. -/
  | badLength
  | request (r : Request)
  deriving DecidableEq, Repr

/-- R135, checks 1 and 2: the kind, then the length; then the fields as R169 lays them out. -/
def decodeRequest (b : List Byte) : Decoded :=
  match lengthAllowed (rd8 b 0) b with
  | none => .unknownKind
  | some false => .badLength
  | some true =>
    match rdRequest (rd8 b 0) b with
    | none => .unknownKind
    | some r => .request r

/-! ### Writing a request's body -/

/-- The kind code of a request (R169). -/
def Request.kind : Request → Byte
  | .identify => 0x01 | .reset => 0x02 | .setWatch _ => 0x03 | .setMask _ => 0x04 | .allStop => 0x05
  | .portSetup _ _ => 0x10 | .setOwners _ => 0x11 | .move _ _ => 0x12 | .moveNow _ _ => 0x13
  | .queueClear _ _ => 0x14 | .preset _ _ => 0x15 | .portQuery _ => 0x16 | .groupDefine _ _ => 0x17
  | .sensorSetup _ _ => 0x20 | .sensorRead _ => 0x21 | .smartSelect _ _ => 0x22 | .smartWrite _ _ _ => 0x23
  | .smartProfile _ => 0x24
  | .soundSetup _ _ _ => 0x30 | .clip _ => 0x31 | .soundData _ _ _ => 0x32 | .immediateTone _ _ => 0x33
  | .soundStop => 0x34
  | .powerSetup _ _ _ _ => 0x38 | .powerQuery => 0x39
  | .linkSetup _ => 0x40 | .tabletSend _ => 0x41 | .linkStatus => 0x42 | .linkReset => 0x43 | .relayUp _ => 0x44

/-- The 23 bytes of a port configuration (R169). -/
def wrPortConfig (c : PortConfigRaw) : List Byte :=
  [c.motorPolarity, c.encoderPolarity] ++ le16 c.maxSpeed ++ le16 c.accel ++ le16 c.kp ++ [c.ki] ++ le16 c.kf ++
    le16 c.dutyLimit ++ le16 c.stallDuty ++ le16 c.stallSpeed ++ le16 c.stallTime ++ [c.tolerance] ++
    le16 c.holdSpeed ++ [c.failAction]

/-- The 25 bytes of a move record (R169). -/
def wrMove (r : MoveRaw) : List Byte :=
  [r.kind] ++ le16 r.speed ++ le32 r.target ++ le32 r.duration ++ [r.restStyle, r.endAction, r.group] ++
    le16 r.tag ++ [r.guardPresent, r.guardPort, r.guardIndex, r.guardComparison] ++ le32 r.guardThreshold ++
    [r.guardStrict]

/-- The 15 bytes of a clip record (R169). -/
def wrClip (r : ClipRaw) : List Byte :=
  le16 r.tag ++ [r.kind] ++ le16 r.frequency ++ le16 r.duration ++ [r.waveform, r.format] ++ le16 r.rate ++
    le32 r.sampleCount

/-- The 27 bytes of a sensor setup (R169). -/
def wrSensorSetup (r : SensorSetupRaw) : List Byte :=
  [r.mode] ++ le16 r.samplePeriod ++ [r.averaging, r.pullA, r.pullB, r.directionA, r.directionB, r.debounceA,
    r.debounceB, r.edgeA, r.edgeB, r.countingEdge, r.gate] ++ le32 r.preset ++ [r.maxRate, r.preferred, r.policy] ++
    le32 r.delta ++ le16 r.interval

/-- The parameters of a request, in the order of R169. -/
def Request.params : Request → List Byte
  | .identify => [] | .reset => [] | .setWatch p => le16 p | .setMask m => le16 m | .allStop => []
  | .portSetup p c => p :: wrPortConfig c
  | .setOwners o => [o.motor.i0, o.motor.i1, o.motor.i2, o.motor.i3, o.motor.i4, o.motor.i5, o.sound]
  | .move p r => p :: wrMove r
  | .moveNow p r => p :: wrMove r
  | .queueClear p f => [p, f]
  | .preset p v => p :: le32 v
  | .portQuery p => [p]
  | .groupDefine g m => [g, m]
  | .sensorSetup p r => p :: wrSensorSetup r
  | .sensorRead p => [p]
  | .smartSelect p i => [p, i]
  | .smartWrite p n bs => p :: n :: bs
  | .smartProfile p => [p]
  | .soundSetup a v t => a :: v :: le16 t
  | .clip r => wrClip r
  | .soundData n e bs => n :: e :: bs
  | .immediateTone f d => le16 f ++ le16 d
  | .soundStop => []
  | .powerSetup a b c d => le16 a ++ le16 b ++ le16 c ++ le16 d
  | .powerQuery => []
  | .linkSetup r => [r.rate, r.readMask, r.setupAllowed, r.queryAllowed, r.quietUnit, r.quietSteps, r.strikeLimit]
  | .tabletSend bs => bs
  | .linkStatus => [] | .linkReset => []
  | .relayUp bs => bs

/-- The body of a request's frame (R128): its kind, its tag, its parameters. -/
def Request.body (tag : Byte) (r : Request) : List Byte := r.kind :: tag :: r.params

/-- The check byte of a frame with this body (R128): the sum of the length byte, every body byte and the check byte is 0
modulo 256. -/
def checkByte (body : List Byte) : Byte := -(BitVec.ofNat 8 body.length + body.sum)

/-- The whole frame of a body (R128): start byte, length byte, body, check byte. -/
def frameOf (body : List Byte) : List Byte :=
  0x5A :: BitVec.ofNat 8 body.length :: (body ++ [checkByte body])

/-! ### The host's question -/

/-- The command a word spells by the opcode table's bits: the table gives no row any bits (spec/98_reader.md), so no word
spells a command. Log entry 15. -/
def decodeTableWord (_nbits _w : Nat) : Option Instr := none

end Sys2Proof
end

