-- ==== Sys2Proof/Config.lean ====
section
/-! DEFINITION. What the manual leaves to the part or to its surroundings: the one free value of the model. -/

namespace Sys2Proof

/-- The level read from an input pin with no pull and nothing connected (R58: such a pin "reads a level that
depends on the sensor, or on nothing, so it carries no meaning until something is plugged in"): a free value, a fresh one for each
reading, numbered by the counter `State.freeIdx`. It has no body, so nothing can be proved of it.
DESIGN CHOICE, safe, log entry 10. -/
opaque Config.freeLevel : Nat → Bool

end Sys2Proof
end

