-- ==== Sys2Proof/Machine/State.lean ====
section
/-! DEFINITION. The state of the K40: every register, queue, FIFO, count, mode and timer the spec gives it, as plain data,
and the machine right after reset. INVENTORY.md lists each with its rule and its reset value. -/

namespace Sys2Proof.Machine

/-! ### Shared names -/

/-- An owner and an issuer (R2, R4): BRICK is the host line's party, REMOTE the tablet line's. -/
inductive Owner where
  | brick | remote
  deriving DecidableEq, Repr

/-- A timer is stopped (`none`) or running since a clock value. Its expiry is a command (log entry 3). -/
abbrev Timer := Option Nat

/-- How a move or a clip ended (R18, R127, R168). -/
inductive OutcomeCode where
  | done | guard | guardLost | stalled | replaced | ownerChanged | watch | quiet | power | groupBroken | allStop | stopped
  deriving DecidableEq, Repr

/-! ### Motor ports (chapters 1, 2, 6) -/

/-- Motor and encoder polarity (R1). -/
inductive Polarity where
  | normal | reversed
  deriving DecidableEq, Repr

/-- The fail action (R1). -/
inductive FailAction where
  | coast | brake
  deriving DecidableEq, Repr

/-- A port's configuration (R1). -/
structure PortConfig where
  motorPolarity : Polarity
  encoderPolarity : Polarity
  maxSpeed : Nat
  accel : Nat
  kp : Nat
  ki : Nat
  kf : Nat
  dutyLimit : Nat
  stallDuty : Nat
  stallSpeed : Nat
  stallTime : Nat
  tolerance : Nat
  holdSpeed : Nat
  failAction : FailAction
  deriving DecidableEq, Repr

/-- A rest style and an end action have the same three values (R4). -/
inductive StopStyle where
  | coast | brake | hold
  deriving DecidableEq, Repr

/-- The five comparisons of a guard (R98). -/
inductive Comparison where
  | atLeast | atMost | crossUp | crossDown | changed
  deriving DecidableEq, Repr

/-- The guard of a move record (R98). -/
structure Guard where
  sensor : Idx6
  index : Nat
  comparison : Comparison
  threshold : Int
  strict : Bool
  deriving DecidableEq, Repr

/-- What a move does (R4): each kind with the fields that are not absent for it. A duration of 0 is an indefinite REST. -/
inductive Motion where
  | speed (v : Int)
  | timed (v : Int) (duration : Nat)
  | position (v : Nat) (target : Int)
  | relative (v : Nat) (count : Int)
  | rest (style : StopStyle) (duration : Nat)
  deriving DecidableEq, Repr

/-- A move record (R4). `group` is 0 or 1..15. -/
structure Move where
  motion : Motion
  endAction : StopStyle
  group : Nat
  guard : Option Guard
  tag : Half
  issuer : Owner
  deriving DecidableEq, Repr

/-- The phases of a running move (R6, R8). In every other state the phase is NONE. -/
inductive Phase where
  | ramp | cruise | braking | approach
  deriving DecidableEq, Repr

/-- The running move and what exists only while it runs (R6, R98). -/
structure Running where
  move : Move
  phase : Phase
  elapsed : Nat
  ready : Bool
  /-- The position a POSITION or RELATIVE move goes to, fixed at its start (R4); absent for the other kinds. -/
  target : Option Int
  /-- The guard's evaluation state: previous value and previous sequence, set together (R98). -/
  prev : Option (Int × Half)
  deriving DecidableEq, Repr

/-- The rests (R7). -/
inductive Rest where
  | free | braked | holding | stalled
  deriving DecidableEq, Repr

/-- The seven port states (R7): the four rests, GROUP_WAIT with the rest under wait, RUNNING, and SHUTDOWN. -/
inductive Activity where
  | rest (r : Rest)
  | groupWait (r : Rest)
  | running (r : Running)
  | shutdown
  deriving DecidableEq, Repr

/-- A motor outcome record (R18). -/
structure MotorOutcome where
  tag : Half
  issuer : Owner
  outcome : OutcomeCode
  position : Int
  uptime : Word
  deriving DecidableEq, Repr

/-- The position history (R26): the eight most recent samples, `h0` the newest. -/
structure History where
  h0 : Int
  h1 : Int
  h2 : Int
  h3 : Int
  h4 : Int
  h5 : Int
  h6 : Int
  h7 : Int
  deriving DecidableEq, Repr

/-- One motor port: configuration, owner, drive context, queue, outcome list and quadrature decoder (R1, R2, R6, R18, R24). -/
structure Port where
  config : PortConfig
  pendingConfig : Option PortConfig
  owner : Owner
  act : Activity
  /-- The replacing mark on the queue head (R11). -/
  replacing : Bool
  vp : Int
  vm : Int
  integral : Int
  position : Int
  history : History
  stallTimer : Nat
  holdTarget : Int
  ceiling : Nat
  duty : Int
  encErrors : Nat
  queue : List Move
  outcomes : List MotorOutcome
  dropped : Nat
  discarded : Nat
  rawCount : Int
  refPair : Bool × Bool
  /-- The levels on encoder channels 1 and 2, driven from outside. -/
  encLevels : Bool × Bool
  deriving DecidableEq, Repr

/-- The group table's entries (R19), ids 1 to 15 in order: undefined, or a member set. -/
abbrev GroupTable := List (Option (Six Bool))

/-! ### Converter and supply monitor (chapter 3) -/

/-- The eight channels of the measurement converter. -/
inductive Channel where
  | battery | current | sensor (i : Idx6)
  deriving DecidableEq, Repr

/-- The due list (R42): at most one entry for each channel. -/
structure DueList where
  battery : Bool
  current : Bool
  sensor : Six Bool
  deriving DecidableEq, Repr

/-- The conversion in flight; `dropped` says that its result is not to be handed on (R44). -/
structure InFlight where
  channel : Channel
  dropped : Bool
  deriving DecidableEq, Repr

/-- The measurement converter (R42, R43). -/
structure Converter where
  due : DueList
  inFlight : Option InFlight
  lastServed : Idx6
  batteryDue : Nat
  currentDue : Nat
  deriving DecidableEq, Repr

/-- The supply states (R47). -/
inductive SupplyMode where
  | pending | normal | low | critical | recovery
  deriving DecidableEq, Repr

/-- The POWER cause flags (R56). -/
structure PowerCauses where
  powerOn : Bool
  pin : Bool
  soft : Bool
  critical : Bool
  restored : Bool
  level : Bool
  foldback : Bool
  deriving DecidableEq, Repr

/-- The supply monitor (R44 to R51, R56). -/
structure Supply where
  mode : SupplyMode
  vf : Nat
  seeded : Bool
  lastV : Nat
  itotal : Nat
  vLow : Nat
  vCritical : Nat
  vRestore : Nat
  limit : Nat
  /-- V_low as the latest filter update used it: a new one is first used at the next filter update (R46; DEDUCED, log entry 22). -/
  lowInUse : Nat
  /-- V_critical as the latest filter update used it (R46). -/
  criticalInUse : Nat
  /-- The voltage scale S (R49). -/
  scale : Nat
  /-- The foldback factor F (R50). -/
  foldback : Nat
  /-- The recovery hold (R48). -/
  hold : Timer
  causes : PowerCauses
  deriving DecidableEq, Repr

/-! ### Sensor ports (chapters 4, 5) -/

/-- The sensor port modes (R58). -/
inductive SensorMode where
  | off | analog | digital | counter | smart
  deriving DecidableEq, Repr

/-- The reading status (R59). -/
inductive ReadingStatus where
  | none | fresh | stale | fault
  deriving DecidableEq, Repr

/-- The four values of a reading record, signed 32-bit (R59). -/
structure Values where
  v0 : Int
  v1 : Int
  v2 : Int
  v3 : Int
  deriving DecidableEq, Repr

/-- A reading record (R59). -/
structure Reading where
  mode : SensorMode
  status : ReadingStatus
  sequence : Half
  timestamp : Word
  count : Nat
  values : Values
  decimals : Nat
  deriving DecidableEq, Repr

/-- A pin's pull (R61, R65). -/
inductive Pull where
  | none | up | down
  deriving DecidableEq, Repr

/-- A DIGITAL pin's direction (R65). -/
inductive Direction where
  | input | outputLow | outputHigh
  deriving DecidableEq, Repr

/-- The edges that count (R67, R69). -/
inductive Edge where
  | rise | fall | both
  deriving DecidableEq, Repr

/-- One pin in DIGITAL mode (R65 to R67). -/
structure DigitalPin where
  pull : Pull
  direction : Direction
  debounce : Nat
  edge : Edge
  /-- The debounced level of an input, the driven level of an output. -/
  level : Bool
  timer : Timer
  count : Word
  deriving DecidableEq, Repr

/-- The work of ANALOG mode (R63, R64); the window is newest first. -/
structure AnalogWork where
  period : Nat
  averaging : Nat
  window : List Nat
  dueAt : Nat
  deriving DecidableEq, Repr

/-- The work of COUNTER mode (R68 to R70). -/
structure CounterWork where
  pullA : Pull
  pullB : Pull
  /-- The counting edge is FALL (RISE when false). -/
  falling : Bool
  gated : Bool
  armed : Bool
  count : Word
  period : Nat
  /-- The time of the last counted edge in µs, or no value. -/
  lastEdge : Option Nat
  gateLevel : Bool
  deriving DecidableEq, Repr

/-- A sensor port's mode with the work of that mode (R58). -/
inductive SensorWork where
  | off
  | analog (w : AnalogWork)
  | digital (a : DigitalPin) (b : DigitalPin)
  | counter (w : CounterWork)
  | smart
  deriving DecidableEq, Repr

/-- The report policy with its own state (R75). -/
inductive Policy where
  | none
  | every
  | change (delta : Nat) (reference : Option Int)
  | interval (period : Nat) (timer : Timer)
  deriving DecidableEq, Repr

/-- The SENSOR cause flags (R76). -/
structure SensorCauses where
  report : Bool
  mode : Bool
  connect : Bool
  lost : Bool
  fault : Bool
  deriving DecidableEq, Repr

/-- What something outside drives on a pin: a level, or nothing (log entry 9). -/
inductive Drive where
  | driven (level : Bool)
  | nothing
  deriving DecidableEq, Repr

/-- The six states of a smart line (R83 to R95). -/
inductive LineState where
  | listen | announcing | accepting | starting | streaming | switching
  deriving DecidableEq, Repr

/-- An entry of a smart receive FIFO (R78). -/
structure RxEntry where
  char : Byte
  framing : Bool
  lostBefore : Bool
  deriving DecidableEq, Repr

/-- The value formats of a smart sensor's mode (R81). -/
inductive ValueFormat where
  | int8 | int16 | int32
  deriving DecidableEq, Repr

/-- A mode entry of a sensor profile (R93). -/
structure ModeInfo where
  index : Nat
  count : Nat
  format : ValueFormat
  decimals : Nat
  name : List Byte
  deriving DecidableEq, Repr

/-- A sensor profile (R93); `modes` in order of receipt. -/
structure Profile where
  kind : Half
  modeCount : Nat
  maxRate : Nat
  modes : List ModeInfo
  deriving DecidableEq, Repr

/-- A smart line controller (R77 to R93). -/
structure Smart where
  running : Bool
  /-- The code 0..3 of the port's max rate, from the setup (R88). -/
  maxRate : Nat
  preferred : Nat
  lineState : LineState
  rate : Nat
  rxFifo : List RxEntry
  lostMark : Bool
  /-- The record parser (R79): waiting for a header, or the characters of the record under assembly. -/
  parser : Option (List Byte)
  pauseTimer : Timer
  /-- The protocol slot (R82): at most one ACCEPT or SELECT record, as its characters. -/
  slot : Option (List Byte)
  /-- The command FIFO (R96): whole COMMAND records, oldest first. -/
  cmdFifo : List (List Byte)
  nudge : Bool
  tx : Option (List Byte)
  profile : Option Profile
  selected : Option Nat
  announceTimer : Timer
  switchTimer : Timer
  nudgeTimer : Timer
  lossTimer : Timer
  errors : Nat
  deriving DecidableEq, Repr

/-- One sensor port (R58 to R76) with its smart line controller. -/
structure SensorPort where
  work : SensorWork
  supplyOn : Bool
  record : Reading
  policy : Policy
  causes : SensorCauses
  driveA : Drive
  driveB : Drive
  smart : Smart
  deriving DecidableEq, Repr

/-! ### Sound engine (chapter 7) -/

/-- A tone's waveform (R110). -/
inductive Waveform where
  | square | sine
  deriving DecidableEq, Repr

/-- A stream's format (R110, R117). -/
inductive StreamFormat where
  | linear8 | linear16 | companded8
  deriving DecidableEq, Repr

/-- What a clip plays (R110): each kind with the fields that are not absent for it. -/
inductive ClipKind where
  | tone (frequency : Nat) (duration : Nat) (waveform : Waveform)
  | stream (format : StreamFormat) (rate : Nat) (samples : Option Nat)
  deriving DecidableEq, Repr

/-- A clip record (R110). -/
structure Clip where
  kind : ClipKind
  tag : Half
  issuer : Owner
  deriving DecidableEq, Repr

/-- The tone generator's context (R113). -/
structure ToneGen where
  phase : Word
  step : Word
  remaining : Nat
  waveform : Waveform
  deriving DecidableEq, Repr

/-- A STREAM clip's context (R117, R119). -/
structure StreamCtx where
  format : StreamFormat
  rate : Nat
  samples : Option Nat
  current : Int
  hold : Nat
  consumed : Nat
  starved : Bool
  deriving DecidableEq, Repr

/-- The context of the playing clip, by its kind. -/
inductive PlayCtx where
  | tone (g : ToneGen)
  | stream (c : StreamCtx)
  deriving DecidableEq, Repr

/-- The playing clip (R111): its tag, its issuer and its context. -/
structure Playing where
  tag : Half
  issuer : Owner
  ctx : PlayCtx
  deriving DecidableEq, Repr

/-- The player (section 7.3): IDLE; TONE, STREAM or STARVED with the playing clip; IMMEDIATE with the tone and the
suspended clip. -/
inductive Player where
  | idle
  | playing (p : Playing)
  | immediate (g : ToneGen) (suspended : Option Playing)
  deriving DecidableEq, Repr

/-- A sound outcome record (R127). -/
structure SoundOutcome where
  tag : Half
  issuer : Owner
  outcome : OutcomeCode
  uptime : Word
  deriving DecidableEq, Repr

/-- The sound engine (R108 to R127). -/
structure Sound where
  owner : Owner
  volume : Nat
  threshold : Nat
  ceiling : Nat
  gain : Nat
  queue : List Clip
  player : Player
  /-- The bytes written and not yet consumed (R115), the read point first. -/
  ring : List Byte
  /-- The end marks' depths (R115), in ring order. -/
  marks : List Nat
  underruns : Nat
  refill : Bool
  outcomes : List SoundOutcome
  dropped : Nat
  discarded : Nat
  /-- The value on SPK_OUT. -/
  out : Int
  deriving DecidableEq, Repr

/-! ### Serial lines and tablet link (chapters 8, 9) -/

/-- The three classes of frame an arbiter sends (R136). -/
inductive FrameClass where
  | reply | attention | relay
  deriving DecidableEq, Repr

/-- The two classes the alternation marker names (R136). -/
inductive Turn where
  | attention | relay
  deriving DecidableEq, Repr

/-- A frame in transmission (R137): its class, its body, and the line rate it is sent at (R144). -/
structure TxFrame where
  cls : FrameClass
  body : List Byte
  rate : Nat
  deriving DecidableEq, Repr

/-- One line's frame engine (R129 to R137). -/
structure LineUnit where
  held : List Byte
  rxTimer : Timer
  fifo : List (List Byte)
  replies : List (List Byte)
  tx : Option TxFrame
  marker : Turn
  deriving DecidableEq, Repr

/-- The host watch (R140); ARMED with its timer's start. -/
inductive Watch where
  | off
  | armed (since : Nat)
  | expired
  deriving DecidableEq, Repr

/-- The host frame engine's error items and the host watch (R138 to R140). -/
structure HostUnit where
  checkErrors : Nat
  overruns : Nat
  watchFlag : Bool
  watch : Watch
  watchPeriod : Nat
  deriving DecidableEq, Repr

/-- The link states (R153). -/
inductive LinkState where
  | down | up | quiet
  deriving DecidableEq, Repr

/-- The tablet link unit (R144 to R159). -/
structure Link where
  rate : Nat
  k40Ready : Bool
  /-- The level of RADIO_READY, driven by the radio module. -/
  radioReady : Bool
  relay : List (List Byte)
  transmit : List (List Byte)
  readMask : Six Bool
  setupAllowed : Bool
  queryAllowed : Bool
  quietUnit : Nat
  quietSteps : Nat
  strikeLimit : Nat
  state : LinkState
  strikes : Nat
  quietTimer : Timer
  overflows : Nat
  checkErrors : Nat
  breakTimer : Timer
  deriving DecidableEq, Repr

/-! ### Attention table (chapter 10) -/

/-- The sixteen attention sources (R160). -/
inductive Source where
  | power | hostLink | motor (m : Idx6) | sound | sensor (i : Idx6) | tablet
  deriving DecidableEq, Repr

/-- The attention table (R160): each entry's raise count, 0 while it is not pending, and the mask by source number. -/
structure Attention where
  power : Nat
  hostLink : Nat
  motor : Six Nat
  sound : Nat
  sensor : Six Nat
  tablet : Nat
  mask : Half
  deriving DecidableEq, Repr

/-! ### The whole -/

/-- The state of the K40. -/
structure State where
  motor : Six Port
  groups : GroupTable
  conv : Converter
  supply : Supply
  sensor : Six SensorPort
  sound : Sound
  host : LineUnit
  tablet : LineUnit
  hostUnit : HostUnit
  link : Link
  attn : Attention
  /-- Milliseconds since the end of the last reset; the uptime is its low 32 bits (log entry 4). -/
  clock : Nat
  /-- A pending soft reset, and whether its RESET reply has been sent (R142). -/
  softReset : Option Bool
  /-- A power-on reset holds (R143). -/
  porActive : Bool
  /-- RESETN is low (R143). -/
  resetnLow : Bool
  /-- The model's own: how many free values have been read (log entry 10). -/
  freeIdx : Nat
  /-- The model's own: the commands that wait, first in, first out. -/
  pending : List Instr
  deriving DecidableEq, Repr

/-- The reasons a step can stop with a fault: none. No rule of the spec stops the part; what it calls a fault is a status
of a sensor port (R72), an ordinary next state. Log entry 16. -/
inductive Fault where
  deriving DecidableEq, Repr

/-- The reasons a step can be refused. -/
inductive Refusal where
  /-- A command whose row has no meaning yet, raised by its arm of `exec`; no arm raises it. Safe. -/
  | notModelled (mnemonic : String)
  deriving DecidableEq, Repr

/-! ### Reset -/

/-- The reset configuration of a motor port (R1). -/
def PortConfig.reset : PortConfig where
  motorPolarity := .normal
  encoderPolarity := .normal
  maxSpeed := 1000
  accel := 4000
  kp := 96
  ki := 8
  kf := 128
  dutyLimit := 1000
  stallDuty := 700
  stallSpeed := 50
  stallTime := 200
  tolerance := 3
  holdSpeed := 200
  failAction := .brake

/-- A motor port after reset (R2, R6, R24), with these levels on its encoder channels. -/
def Port.reset (levels : Bool × Bool) : Port where
  config := .reset
  pendingConfig := none
  owner := .brick
  act := .rest .free
  replacing := false
  vp := 0
  vm := 0
  integral := 0
  position := 0
  history := ⟨0, 0, 0, 0, 0, 0, 0, 0⟩
  stallTimer := 0
  holdTarget := 0
  ceiling := 0
  duty := 0
  encErrors := 0
  queue := []
  outcomes := []
  dropped := 0
  discarded := 0
  rawCount := 0
  refPair := levels
  encLevels := levels

/-- The converter after reset (R42, R43): both supply channels due, nothing in flight, port 6 last served. -/
def Converter.reset : Converter where
  due := ⟨true, true, Six.all false⟩
  inFlight := none
  lastServed := .i5
  batteryDue := 0
  currentDue := 0

/-- No POWER cause flag set. -/
def PowerCauses.clear : PowerCauses := ⟨false, false, false, false, false, false, false⟩

/-- The supply monitor after reset (R44 to R50), with the cause flag of the reset (R56). -/
def Supply.reset (causes : PowerCauses) : Supply where
  mode := .pending
  vf := 0
  seeded := false
  lastV := 0
  itotal := 0
  vLow := 6600
  vCritical := 5800
  vRestore := 6200
  limit := 3000
  lowInUse := 6600
  criticalInUse := 5800
  scale := 0
  foldback := 1000
  hold := none
  causes := causes

/-- No SENSOR cause flag set. -/
def SensorCauses.clear : SensorCauses := ⟨false, false, false, false, false⟩

/-- A reading record after reset (R59). -/
def Reading.reset : Reading := ⟨.off, .none, 0, 0, 0, ⟨0, 0, 0, 0⟩, 0⟩

/-- A stopped smart line controller after reset (R77 to R83, R93). -/
def Smart.reset : Smart where
  running := false
  maxRate := 0
  preferred := 0
  lineState := .listen
  rate := 2400
  rxFifo := []
  lostMark := false
  parser := none
  pauseTimer := none
  slot := none
  cmdFifo := []
  nudge := false
  tx := none
  profile := none
  selected := none
  announceTimer := none
  switchTimer := none
  nudgeTimer := none
  lossTimer := none
  errors := 0

/-- A sensor port after reset (R59, R62, R76), with these drives on its pins. -/
def SensorPort.reset (driveA driveB : Drive) : SensorPort where
  work := .off
  supplyOn := false
  record := .reset
  policy := .none
  causes := .clear
  driveA := driveA
  driveB := driveB
  smart := .reset

/-- The sound engine after reset (R108, R109, R111, R112, R115, R122, R127). -/
def Sound.reset : Sound where
  owner := .brick
  volume := 50
  threshold := 1024
  ceiling := 0
  gain := 0
  queue := []
  player := .idle
  ring := []
  marks := []
  underruns := 0
  refill := false
  outcomes := []
  dropped := 0
  discarded := 0
  out := 0

/-- A line's frame engine after reset (R143). -/
def LineUnit.reset : LineUnit := ⟨[], none, [], [], none, .attention⟩

/-- The host error items and the watch after reset (R138, R139). -/
def HostUnit.reset : HostUnit := ⟨0, 0, false, .off, 0⟩

/-- The tablet link unit after reset (R144 to R155), with this level on RADIO_READY. -/
def Link.reset (radioReady : Bool) : Link where
  rate := 115200
  k40Ready := true
  radioReady := radioReady
  relay := []
  transmit := []
  readMask := Six.all false
  setupAllowed := false
  queryAllowed := false
  quietUnit := 10
  quietSteps := 0
  strikeLimit := 0
  state := .down
  strikes := 0
  quietTimer := none
  overflows := 0
  checkErrors := 0
  breakTimer := none

/-- The attention table after reset (R160): POWER pending with a raise count of 1, everything else clear. -/
def Attention.reset : Attention := ⟨1, 0, Six.all 0, 0, Six.all 0, 0, 0⟩

/-- The machine right after a power-on reset, with nothing connected (log entries 1, 9). -/
def State.reset : State where
  motor := Six.all (Port.reset (false, false))
  groups := List.replicate 15 none
  conv := .reset
  supply := .reset { PowerCauses.clear with powerOn := true }
  sensor := Six.all (SensorPort.reset .nothing .nothing)
  sound := .reset
  host := .reset
  tablet := .reset
  hostUnit := .reset
  link := .reset false
  attn := .reset
  clock := 0
  softReset := none
  porActive := false
  resetnLow := false
  freeIdx := 0
  pending := []

end Sys2Proof.Machine
end

