-- ==== Sys2Proof/Machine/Ops.lean ====
section
/-! DEFINITION. The named operations over the state that every family shares: reading and changing one port, one line, one
block; arithmetic that saturates or clamps; free values; bytes of replies and notices; outcome lists. -/

namespace Sys2Proof.Machine

/-! ### Arithmetic -/

/-- A value replaced by the nearer end of a range (spec/00, "Clamped"). -/
def clampInt (lo hi x : Int) : Int := max lo (min hi x)
/-- The same for natural numbers. -/
def clampNat (lo hi x : Nat) : Nat := max lo (min hi x)
/-- A count that stops at `top`. -/
def satAdd (top x n : Nat) : Nat := min top (x + n)
/-- The saturation of positions and targets (R4, R25). -/
def satPosition (x : Int) : Int := clampInt (-2147483647) 2147483647 x
/-- The signed 32-bit value of a 32-bit pattern (R59). -/
def signed32 (w : Word) : Int := w.toInt
/-- 0 for low and 1 for high (R58). -/
def levelValue (b : Bool) : Int := if b then 1 else 0

/-! ### Reading and changing parts of the state -/

/-- Uptime (R143): 32 bits of the milliseconds since the last reset. -/
def State.uptime (s : State) : Word := BitVec.ofNat 32 s.clock
/-- A reset holds: power-on or pin (R143). -/
def State.inReset (s : State) : Bool := s.porActive || s.resetnLow
/-- The issuer of a line's requests (R4; spec/00 "Owners and issuers"). -/
def issuerOf : LineId → Owner
  | .host => .brick
  | .tablet => .remote

/-- A motor port. -/
def State.port (s : State) (m : Idx6) : Port := s.motor.get m
/-- A motor port changed. -/
def State.modPort (s : State) (m : Idx6) (f : Port → Port) : State :=
  { s with motor := s.motor.set m (f (s.motor.get m)) }
/-- A sensor port. -/
def State.sensorAt (s : State) (i : Idx6) : SensorPort := s.sensor.get i
/-- A sensor port changed. -/
def State.modSensor (s : State) (i : Idx6) (f : SensorPort → SensorPort) : State :=
  { s with sensor := s.sensor.set i (f (s.sensor.get i)) }
/-- The sound engine changed. -/
def State.modSound (s : State) (f : Sound → Sound) : State := { s with sound := f s.sound }
/-- The supply monitor changed. -/
def State.modSupply (s : State) (f : Supply → Supply) : State := { s with supply := f s.supply }
/-- The converter changed. -/
def State.modConv (s : State) (f : Converter → Converter) : State := { s with conv := f s.conv }
/-- The tablet link unit changed. -/
def State.modLink (s : State) (f : Link → Link) : State := { s with link := f s.link }
/-- The host error items and watch changed. -/
def State.modHostUnit (s : State) (f : HostUnit → HostUnit) : State := { s with hostUnit := f s.hostUnit }
/-- A line's frame engine. -/
def State.lineAt (s : State) : LineId → LineUnit
  | .host => s.host
  | .tablet => s.tablet
/-- A line's frame engine changed. -/
def State.modLine (s : State) (l : LineId) (f : LineUnit → LineUnit) : State :=
  match l with
  | .host => { s with host := f s.host }
  | .tablet => { s with tablet := f s.tablet }

/-- A free level and the state with that free value used up (log entry 10). -/
def State.takeFree (s : State) : Bool × State :=
  (Config.freeLevel s.freeIdx, { s with freeIdx := s.freeIdx + 1 })

/-! ### Bytes of replies and notices (R168) -/

/-- A one-byte field. -/
def u8 (n : Nat) : List Byte := [BitVec.ofNat 8 n]
/-- A two-byte field. -/
def u16 (n : Nat) : List Byte := le16 (BitVec.ofNat 16 n)
/-- A four-byte field. -/
def u32 (n : Nat) : List Byte := le32 (BitVec.ofNat 32 n)
/-- A signed two-byte field. -/
def i16 (z : Int) : List Byte := le16 (BitVec.ofInt 16 z)
/-- A signed four-byte field. -/
def i32 (z : Int) : List Byte := le32 (BitVec.ofInt 32 z)
/-- A flag byte: 0 for clear, 1 for set. -/
def flag8 (b : Bool) : List Byte := u8 (if b then 1 else 0)
/-- A set of six held as bits, bit n meaning member n (R168). -/
def set8 (v : Six Bool) : List Byte :=
  u8 ((if v.i0 then 1 else 0) + (if v.i1 then 2 else 0) + (if v.i2 then 4 else 0) + (if v.i3 then 8 else 0) +
    (if v.i4 then 16 else 0) + (if v.i5 then 32 else 0))

/-! ### Outcome lists (R18, R127) -/

/-- A record appended to an outcome list of up to 4: at 4 the oldest is removed and the dropped count rises (R18, R127).
The answer is the new list and the new dropped count. -/
def pushOutcome {α : Type} (list : List α) (dropped : Nat) (r : α) : List α × Nat :=
  if list.length < 4 then (list ++ [r], dropped) else (list.tail ++ [r], satAdd 255 dropped 1)

/-- An outcome record of a move appended to a port's list, with the port's position and this uptime (R18). -/
def Port.addOutcome (p : Port) (mv : Move) (x : OutcomeCode) (uptime : Word) : Port :=
  let r : MotorOutcome := ⟨mv.tag, mv.issuer, x, p.position, uptime⟩
  { p with outcomes := (pushOutcome p.outcomes p.dropped r).1, dropped := (pushOutcome p.outcomes p.dropped r).2 }

/-- An outcome record of a clip appended to the sound outcome list (R127). -/
def Sound.addOutcome (e : Sound) (tag : Half) (issuer : Owner) (x : OutcomeCode) (uptime : Word) : Sound :=
  let r : SoundOutcome := ⟨tag, issuer, x, uptime⟩
  { e with outcomes := (pushOutcome e.outcomes e.dropped r).1, dropped := (pushOutcome e.outcomes e.dropped r).2 }

end Sys2Proof.Machine
end

