-- ==== Sys2Proof/Machine/Flags.lean ====
section
/-! DEFINITION. Every flag the part raises: the attention table's entries and mask (R160 to R163), the POWER cause flags
(R56) and the SENSOR cause flags (R76). -/

namespace Sys2Proof.Machine

/-- The sources in order of priority (R160). -/
def Source.all : List Source :=
  [.power, .hostLink, .motor .i0, .motor .i1, .motor .i2, .motor .i3, .motor .i4, .motor .i5, .sound,
    .sensor .i0, .sensor .i1, .sensor .i2, .sensor .i3, .sensor .i4, .sensor .i5, .tablet]

/-- The number of a source (R160). -/
def Source.number : Source → Nat
  | .power => 0
  | .hostLink => 1
  | .motor m => 2 + m.toNat
  | .sound => 8
  | .sensor i => 9 + i.toNat
  | .tablet => 15

/-- The raise count of an entry; the entry is pending when it is not 0 (R160). -/
def Attention.count (a : Attention) : Source → Nat
  | .power => a.power
  | .hostLink => a.hostLink
  | .motor m => a.motor.get m
  | .sound => a.sound
  | .sensor i => a.sensor.get i
  | .tablet => a.tablet

/-- The table with one entry's raise count replaced. -/
def Attention.setCount (a : Attention) (src : Source) (n : Nat) : Attention :=
  match src with
  | .power => { a with power := n }
  | .hostLink => { a with hostLink := n }
  | .motor m => { a with motor := a.motor.set m n }
  | .sound => { a with sound := n }
  | .sensor i => { a with sensor := a.sensor.set i n }
  | .tablet => { a with tablet := n }

/-- One raise of a source (R161): the entry becomes pending and its raise count rises, stopping at 255. -/
def State.raise (s : State) (src : Source) : State :=
  { s with attn := s.attn.setCount src (satAdd 255 (s.attn.count src) 1) }

/-- A raise made only when something changed. -/
def State.raiseIf (s : State) (changed : Bool) (src : Source) : State :=
  if changed then s.raise src else s

/-- Whether a source is masked (R162). -/
def Attention.masked (a : Attention) (src : Source) : Bool := a.mask.getLsbD src.number

/-- Whether a source is pending (R160). -/
def Attention.isPending (a : Attention) (src : Source) : Bool := a.count src != 0

/-- The set of pending sources as 16 bits, bit n for source n (R162, R168). -/
def Attention.pendingSet (a : Attention) : Nat :=
  (Source.all.map fun src => if a.isPending src then 2 ^ src.number else 0).sum

/-- The line an entry is routed to (R163): MOTOR and SOUND by the unit's owner, everything else to the host. -/
def State.route (s : State) : Source → LineId
  | .motor m => match (s.port m).owner with | .brick => .host | .remote => .tablet
  | .sound => match s.sound.owner with | .brick => .host | .remote => .tablet
  | _ => .host

/-- The source whose notice a line's arbiter would take (R136, R164): pending, unmasked, routed to the line, of highest
priority. -/
def State.waitingSource (s : State) (l : LineId) : Option Source :=
  Source.all.find? fun src => s.attn.isPending src && !s.attn.masked src && s.route src == l

/-! ### POWER causes (R56) -/

/-- The seven POWER causes. -/
inductive PowerCause where
  | powerOn | pin | soft | critical | restored | level | foldback
  deriving DecidableEq, Repr

/-- A POWER cause flag set. -/
def PowerCauses.set (c : PowerCauses) : PowerCause → PowerCauses
  | .powerOn => { c with powerOn := true }
  | .pin => { c with pin := true }
  | .soft => { c with soft := true }
  | .critical => { c with critical := true }
  | .restored => { c with restored := true }
  | .level => { c with level := true }
  | .foldback => { c with foldback := true }

/-- The POWER cause byte (R171). -/
def PowerCauses.bits (c : PowerCauses) : Nat :=
  (if c.powerOn then 1 else 0) + (if c.pin then 2 else 0) + (if c.soft then 4 else 0) + (if c.critical then 8 else 0) +
    (if c.restored then 16 else 0) + (if c.level then 32 else 0) + (if c.foldback then 64 else 0)

/-- Setting a POWER cause flag raises the POWER attention (R56). -/
def State.raisePower (s : State) (c : PowerCause) : State :=
  (s.modSupply fun u => { u with causes := u.causes.set c }).raise .power

/-! ### SENSOR causes (R76) -/

/-- The five SENSOR causes. -/
inductive SensorCause where
  | report | mode | connect | lost | fault
  deriving DecidableEq, Repr

/-- A SENSOR cause flag set. -/
def SensorCauses.set (c : SensorCauses) : SensorCause → SensorCauses
  | .report => { c with report := true }
  | .mode => { c with mode := true }
  | .connect => { c with connect := true }
  | .lost => { c with lost := true }
  | .fault => { c with fault := true }

/-- The SENSOR cause byte (R171). -/
def SensorCauses.bits (c : SensorCauses) : Nat :=
  (if c.report then 1 else 0) + (if c.mode then 2 else 0) + (if c.connect then 4 else 0) + (if c.lost then 8 else 0) +
    (if c.fault then 16 else 0)

/-- A sensor port raises its SENSOR attention with a cause (R76). -/
def State.raiseSensor (s : State) (i : Idx6) (c : SensorCause) : State :=
  (s.modSensor i fun p => { p with causes := p.causes.set c }).raise (.sensor i)

end Sys2Proof.Machine
end

