-- ==== Sys2Proof/Machine/Converter.lean ====
section
/-! DEFINITION. The measurement converter's due list and choice (R42, R43). -/

namespace Sys2Proof.Machine

/-- A channel entered in the due list; one already in it stays (R42). -/
def DueList.enter (d : DueList) : Channel → DueList
  | .battery => { d with battery := true }
  | .current => { d with current := true }
  | .sensor i => { d with sensor := d.sensor.set i true }

/-- A channel taken out of the due list. -/
def DueList.leave (d : DueList) : Channel → DueList
  | .battery => { d with battery := false }
  | .current => { d with current := false }
  | .sensor i => { d with sensor := d.sensor.set i false }

/-- The sensor ports in the order the converter looks at them: onward from the port after the last one served, wrapping
from port 6 to port 1 (R43). -/
def serviceOrder (last : Idx6) : List Idx6 := ((Idx6.all ++ Idx6.all).drop (last.toNat + 1)).take 6

/-- The channel the converter takes next (R43): battery, then current, then the sensor ports in order. -/
def Converter.next (c : Converter) : Option Channel :=
  if c.due.battery then some .battery
  else if c.due.current then some .current
  else ((serviceOrder c.lastServed).find? fun i => c.due.sensor.get i).map .sensor

/-- An idle converter with a due channel begins a conversion at once (R42, R43). -/
def Converter.begin (c : Converter) : Converter :=
  match c.inFlight, c.next with
  | none, some ch =>
    { c with due := c.due.leave ch, inFlight := some ⟨ch, false⟩,
             lastServed := match ch with | .sensor i => i | _ => c.lastServed }
  | _, _ => c

/-- A port leaves ANALOG, or is cut by an overload (R44, R62, R72): its entry leaves the due list, and the result of a
conversion in flight for it is dropped. -/
def Converter.dropSensor (i : Idx6) (c : Converter) : Converter :=
  { c with due := c.due.leave (.sensor i),
           inFlight := c.inFlight.map fun f => if f.channel = .sensor i then { f with dropped := true } else f }

/-- The battery and current channels become due (R42): each enters the due list and its due time advances by 10 ms. -/
def Converter.supplyDue (c : Converter) : Converter :=
  { c with due := (c.due.enter .battery).enter .current, batteryDue := c.batteryDue + 10, currentDue := c.currentDue + 10 }

end Sys2Proof.Machine
end

