-- ==== Sys2Proof/Machine/Operands.lean ====
section
/-! DEFINITION. The fields of requests: the codes of R168 read into the model's own values, ranges refused or clamped, and
the answers a request can have (R134). A request's rule is a list of checks in order; the first that fails is the
answer, and a refused request changes nothing (R3, R61, R108, R135), because it has no state to answer with. -/

namespace Sys2Proof.Machine

/-- The status codes (R134). -/
inductive Status where
  | ok | busy | badLength | unknownKind | badPort | badParam | notOwner | notPermitted | queueFull | ringFull
  | wrongState | powerHold | badGroup | badGuard
  deriving DecidableEq, Repr

/-- The code of a status (R134). -/
def Status.code : Status → Nat
  | .ok => 0x00 | .busy => 0x01 | .badLength => 0x02 | .unknownKind => 0x03 | .badPort => 0x04 | .badParam => 0x05
  | .notOwner => 0x06 | .notPermitted => 0x07 | .queueFull => 0x08 | .ringFull => 0x09 | .wrongState => 0x0A
  | .powerHold => 0x0B | .badGroup => 0x0C | .badGuard => 0x0D

/-- A refusal: its status, and its data, which is empty but for SMART_PROFILE's (R97, R134). -/
structure Refused where
  status : Status
  data : List Byte
  deriving DecidableEq, Repr

/-- What a request's rule answers: a refusal, or a value. -/
abbrev Check (α : Type) := Except Refused α

/-- A taken request's answer: the new state and the OK reply's data (R134), or a refusal. -/
abbrev Answer := Check (State × List Byte)

/-- A check that must hold, with the status its failure gives. -/
def need (c : Bool) (st : Status) : Check Unit := if c then .ok () else .error ⟨st, []⟩

/-- A code that must name something, with the status its failure gives. -/
def require {α : Type} (o : Option α) (st : Status) : Check α :=
  match o with
  | some a => .ok a
  | none => .error ⟨st, []⟩

/-! ### Codes (R168) -/

/-- Motor ports are coded 0 to 5 for A to F. -/
def motorOf (b : Byte) : Option Idx6 := Idx6.ofNat? b.toNat

/-- Sensor ports are coded by their numbers, 1 to 6. -/
def sensorOf (b : Byte) : Option Idx6 := if b.toNat = 0 then none else Idx6.ofNat? (b.toNat - 1)

/-- A flag byte: 0 clear, 1 set, any other value none. -/
def flagOf (b : Byte) : Option Bool :=
  match b.toNat with
  | 0 => some false
  | 1 => some true
  | _ => none

/-- A set of six held as bits; none where bit 6 or 7 is set (R168). -/
def setOf (b : Byte) : Option (Six Bool) :=
  if b.toNat < 64 then
    some ⟨b.getLsbD 0, b.getLsbD 1, b.getLsbD 2, b.getLsbD 3, b.getLsbD 4, b.getLsbD 5⟩
  else none

def ownerOf (b : Byte) : Option Owner :=
  match b.toNat with | 0 => some .brick | 1 => some .remote | _ => none
def polarityOf (b : Byte) : Option Polarity :=
  match b.toNat with | 0 => some .normal | 1 => some .reversed | _ => none
def failActionOf (b : Byte) : Option FailAction :=
  match b.toNat with | 0 => some .coast | 1 => some .brake | _ => none
def stopStyleOf (b : Byte) : Option StopStyle :=
  match b.toNat with | 0 => some .coast | 1 => some .brake | 2 => some .hold | _ => none
def comparisonOf (b : Byte) : Option Comparison :=
  match b.toNat with
  | 0 => some .atLeast | 1 => some .atMost | 2 => some .crossUp | 3 => some .crossDown | 4 => some .changed | _ => none
def sensorModeOf (b : Byte) : Option SensorMode :=
  match b.toNat with
  | 0 => some .off | 1 => some .analog | 2 => some .digital | 3 => some .counter | 4 => some .smart | _ => none
def pullOf (b : Byte) : Option Pull :=
  match b.toNat with | 0 => some .none | 1 => some .up | 2 => some .down | _ => none
def directionOf (b : Byte) : Option Direction :=
  match b.toNat with | 0 => some .input | 1 => some .outputLow | 2 => some .outputHigh | _ => none
def edgeOf (b : Byte) : Option Edge :=
  match b.toNat with | 0 => some .rise | 1 => some .fall | 2 => some .both | _ => none
def waveformOf (b : Byte) : Option Waveform :=
  match b.toNat with | 0 => some .square | 1 => some .sine | _ => none
def formatOf (b : Byte) : Option StreamFormat :=
  match b.toNat with | 0 => some .linear8 | 1 => some .linear16 | 2 => some .companded8 | _ => none
/-- The tablet rates by their codes (R152, R168). -/
def tabletRateOf (b : Byte) : Option Nat :=
  match b.toNat with | 0 => some 115200 | 1 => some 460800 | 2 => some 921600 | _ => none
/-- The quiet units by their codes (R152, R168). -/
def quietUnitOf (b : Byte) : Option Nat :=
  match b.toNat with | 0 => some 10 | 1 => some 250 | _ => none

def Owner.code : Owner → Nat | .brick => 0 | .remote => 1
def Polarity.code : Polarity → Nat | .normal => 0 | .reversed => 1
def FailAction.code : FailAction → Nat | .coast => 0 | .brake => 1
def Motion.code : Motion → Nat
  | .speed _ => 0 | .timed _ _ => 1 | .position _ _ => 2 | .relative _ _ => 3 | .rest _ _ => 4
def Rest.code : Rest → Nat | .free => 0 | .braked => 1 | .holding => 2 | .stalled => 5
def Phase.code : Phase → Nat | .ramp => 1 | .cruise => 2 | .braking => 3 | .approach => 4
/-- The port state's code (R168). -/
def Activity.code : Activity → Nat
  | .rest r => r.code
  | .running _ => 3
  | .groupWait _ => 4
  | .shutdown => 6
/-- The phase's code, NONE in every state but RUNNING (R6, R168). -/
def Activity.phaseCode : Activity → Nat
  | .running r => r.phase.code
  | _ => 0
/-- The rest under wait's code, 0xFF when absent (R168). -/
def Activity.waitCode : Activity → Nat
  | .groupWait r => r.code
  | _ => 0xFF
def OutcomeCode.code : OutcomeCode → Nat
  | .done => 0 | .guard => 1 | .guardLost => 2 | .stalled => 3 | .replaced => 4 | .ownerChanged => 5 | .watch => 6
  | .quiet => 7 | .power => 8 | .groupBroken => 9 | .allStop => 10 | .stopped => 11
def SupplyMode.code : SupplyMode → Nat
  | .pending => 0 | .normal => 1 | .low => 2 | .critical => 3 | .recovery => 4
def SensorMode.code : SensorMode → Nat
  | .off => 0 | .analog => 1 | .digital => 2 | .counter => 3 | .smart => 4
def ReadingStatus.code : ReadingStatus → Nat | .none => 0 | .fresh => 1 | .stale => 2 | .fault => 3
def LineState.code : LineState → Nat
  | .listen => 0 | .announcing => 1 | .accepting => 2 | .starting => 3 | .streaming => 4 | .switching => 5
def ValueFormat.code : ValueFormat → Nat | .int8 => 0 | .int16 => 1 | .int32 => 2
def LinkState.code : LinkState → Nat | .down => 0 | .up => 1 | .quiet => 2
/-- The clip kind's code of a playing clip (R168). -/
def PlayCtx.kindCode : PlayCtx → Nat | .tone _ => 0 | .stream _ => 1
/-- The player state a playing clip gives: TONE, STREAM or STARVED (R168). -/
def PlayCtx.stateCode : PlayCtx → Nat
  | .tone _ => 1
  | .stream c => if c.starved then 3 else 2
/-- The player state's code (R168). -/
def Player.code : Player → Nat
  | .idle => 0
  | .playing p => p.ctx.stateCode
  | .immediate _ _ => 4
/-- The suspended state's code: IDLE unless a clip is suspended (R109, R168). -/
def Player.suspendedCode : Player → Nat
  | .immediate _ (some p) => p.ctx.stateCode
  | _ => 0

/-! ### Fields -/

/-- A numeric field refused BAD_PARAM outside its range. -/
def inRange (lo hi n : Nat) : Check Nat := (need (lo ≤ n && n ≤ hi) .badParam).map fun _ => n

/-- R1's field table: the configuration of a PORT_SETUP and whether the acceleration was clamped. -/
def checkPortConfig (r : PortConfigRaw) : Check (PortConfig × Bool) := do
  let motorPolarity ← require (polarityOf r.motorPolarity) .badParam
  let encoderPolarity ← require (polarityOf r.encoderPolarity) .badParam
  let maxSpeed ← inRange 100 2000 r.maxSpeed.toNat
  let kp ← inRange 0 2047 r.kp.toNat
  let ki ← inRange 0 255 r.ki.toNat
  let kf ← inRange 0 1023 r.kf.toNat
  let dutyLimit ← inRange 0 1000 r.dutyLimit.toNat
  let stallDuty ← inRange 100 1000 r.stallDuty.toNat
  let stallSpeed ← inRange 0 500 r.stallSpeed.toNat
  let stallTime ← inRange 20 2000 r.stallTime.toNat
  let tolerance ← inRange 0 50 r.tolerance.toNat
  let holdSpeed ← inRange 20 500 r.holdSpeed.toNat
  let failAction ← require (failActionOf r.failAction) .badParam
  let accel := clampNat 100 20000 r.accel.toNat
  return ({ motorPolarity, encoderPolarity, maxSpeed, accel, kp, ki, kf, dutyLimit, stallDuty, stallSpeed, stallTime,
            tolerance, holdSpeed, failAction }, accel != r.accel.toNat)

/-- R4's treatment of kind, speed, target, duration and rest style: the motion and whether a clamp changed a value. -/
def checkMotion (maxSpeed : Nat) (r : MoveRaw) : Check (Motion × Bool) :=
  let v := r.speed.toInt
  let signedSpeed := clampInt (-maxSpeed) maxSpeed v
  let magnitude := clampNat 1 maxSpeed v.natAbs
  let duration := clampNat 1 600000 r.duration.toNat
  match r.kind.toNat with
  | 0 => .ok (.speed signedSpeed, signedSpeed != v)
  | 1 => .ok (.timed signedSpeed duration, signedSpeed != v || duration != r.duration.toNat)
  | 2 => do
    need (r.target.toInt != -2147483648) .badParam
    return (.position magnitude r.target.toInt, magnitude != v.natAbs)
  | 3 => .ok (.relative magnitude r.target.toInt, magnitude != v.natAbs)
  | 4 => do
    let style ← require (stopStyleOf r.restStyle) .badParam
    if r.duration.toNat = 0 then return (.rest style 0, false)
    else return (.rest style duration, duration != r.duration.toNat)
  | _ => .error ⟨.badParam, []⟩

/-- R99's guard checks, in their order. `readMask` is the tablet's read mask in force. -/
def checkGuard (issuer : Owner) (readMask : Six Bool) (r : MoveRaw) : Check (Option Guard) := do
  let isPresent ← require (flagOf r.guardPresent) .badGuard
  if isPresent then
    let sensor ← require (sensorOf r.guardPort) .badGuard
    need (r.guardIndex.toNat ≤ 3) .badGuard
    let comparison ← require (comparisonOf r.guardComparison) .badGuard
    let strict ← require (flagOf r.guardStrict) .badGuard
    need (issuer == .brick || readMask.get sensor) .notPermitted
    return some ⟨sensor, r.guardIndex.toNat, comparison, r.guardThreshold.toInt, strict⟩
  else return none

/-- R110's treatment of a clip record: the clip's kind and whether a clamp changed a value. -/
def checkClip (r : ClipRaw) : Check (ClipKind × Bool) :=
  let frequency := clampNat 50 10000 r.frequency.toNat
  let duration := clampNat 1 10000 r.duration.toNat
  match r.kind.toNat with
  | 0 => do
    let waveform ← require (waveformOf r.waveform) .badParam
    return (.tone frequency duration waveform, frequency != r.frequency.toNat || duration != r.duration.toNat)
  | 1 => do
    let format ← require (formatOf r.format) .badParam
    need (r.rate.toNat == 8000 || r.rate.toNat == 16000) .badParam
    return (.stream format r.rate.toNat (if r.sampleCount.toNat = 0 then none else some r.sampleCount.toNat), false)
  | _ => .error ⟨.badParam, []⟩

/-- R61's report policy fields: the policy with its state at a mode entry (R75), and whether the interval was clamped. -/
def checkPolicy (r : SensorSetupRaw) (clock : Nat) : Check (Policy × Bool) :=
  let interval := clampNat 10 10000 r.interval.toNat
  match r.policy.toNat with
  | 0 => .ok (.none, false)
  | 1 => .ok (.every, false)
  | 2 => do
    let delta ← inRange 0 2147483647 r.delta.toNat
    return (.change delta none, false)
  | 3 => .ok (.interval interval (some clock), interval != r.interval.toNat)
  | _ => .error ⟨.badParam, []⟩

/-- A SENSOR_SETUP's mode with the fields that mode uses, checked (R61). The levels, timers and counts of the work are
set at the mode entry. -/
inductive ModeSetup where
  | off
  | analog (period averaging : Nat)
  | digital (pullA pullB : Pull) (directionA directionB : Direction) (debounceA debounceB : Nat) (edgeA edgeB : Edge)
  | counter (pullA pullB : Pull) (falling gated : Bool) (preset : Word)
  | smart (maxRate preferred : Nat)
  deriving DecidableEq, Repr

/-- The counting edge: RISE or FALL, with BOTH refused (R61, R168). The answer says FALL. -/
def countingEdgeOf (b : Byte) : Option Bool := flagOf b

/-- R61's fields of the requested mode, and whether the sample period was clamped. -/
def checkModeSetup (r : SensorSetupRaw) : Check (ModeSetup × Bool) := do
  match ← require (sensorModeOf r.mode) .badParam with
  | .off => return (.off, false)
  | .analog =>
    let n := r.averaging.toNat
    need (n == 1 || n == 2 || n == 4 || n == 8) .badParam
    let period := clampNat 5 1000 r.samplePeriod.toNat
    return (.analog period n, period != r.samplePeriod.toNat)
  | .digital =>
    let pullA ← require (pullOf r.pullA) .badParam
    let pullB ← require (pullOf r.pullB) .badParam
    let directionA ← require (directionOf r.directionA) .badParam
    let directionB ← require (directionOf r.directionB) .badParam
    let debounceA ← inRange 0 50 r.debounceA.toNat
    let debounceB ← inRange 0 50 r.debounceB.toNat
    let edgeA ← require (edgeOf r.edgeA) .badParam
    let edgeB ← require (edgeOf r.edgeB) .badParam
    return (.digital pullA pullB directionA directionB debounceA debounceB edgeA edgeB, false)
  | .counter =>
    let pullA ← require (pullOf r.pullA) .badParam
    let pullB ← require (pullOf r.pullB) .badParam
    let falling ← require (countingEdgeOf r.countingEdge) .badParam
    let gated ← require (flagOf r.gate) .badParam
    return (.counter pullA pullB falling gated r.preset, false)
  | .smart =>
    let maxRate ← inRange 0 3 r.maxRate.toNat
    let preferred ← inRange 0 7 r.preferred.toNat
    return (.smart maxRate preferred, false)

end Sys2Proof.Machine
end

