-- ==== Sys2Proof/Machine/Reading.lean ====
section
/-! DEFINITION. The reading table (R58 to R60), the report policies (R75), and the levels read from sensor pins. -/

namespace Sys2Proof.Machine

/-- The mode of a sensor port (R58). -/
def SensorPort.mode (p : SensorPort) : SensorMode :=
  match p.work with
  | .off => .off
  | .analog _ => .analog
  | .digital _ _ => .digital
  | .counter _ => .counter
  | .smart => .smart

/-- The port's work is held stopped by a supply overload (R72). -/
def SensorPort.isHeld (p : SensorPort) : Bool := p.record.status == .fault

/-- One value set (R59): values and value count written, sequence increased by 1, timestamp set, all together. -/
def State.valueSet (s : State) (i : Idx6) (status : ReadingStatus) (count : Nat) (values : Values) (decimals : Nat) :
    State :=
  s.modSensor i fun p =>
    { p with record := ⟨p.mode, status, p.record.sequence + 1, s.uptime, count, values, decimals⟩ }

/-- A change of status alone, which is no value set (R59). -/
def State.setStatus (s : State) (i : Idx6) (status : ReadingStatus) : State :=
  s.modSensor i fun p => { p with record := { p.record with status := status } }

/-- The report policy acts on a sampling value set (R75). -/
def State.samplePolicy (s : State) (i : Idx6) : State :=
  let p := s.sensorAt i
  let v := p.record.values.v0
  match p.policy with
  | .none => s
  | .every => s.raiseSensor i .report
  | .change delta reference =>
    let raises := match reference with
      | none => true
      | some ref => (v - ref).natAbs ≥ delta
    if p.record.status = .fresh && raises then
      (s.modSensor i fun p => { p with policy := .change delta (some v) }).raiseSensor i .report
    else s
  | .interval _ _ => s

/-- The level read from an input pin (R58, R65): what is driven on it; with nothing driving it, its pull; with no pull
either, a free value. -/
def State.readPin (s : State) (d : Drive) (pull : Pull) : Bool × State :=
  match d, pull with
  | .driven b, _ => (b, s)
  | .nothing, .up => (true, s)
  | .nothing, .down => (false, s)
  | .nothing, .none => s.takeFree

/-- The drive on a pin. -/
def SensorPort.drive (p : SensorPort) : PinId → Drive
  | .a => p.driveA
  | .b => p.driveB

/-- A level driven on a pin from outside. -/
def State.drivePin (s : State) (i : Idx6) (pin : PinId) (level : Bool) : State :=
  s.modSensor i fun p =>
    match pin with
    | .a => { p with driveA := .driven level }
    | .b => { p with driveB := .driven level }

/-- The 26 bytes of a reading record (R170). -/
def readingBytes (r : Reading) : List Byte :=
  u8 r.mode.code ++ u8 r.status.code ++ le16 r.sequence ++ le32 r.timestamp ++ u8 r.count ++ u8 r.decimals ++
    i32 r.values.v0 ++ i32 r.values.v1 ++ i32 r.values.v2 ++ i32 r.values.v3

end Sys2Proof.Machine
end

