-- ==== Sys2Proof/Machine/Smart.lean ====
section
/-! DEFINITION. The smart line controllers (chapter 5): characters and records, the line states, the transmitter, and the
three requests that act on a smart port. -/

namespace Sys2Proof.Machine

/-- A smart line controller. -/
def State.smartAt (s : State) (i : Idx6) : Smart := (s.sensorAt i).smart
/-- A smart line controller changed. -/
def State.modSmart (s : State) (i : Idx6) (f : Smart → Smart) : State :=
  s.modSensor i fun p => { p with smart := f p.smart }

/-! ### Records (R79, R81, R172) -/

/-- The exclusive-or of characters. -/
def xorAll (cs : List Byte) : Byte := cs.foldl (· ^^^ ·) 0

/-- A record's characters (R79): header, body, check. -/
def smartRecord (cls : Nat) (body : List Byte) : List Byte :=
  let header : Byte := BitVec.ofNat 8 (32 * cls + body.length)
  header :: (body ++ [0xFF ^^^ header ^^^ xorAll body])

/-- The class of a header: its top three bits (R79). -/
def classOf (header : Byte) : Nat := (header.extractLsb' 5 3).toNat
/-- The body length of a header: its low five bits (R79). -/
def bodyLength (header : Byte) : Nat := (header.extractLsb' 0 5).toNat

/-- The line rate of a rate code (R81). -/
def rateOfCode : Nat → Nat
  | 0 => 9600
  | 1 => 19200
  | 2 => 57600
  | _ => 115200

/-- The size in bytes of a value format (R81). -/
def ValueFormat.size : ValueFormat → Nat
  | .int8 => 1
  | .int16 => 2
  | .int32 => 4

/-- The value format of a code (R81). -/
def valueFormatOf (b : Byte) : Option ValueFormat :=
  match b.toNat with | 0 => some .int8 | 1 => some .int16 | 2 => some .int32 | _ => none

/-! ### The controller alone -/

/-- The controller stopped (R83); it keeps the setup's fields and the error count. -/
def Smart.stop (c : Smart) : Smart :=
  { Smart.reset with maxRate := c.maxRate, preferred := c.preferred, errors := c.errors }

/-- The controller started (R83): LISTEN at 2400 bit/s, profile empty, the setup's fields held. -/
def Smart.start (maxRate preferred : Nat) : Smart :=
  { Smart.reset with running := true, maxRate := maxRate, preferred := preferred }

/-- An idle transmitter with work begins it at once (R82): the protocol slot, then the oldest COMMAND, then a NUDGE. -/
def Smart.beginTx (c : Smart) : Smart :=
  if !c.running || c.tx.isSome then c
  else match c.slot, c.cmdFifo, c.nudge with
    | some r, _, _ => { c with tx := some r, slot := none }
    | none, r :: rest, _ => { c with tx := some r, cmdFifo := rest }
    | none, [], true => { c with tx := some (smartRecord 7 []), nudge := false }
    | none, [], false => c

/-- The room taken in the command FIFO (R96). -/
def Smart.cmdUsed (c : Smart) : Nat := (c.cmdFifo.map List.length).sum
/-- The free room of the command FIFO's 32 bytes (R96). -/
def Smart.cmdRoom (c : Smart) : Nat := 32 - c.cmdUsed

/-- The sensor lost (R92), as far as the controller goes: back to LISTEN at 2400 bit/s, still running. -/
def Smart.lose (c : Smart) : Smart :=
  { Smart.reset with running := c.running, maxRate := c.maxRate, preferred := c.preferred, errors := c.errors }

/-- The handshake failed (R87): the profile is cleared, the announce limit stops, LISTEN at 2400 bit/s. The FIFO and what
is under assembly stay. -/
def Smart.failHandshake (c : Smart) : Smart :=
  { c with profile := none, announceTimer := none, lineState := .listen, rate := 2400 }

/-- A record discarded and counted (R80); inside ANNOUNCING that fails the handshake (R87). -/
def Smart.discard (c : Smart) : Smart :=
  let c1 := { c with errors := satAdd 65535 c.errors 1, parser := none }
  if c1.lineState = .announcing then c1.failHandshake else c1

/-- The mode entry of a profile with an index. -/
def Profile.mode (p : Profile) (index : Nat) : Option ModeInfo := p.modes.find? fun m => m.index == index

/-- The profile holds an entry for every index (R86). -/
def Profile.isWhole (p : Profile) : Bool := (List.range p.modeCount).all fun k => (p.mode k).isSome

/-! ### Received records (R81 to R95) -/

/-- An ANNOUNCE (R84, R85): its fields checked, the profile begun (afresh) and the announce limit started. -/
def Smart.announce (c : Smart) (body : List Byte) (clock : Nat) : Smart :=
  let count := (rd8 body 2).toNat
  let code := (rd8 body 3).toNat
  if body.length = 4 && 1 ≤ count && count ≤ 8 && code ≤ 3 then
    { c with profile := some ⟨rd16 body 0, count, code, []⟩, lineState := .announcing, announceTimer := some clock }
  else c.discard

/-- A MODE_INFO in ANNOUNCING (R85): a failed length or range check is counted, a bad index is not, and either fails the
handshake. -/
def Smart.modeInfo (c : Smart) (body : List Byte) : Smart :=
  let nameLen := (rd8 body 4).toNat
  let count := (rd8 body 1).toNat
  let decimals := (rd8 body 3).toNat
  let index := (rd8 body 0).toNat
  match valueFormatOf (rd8 body 2), c.profile with
  | some format, some p =>
    if 5 ≤ body.length && body.length ≤ 16 && nameLen ≤ 11 && body.length = 5 + nameLen && 1 ≤ count && count ≤ 4 &&
        decimals ≤ 4 then
      if index < p.modeCount && (p.mode index).isNone then
        { c with profile := some { p with modes := p.modes ++ [⟨index, count, format, decimals, body.drop 5⟩] } }
      else c.failHandshake
    else c.discard
  | _, _ => c.discard

/-- The code of the agreed rate (R88): the lower of the sensor's and the port's. -/
def Smart.agreedCode (c : Smart) : Nat :=
  match c.profile with
  | some p => min p.maxRate c.maxRate
  | none => c.maxRate

/-- An ANNOUNCE_END in ANNOUNCING (R86, R88): the profile completes, the line enters ACCEPTING and an ACCEPT goes into the
protocol slot; or the handshake fails. -/
def Smart.announceEnd (c : Smart) (body : List Byte) : Smart :=
  if !body.isEmpty then c.discard
  else match c.profile with
    | some p =>
      if p.isWhole then
        { c with announceTimer := none, lineState := .accepting,
                 slot := some (smartRecord 5 (u8 c.agreedCode)) }.beginTx
      else c.failHandshake
    | none => c.failHandshake

/-- A DATA record checked against the profile (R90): the mode entry it is in, or none for a field failure. -/
def Smart.dataMode (c : Smart) (body : List Byte) : Option ModeInfo :=
  match c.profile, body with
  | some p, index :: _ =>
    match p.mode index.toNat with
    | some m => if index.toNat < p.modeCount && body.length = 1 + m.count * m.format.size then some m else none
    | none => none
  | _, _ => none

/-- Value k of a DATA record's body, sign-extended from its format (R90); 0 beyond the mode's value count. -/
def dataValue (m : ModeInfo) (body : List Byte) (k : Nat) : Int :=
  if k < m.count then
    match m.format with
    | .int8 => (rd8 body (1 + k)).toInt
    | .int16 => (rd16 body (1 + 2 * k)).toInt
    | .int32 => (rd32 body (1 + 4 * k)).toInt
  else 0

/-- An accepted DATA record (R71, R90): a FRESH value set in that mode, the loss timer started again, and the report policy
(R75). -/
def State.dataAccepted (s : State) (i : Idx6) (m : ModeInfo) (body : List Byte) : State :=
  let v := dataValue m body
  ((s.modSmart i fun c => { c with lossTimer := some s.clock }).valueSet i .fresh m.count ⟨v 0, v 1, v 2, v 3⟩
    m.decimals).samplePolicy i

/-- A DATA record in STARTING, STREAMING or SWITCHING (R89, R90, R95). In another mode of the profile it is ignored. -/
def State.smartData (s : State) (i : Idx6) (body : List Byte) : State :=
  let c := s.smartAt i
  match c.dataMode body with
  | none => s.modSmart i Smart.discard
  | some m =>
    if c.selected = some m.index then
      let streaming := (s.modSmart i fun c => { c with lineState := .streaming }).dataAccepted i m body
      match c.lineState with
      | .starting => streaming.raiseSensor i .connect
      | .switching => streaming.raiseSensor i .mode
      | _ => streaming
    else s

/-- A record whose check passed, judged by its class and the line state (R81, R84 to R90, R95). -/
def State.smartRecordReceived (s : State) (i : Idx6) (header : Byte) (body : List Byte) : State :=
  match classOf header with
  | 1 =>
    match (s.smartAt i).lineState with
    | .listen | .announcing => s.modSmart i fun c => c.announce body s.clock
    | _ => s
  | 2 =>
    match (s.smartAt i).lineState with
    | .announcing => s.modSmart i fun c => c.modeInfo body
    | _ => s
  | 3 =>
    match (s.smartAt i).lineState with
    | .announcing => s.modSmart i fun c => c.announceEnd body
    | _ => s
  | 4 =>
    match (s.smartAt i).lineState with
    | .starting | .streaming | .switching => s.smartData i body
    | _ => s
  | _ => s.modSmart i Smart.discard

/-! ### Characters (R78 to R80) -/

/-- A character enters the receive FIFO, or is dropped with the lost mark set (R78). -/
def Smart.enterChar (c : Smart) (char : Byte) (framing : Bool) : Smart :=
  if c.rxFifo.length < 64 then
    { c with rxFifo := c.rxFifo ++ [⟨char, framing, c.lostMark⟩], lostMark := false }
  else { c with lostMark := true }

/-- The parser takes one entry (R79, R80). -/
def State.parseEntry (s : State) (i : Idx6) (e : RxEntry) : State :=
  if e.framing || e.lostBefore then s.modSmart i Smart.discard
  else
    let cs := ((s.smartAt i).parser.getD []) ++ [e.char]
    let header := rd8 cs 0
    if cs.length < bodyLength header + 2 then s.modSmart i fun c => { c with parser := some cs }
    else
      let waiting := s.modSmart i fun c => { c with parser := none }
      -- header, body and check character give 0xFF exactly when the check character is right (R79)
      if xorAll cs = 0xFF then waiting.smartRecordReceived i header ((cs.drop 1).dropLast)
      else waiting.modSmart i Smart.discard

/-- The parser takes the FIFO's entries in order (R78, R79), as soon as they stand in it (log entry 8). -/
def State.parseAll (s : State) (i : Idx6) : State :=
  (s.smartAt i).rxFifo.foldl (fun t e => t.parseEntry i e) (s.modSmart i fun c => { c with rxFifo := [] })

/-- A character arrives on a smart line (R77 to R80); a stopped controller takes nothing. The pause timer runs from this
arrival while a record is being assembled. -/
def State.smartChar (s : State) (i : Idx6) (char : Byte) (framing : Bool) : State :=
  if (s.smartAt i).running then
    ((s.modSmart i fun c => c.enterChar char framing).parseAll i).modSmart i fun c =>
      { c with pauseTimer := if c.parser.isSome then some s.clock else none }
  else s

/-! ### Timers and the transmitter -/

/-- The pause limit passes while a record is being assembled (R80). -/
def State.smartPause (s : State) (i : Idx6) : State :=
  if (s.smartAt i).pauseTimer.isSome && (s.smartAt i).parser.isSome then
    s.modSmart i fun c => { c.discard with pauseTimer := none }
  else s

/-- The announce limit expires (R84, R87). -/
def State.smartAnnounceLimit (s : State) (i : Idx6) : State :=
  if (s.smartAt i).announceTimer.isSome then s.modSmart i Smart.failHandshake else s

/-- The switch delay passes (R88, R89): the agreed rate, the FIFO emptied, STARTING, a SELECT in the protocol slot, and the
nudge and loss timers started. -/
def State.smartSwitch (s : State) (i : Idx6) : State :=
  if (s.smartAt i).switchTimer.isSome then
    s.modSmart i fun c =>
      let index := match c.profile with
        | some p => if c.preferred < p.modeCount then c.preferred else 0
        | none => 0
      { c with rate := rateOfCode c.agreedCode, rxFifo := [], lostMark := false, parser := none, pauseTimer := none,
               switchTimer := none, lineState := .starting, selected := some index,
               slot := some (smartRecord 6 (u8 index)), nudgeTimer := some s.clock, lossTimer := some s.clock }.beginTx
  else s

/-- The nudge timer expires (R91): the NUDGE flag is set, the next expiry follows 100 ms later. -/
def State.smartNudge (s : State) (i : Idx6) : State :=
  match (s.smartAt i).nudgeTimer with
  | some t => s.modSmart i fun c => { c with nudge := true, nudgeTimer := some (t + 100) }.beginTx
  | none => s

/-- The loss timer expires (R92): the reading is STALE at once, the controller is back in LISTEN, LOST is raised. -/
def State.smartLoss (s : State) (i : Idx6) : State :=
  if (s.smartAt i).lossTimer.isSome then
    ((s.setStatus i .stale).modSmart i Smart.lose).raiseSensor i .lost
  else s

/-- A smart record has been sent (R82); after an ACCEPT the switch delay starts (R88). The transmitter begins what waits. -/
def State.smartSent (s : State) (i : Idx6) : State :=
  match (s.smartAt i).tx with
  | some r =>
    s.modSmart i fun c =>
      { c with tx := none,
               switchTimer := if classOf (rd8 r 0) == 5 && c.lineState == LineState.accepting then some s.clock
                              else c.switchTimer }.beginTx
  | none => s

/-! ### The requests -/

/-- R61's first two checks, which SENSOR_SETUP, SMART_SELECT and SMART_WRITE share. -/
def checkSetupPort (l : LineId) (port : Byte) (s : State) : Check Idx6 := do
  let i ← require (sensorOf port) .badPort
  need (l == .host || (s.link.setupAllowed && s.link.readMask.get i)) .notPermitted
  return i

/-- R73's checks, which SENSOR_READ and SMART_PROFILE share. -/
def checkReadPort (l : LineId) (port : Byte) (s : State) : Check Idx6 := do
  let i ← require (sensorOf port) .badPort
  need (l == .host || s.link.readMask.get i) .notPermitted
  return i

/-- SMART_SELECT (R94, R95). -/
def takeSmartSelect (l : LineId) (port mode : Byte) (s : State) : Answer := do
  let i ← checkSetupPort l port s
  let c := s.smartAt i
  need ((s.sensorAt i).mode == .smart && c.running) .wrongState
  need (c.lineState != .starting && c.lineState != .switching) .busy
  need (c.lineState == .streaming) .wrongState
  need (mode.toNat < (c.profile.elim 0 (·.modeCount))) .badParam
  return ((s.modSmart i fun c =>
      { c with lineState := .switching, selected := some mode.toNat, slot := some (smartRecord 6 [mode]),
               lossTimer := some s.clock }.beginTx).setStatus i .stale, [])

/-- SMART_WRITE (R96). -/
def takeSmartWrite (l : LineId) (port count : Byte) (bytes : List Byte) (s : State) : Answer := do
  let i ← checkSetupPort l port s
  need (1 ≤ count.toNat && count.toNat ≤ 24) .badParam
  let c := s.smartAt i
  need ((s.sensorAt i).mode == .smart && c.running && c.lineState == .streaming) .wrongState
  need (c.cmdUsed + (count.toNat + 2) ≤ 32) .queueFull
  let placed := { c with cmdFifo := c.cmdFifo ++ [smartRecord 0 bytes] }
  return (s.modSmart i fun _ => placed.beginTx, u8 placed.cmdRoom)

/-- The line summary (R97, R170). -/
def lineSummary (p : SensorPort) : List Byte :=
  let c := p.smart
  u8 p.mode.code ++ flag8 c.running ++ u8 c.lineState.code ++ u32 c.rate ++ u8 (c.selected.getD 0xFF) ++
    u16 c.errors ++ u8 c.cmdRoom

/-- A mode entry of the profile (R170). -/
def modeInfoBytes (m : ModeInfo) : List Byte :=
  u8 m.index ++ u8 m.count ++ u8 m.format.code ++ u8 m.decimals ++ u8 m.name.length ++ m.name

/-- The profile, its modes in index order (R97, R170). -/
def profileBytes (p : Profile) : List Byte :=
  le16 p.kind ++ u8 p.modeCount ++ u8 p.maxRate ++
    ((List.range p.modeCount).map fun k => (p.mode k).elim [] modeInfoBytes).flatten

/-- SMART_PROFILE (R97). -/
def takeSmartProfile (l : LineId) (port : Byte) (s : State) : Answer := do
  let i ← checkReadPort l port s
  let p := s.sensorAt i
  let wrong : Answer := .error ⟨.wrongState, lineSummary p⟩
  if p.mode == .smart && p.smart.running && p.smart.lineState != .listen && p.smart.lineState != .announcing then
    match p.smart.profile with
    | some profile => return (s, lineSummary p ++ profileBytes profile)
    | none => wrong
  else wrong

end Sys2Proof.Machine
end

