-- ==== Sys2Proof/Machine/Sensor.lean ====
section
/-! DEFINITION. The sensor unit (chapter 4): mode entries, ANALOG completions, DIGITAL debouncing, the COUNTER, supply
overload, report intervals, and SENSOR_SETUP and SENSOR_READ. -/

namespace Sys2Proof.Machine

/-- A sensor port's work and policy replaced. -/
def State.setWork (s : State) (i : Idx6) (w : SensorWork) : State := s.modSensor i fun p => { p with work := w }

/-! ### Mode entry (R62) -/

/-- The work of the mode in force ended (R62): the port's channel leaves the due list and a conversion in flight for it is
dropped, the smart line controller is stopped, and the protocol error count is 0 (R80). Windows, timers, armed state and
last-edge time go with the work that held them. -/
def State.endWork (s : State) (i : Idx6) : State :=
  (s.modConv (Converter.dropSensor i)).modSmart i fun c => { c.stop with errors := 0 }

/-- A DIGITAL pin at entry (R65): the debounced level of an input is its level read at entry, an output's level is the
driven one; the timer is stopped and the change count 0. -/
def State.enterPin (s : State) (d : Drive) (pull : Pull) (direction : Direction) (debounce : Nat) (edge : Edge) :
    DigitalPin × State :=
  match direction with
  | .input => let (level, s1) := s.readPin d pull; (⟨pull, direction, debounce, edge, level, none, 0⟩, s1)
  | .outputLow => (⟨pull, direction, debounce, edge, false, none, 0⟩, s)
  | .outputHigh => (⟨pull, direction, debounce, edge, true, none, 0⟩, s)

/-- The new mode entered (R58, R60, R63, R65, R68, R71): supply, pins, work, and the mode's initial value set. -/
def State.enterMode (s : State) (i : Idx6) (setup : ModeSetup) : State :=
  let p := s.sensorAt i
  let power (on : Bool) (t : State) : State := t.modSensor i fun p => { p with supplyOn := on }
  match setup with
  | .off => ((power false s).setWork i .off).valueSet i .none 0 ⟨0, 0, 0, 0⟩ 0
  | .analog period n =>
    (((power true s).setWork i (.analog ⟨period, n, [], s.clock⟩)).modConv fun c =>
      { c with due := c.due.enter (.sensor i) }).valueSet i .stale 3 ⟨0, 0, 0, 0⟩ 0
  | .digital pullA pullB dirA dirB debA debB edgeA edgeB =>
    let (a, s1) := s.enterPin p.driveA pullA dirA debA edgeA
    let (b, s2) := s1.enterPin p.driveB pullB dirB debB edgeB
    ((power true s2).setWork i (.digital a b)).valueSet i .fresh 4 ⟨levelValue a.level, levelValue b.level, 0, 0⟩ 0
  | .counter pullA pullB falling gated preset =>
    let (a, s1) := s.readPin p.driveA pullA
    let (b, s2) := s1.readPin p.driveB pullB
    ((power true s2).setWork i (.counter ⟨pullA, pullB, falling, gated, a == falling, preset, 0, none, b⟩)).valueSet i
      .fresh 3 ⟨signed32 preset, 0, levelValue b, 0⟩ 0
  | .smart maxRate preferred =>
    (((power true s).setWork i .smart).modSmart i fun _ => Smart.start maxRate preferred).valueSet i .stale 0
      ⟨0, 0, 0, 0⟩ 0

/-- A mode entry (R62): the old work ended, the new mode entered, the policy set afresh, MODE raised. -/
def State.modeEntry (s : State) (i : Idx6) (setup : ModeSetup) (policy : Policy) : State :=
  (((s.endWork i).enterMode i setup).modSensor i fun p => { p with policy := policy }).raiseSensor i .mode

/-- SENSOR_SETUP (R61, R62). -/
def takeSensorSetup (l : LineId) (port : Byte) (r : SensorSetupRaw) (s : State) : Answer := do
  let i ← checkSetupPort l port s
  let (setup, clampedPeriod) ← checkModeSetup r
  let (policy, clampedInterval) ← checkPolicy r s.clock
  return (s.modeEntry i setup policy, flag8 (clampedPeriod || clampedInterval))

/-- SENSOR_READ (R73). -/
def takeSensorRead (l : LineId) (port : Byte) (s : State) : Answer := do
  let i ← checkReadPort l port s
  return (s, readingBytes (s.sensorAt i).record)

/-! ### ANALOG (R63, R64) -/

/-- The port's channel becomes due a sample period after its previous due time (R63), unless the port is held. -/
def State.analogDue (s : State) (i : Idx6) : State :=
  match (s.sensorAt i).work with
  | .analog w =>
    if (s.sensorAt i).isHeld then s
    else (s.setWork i (.analog { w with dueAt := w.dueAt + w.period })).modConv fun c =>
      { c with due := c.due.enter (.sensor i) }
  | _ => s

/-- The mean of a window, truncated (R64). -/
def windowMean (window : List Nat) : Nat := window.sum / window.length

/-- A completion handed to an ANALOG port (R64): the window, its mean in mV, the two pin levels, a FRESH value set. -/
def State.analogResult (s : State) (i : Idx6) (raw : Nat) : State :=
  let p := s.sensorAt i
  match p.work with
  | .analog w =>
    let window := (raw :: w.window).take w.averaging
    let (a, s1) := s.readPin p.driveA .none
    let (b, s2) := s1.readPin p.driveB .none
    ((s2.setWork i (.analog { w with window := window })).valueSet i .fresh 3
      ⟨(windowMean window * 5000 / 4095 : Nat), levelValue a, levelValue b, 0⟩ 0).samplePolicy i
  | _ => s

/-! ### DIGITAL (R65 to R67) -/

/-- Whether a change of the debounced level to `level` matches the pin's edge setting (R67). -/
def Edge.matches (e : Edge) (level : Bool) : Bool :=
  match e with
  | .rise => level
  | .fall => !level
  | .both => true

/-- One pin of the two. -/
def pinOf (a b : DigitalPin) : PinId → DigitalPin
  | .a => a
  | .b => b

/-- The debounced level of a pin changed (R67): its timer stops, its count rises on a matching edge, and a value set of
the two levels and counts follows. -/
def State.debouncedChange (s : State) (i : Idx6) (pin : PinId) (level : Bool) : State :=
  match (s.sensorAt i).work with
  | .digital a b =>
    let change (p : DigitalPin) : DigitalPin :=
      { p with level := level, timer := none, count := if p.edge.matches level then p.count + 1 else p.count }
    let (a, b) := match pin with | .a => (change a, b) | .b => (a, change b)
    ((s.setWork i (.digital a b)).valueSet i .fresh 4
      ⟨levelValue a.level, levelValue b.level, signed32 a.count, signed32 b.count⟩ 0).samplePolicy i
  | _ => s

/-- A pin's debounce timer set. -/
def State.setDebounce (s : State) (i : Idx6) (pin : PinId) (t : Timer) : State :=
  match (s.sensorAt i).work with
  | .digital a b =>
    s.setWork i (match pin with | .a => .digital { a with timer := t } b | .b => .digital a { b with timer := t })
  | _ => s

/-- A change of a DIGITAL input pin's level (R66). An output pin has no debouncer (R65), a held port works nothing (R72),
and in any other mode the level is noted and nothing else happens (log entry 18). -/
def State.digitalPin (s : State) (i : Idx6) (pin : PinId) (level : Bool) : State :=
  let p := s.sensorAt i
  let s1 := s.drivePin i pin level
  match p.work with
  | .digital a b =>
    let q := pinOf a b pin
    if q.direction ≠ .input || p.isHeld || p.drive pin = .driven level then s1
    else if level = q.level then s1.setDebounce i pin none
    else if q.debounce = 0 then s1.debouncedChange i pin level
    else s1.setDebounce i pin (some s.clock)
  | _ => s1

/-- A debounce timer expires (R66): the debounced level takes the pin's level. The timer runs only while the two differ,
so the new level is the other one. -/
def State.debounceExpires (s : State) (i : Idx6) (pin : PinId) : State :=
  match (s.sensorAt i).work with
  | .digital a b =>
    let q := pinOf a b pin
    if q.timer.isSome then s.debouncedChange i pin (!q.level) else s
  | _ => s

/-! ### COUNTER (R68 to R70) -/

/-- A counted edge (R69, R70): the count rises, the period becomes the time since the last counted edge, limited to
10,000,000 µs, and the record is a value set. -/
def State.countEdge (s : State) (i : Idx6) (w : CounterWork) (now : Nat) : State :=
  let period := match w.lastEdge with | some t => min 10000000 (now - t) | none => w.period
  let count := w.count + 1
  ((s.setWork i (.counter { w with count := count, period := period, lastEdge := some now })).valueSet i .fresh 3
    ⟨signed32 count, period, levelValue w.gateLevel, 0⟩ 0).samplePolicy i

/-- A change of pin A in COUNTER mode (R68, R69) at `us` µs after the latest millisecond of uptime: the change to the level
the counting edge leaves arms the counter; an armed counter takes the counting edge, if the gate allows. -/
def State.counterPinA (s : State) (i : Idx6) (level : Bool) (us : Nat) : State :=
  let p := s.sensorAt i
  let s1 := s.drivePin i .a level
  match p.work with
  | .counter w =>
    if p.isHeld || p.driveA = .driven level then s1
    else if level = w.falling then s1.setWork i (.counter { w with armed := true })
    else if w.armed && (!w.gated || w.gateLevel) then s1.countEdge i w (1000 * s.clock + us)
    else s1
  | _ => s1

/-- A level driven on pin B in COUNTER mode (R69): a change of the pin's level is a value set carrying the new gate level. A
level that the pin already has, by its pull or by what drove it before, is no change. -/
def State.counterPinB (s : State) (i : Idx6) (level : Bool) : State :=
  let p := s.sensorAt i
  let s1 := s.drivePin i .b level
  match p.work with
  | .counter w =>
    if p.isHeld || level = w.gateLevel then s1
    else ((s1.setWork i (.counter { w with gateLevel := level })).valueSet i .fresh 3
      ⟨signed32 w.count, w.period, levelValue level, 0⟩ 0).samplePolicy i
  | _ => s1

/-! ### Overload and intervals (R72, R75) -/

/-- The work of a mode stopped by an overload: only the debounce timers are part of it (R72). -/
def SensorWork.halt : SensorWork → SensorWork
  | .digital a b => .digital { a with timer := none } { b with timer := none }
  | w => w

/-- The report policy stopped by an overload: the interval timer stops (R72). -/
def Policy.halt : Policy → Policy
  | .interval period _ => .interval period Option.none
  | p => p

/-- A draw above 120 mA (R72) on a port whose supply is on: the supply is cut, the status is FAULT and nothing else of the
record changes, the port's work and policy stop, and FAULT is raised. -/
def State.overload (s : State) (i : Idx6) : State :=
  let p := s.sensorAt i
  if p.mode = .off || !p.supplyOn then s
  else ((s.modConv (Converter.dropSensor i)).modSensor i fun p =>
    { p with work := p.work.halt, supplyOn := false, record := { p.record with status := .fault },
             policy := p.policy.halt, smart := p.smart.stop }).raiseSensor i .fault

/-- The INTERVAL policy's timer expires (R75): REPORT if the record is FRESH; the next expiry follows by the interval. -/
def State.intervalExpires (s : State) (i : Idx6) : State :=
  match (s.sensorAt i).policy with
  | .interval period (some t) =>
    let s1 := s.modSensor i fun p => { p with policy := .interval period (some (t + period)) }
    if (s.sensorAt i).record.status = .fresh then s1.raiseSensor i .report else s1
  | _ => s

end Sys2Proof.Machine
end

