-- ==== Sys2Proof/Machine/Drive.lean ====
section
/-! DEFINITION. The drive unit outside the regulation event (chapter 1): rests, stopping events, groups, starts, and the
requests that act on a port. Chapter 2's event is in Regulation.lean. -/

namespace Sys2Proof.Machine

/-! ### One port -/

/-- The port runs a move. -/
def Port.isRunning (p : Port) : Bool := match p.act with | .running _ => true | _ => false
/-- The port is in SHUTDOWN. -/
def Port.isShutdown (p : Port) : Bool := p.act == .shutdown
/-- The group of the queue head, 0 without a head. -/
def Port.headGroup (p : Port) : Nat := match p.queue with | mv :: _ => mv.group | [] => 0
/-- The port is ready for its head's group (R20): it shows GROUP_WAIT, or runs with the ready flag set. -/
def Port.isReady (p : Port) : Bool :=
  match p.act with
  | .groupWait _ => true
  | .running r => r.ready
  | _ => false

/-- Entering a rest (R15): the running move is gone, phase NONE, elapsed time and stall timer 0. FREE, BRAKED and STALLED
set v_p, I and the applied duty to 0 (R7, R36); HOLDING keeps them and takes the position as its hold target. -/
def Port.enterRest (r : Rest) (p : Port) : Port :=
  match r with
  | .holding => { p with act := .rest .holding, stallTimer := 0, holdTarget := p.position }
  | _ => { p with act := .rest r, stallTimer := 0, vp := 0, integral := 0, duty := 0 }

/-- Entering SHUTDOWN (R52). -/
def Port.enterShutdown (p : Port) : Port :=
  { p with act := .shutdown, stallTimer := 0, vp := 0, integral := 0, duty := 0 }

/-- The rest an end action decides (R15). -/
def restOf : StopStyle → Rest
  | .coast => .free
  | .brake => .braked
  | .hold => .holding

/-- The fail action rest, with SHUTDOWN left as it is (R16). -/
def Port.failRest (p : Port) : Port :=
  if p.isShutdown then p
  else p.enterRest (match p.config.failAction with | .coast => .free | .brake => .braked)

/-- BRAKED, with SHUTDOWN left as it is (R17). -/
def Port.brakeRest (p : Port) : Port := if p.isShutdown then p else p.enterRest .braked

/-- A port no longer waits for a group (R11, R13, R22): GROUP_WAIT returns to its rest under wait, which went on all the
while, and a running move's ready flag is cleared. DEDUCED, log entry 17: returning is no entry into a rest. -/
def Port.leaveWait (p : Port) : Port :=
  match p.act with
  | .groupWait r => { p with act := .rest r }
  | .running r => { p with act := .running { r with ready := false } }
  | _ => p

/-- Every waiting record discarded and counted (R13, R18), the replacing mark with its record. -/
def Port.discardQueue (p : Port) : Port :=
  { p with queue := [], replacing := false, discarded := satAdd 255 p.discarded p.queue.length }

/-- The running move, if any, ended with an outcome record (R18). What the port does next is set by the caller. -/
def Port.endRunning (x : OutcomeCode) (uptime : Word) (p : Port) : Port :=
  match p.act with
  | .running r => p.addOutcome r.move x uptime
  | _ => p

/-- A move started on a port that has taken it from its queue (R4, R8, R9). `carry` says that the start follows a running
move at the same event: v_p is carried over and I kept; otherwise both are 0. A REST of COAST or BRAKE style sets v_p, I
and the applied duty to 0, one of HOLD style takes the position as hold target; a RELATIVE move's target is fixed. -/
def Port.startMove (mv : Move) (carry : Bool) (p : Port) : Port :=
  let running (phase : Phase) (target : Option Int) : Activity := .running ⟨mv, phase, 0, false, target, none⟩
  let vp := if carry then p.vp else 0
  let integral := if carry then p.integral else 0
  match mv.motion with
  | .speed _ | .timed _ _ =>
    { p with act := running .ramp none, stallTimer := 0, vp := vp, integral := integral }
  | .position _ t =>
    { p with act := running .ramp (some t), stallTimer := 0, vp := vp, integral := integral }
  | .relative _ n =>
    { p with act := running .ramp (some (satPosition (p.position + n))), stallTimer := 0, vp := vp, integral := integral }
  | .rest .hold _ =>
    { p with act := running .cruise none, stallTimer := 0, vp := vp, integral := integral, holdTarget := p.position }
  | .rest _ _ =>
    { p with act := running .cruise none, stallTimer := 0, vp := 0, integral := 0, duty := 0 }

/-- The queue head started (R9): it leaves the queue and becomes the running move. -/
def Port.startHead (carry : Bool) (p : Port) : Port :=
  match p.queue with
  | mv :: rest => ({ p with queue := rest, replacing := false }).startMove mv carry
  | [] => p

/-- A new drive ceiling stored (R37): an applied duty above it is reduced to it at once, with its sign kept. -/
def Port.storeCeiling (c : Nat) (p : Port) : Port :=
  { p with ceiling := c, duty := clampInt (-c) c p.duty }

/-! ### Outcomes and groups -/

/-- The running move of a port ended with an outcome record, which raises the port's MOTOR attention (R18). -/
def State.endMove (s : State) (m : Idx6) (x : OutcomeCode) : State :=
  if (s.port m).isRunning then (s.modPort m (Port.endRunning x s.uptime)).raise (.motor m) else s

/-- The member set of a group entry, none while undefined (R19). -/
def State.groupMembers (s : State) (g : Nat) : Option (Six Bool) :=
  if g = 0 then none else (s.groups[g - 1]?).join

/-- Whether a port is a member of a group (R19). -/
def State.isMember (s : State) (g : Nat) (m : Idx6) : Bool :=
  match s.groupMembers g with
  | some members => members.get m
  | none => false

/-- Whether a port is ready for a group (R20): a member whose head has that group, and ready. -/
def State.readyFor (s : State) (g : Nat) (m : Idx6) : Bool :=
  s.isMember g m && (s.port m).isReady && (s.port m).headGroup == g && g != 0

/-- A group head discarded with an outcome record GROUP_BROKEN (R9 step 1, R22), and the port no longer waiting. -/
def State.breakHead (s : State) (m : Idx6) : State :=
  match (s.port m).queue with
  | mv :: rest =>
    (s.modPort m fun p =>
      ({ p with queue := rest, replacing := false }.leaveWait).addOutcome mv .groupBroken s.uptime).raise (.motor m)
  | [] => s

/-- R22: `before` is the state before one event discarded the queues of the ports `who`. Every other port that was ready
for a group of which a discarded head was a member's head loses its own head. -/
def State.breakGroups (s : State) (before : State) (who : Six Bool) : State :=
  let lost (g : Nat) : Bool :=
    Idx6.all.any fun m => who.get m && (before.port m).headGroup == g && before.isMember g m
  Idx6.all.foldl (fun t q =>
    let g := (before.port q).headGroup
    if !who.get q && before.readyFor g q && lost g then t.breakHead q else t) s

/-- One action that discards a port's queue and may end its running move (R11, R13, R16, R17, R52): the move ends with
`ending` (where there is one), the queue is discarded, the port stops waiting for its group, and `after` puts it where
the action leaves it. If a record was made or the discard count changed, that is one raise (R161, log entry 14). -/
def State.clearPort (s : State) (m : Idx6) (ending : Option OutcomeCode) (after : Port → Port) : State :=
  let p := s.port m
  let ended := match ending with | some x => p.endRunning x s.uptime | none => p
  let cleared := ended.discardQueue
  let news := (ending.isSome && p.isRunning) || cleared.discarded != p.discarded
  (s.modPort m fun _ => after cleared.leaveWait).raiseIf news (.motor m)

/-- One event that clears several ports at once, and the group waits it breaks (R22). -/
def State.clearPorts (s : State) (who : Six Bool) (ending : Option OutcomeCode) (after : Port → Port) : State :=
  (Idx6.all.foldl (fun t m => if who.get m then t.clearPort m ending after else t) s).breakGroups s who

/-- A fail stop with outcome X on a set of ports (R16). -/
def State.failStop (s : State) (who : Six Bool) (x : OutcomeCode) : State := s.clearPorts who (some x) Port.failRest

/-- A stall on one port (R16, R40). -/
def State.stallStop (s : State) (m : Idx6) : State :=
  s.clearPorts ((Six.all false).set m true) (some .stalled) (Port.enterRest .stalled)

/-- The ports of an owner. -/
def State.ownedBy (s : State) (o : Owner) : Six Bool := s.motor.map fun p => p.owner == o

/-! ### The requests on a port -/

/-- The supply states in which motion and sound requests are refused POWER_HOLD (R55). -/
def State.powerHeld (s : State) : Bool := s.supply.mode == .critical || s.supply.mode == .recovery

/-- A move record checked and completed (R4, R11, R19, R99): the record and whether a clamp changed a value. `now` says
MOVE_NOW, whose record has no group. -/
def checkMove (l : LineId) (m : Idx6) (now : Bool) (r : MoveRaw) (s : State) : Check (Move × Bool) := do
  let p := s.port m
  let (motion, clamped) ← checkMotion ((p.pendingConfig.getD p.config).maxSpeed) r
  let endAction ← require (stopStyleOf r.endAction) .badParam
  let g := r.group.toNat
  need (g == 0 || (!now && s.isMember g m)) .badGroup
  let guard ← checkGuard (issuerOf l) s.link.readMask r
  return (⟨motion, endAction, g, guard, r.tag, issuerOf l⟩, clamped)

/-- PORT_SETUP (R1, R3). -/
def takePortSetup (port : Byte) (r : PortConfigRaw) (s : State) : Answer := do
  let m ← require (motorOf port) .badPort
  let (config, clamped) ← checkPortConfig r
  let p := s.port m
  let busy := match p.act with | .running _ => true | .groupWait _ => true | _ => false
  need (!busy || config.encoderPolarity == (p.pendingConfig.getD p.config).encoderPolarity) .wrongState
  return (s.modPort m fun p => { p with pendingConfig := some config }, flag8 clamped)

/-- MOVE (R3, R4, R5). -/
def takeMove (l : LineId) (port : Byte) (r : MoveRaw) (s : State) : Answer := do
  let m ← require (motorOf port) .badPort
  need ((s.port m).owner == issuerOf l) .notOwner
  need (!s.powerHeld) .powerHold
  let (mv, clamped) ← checkMove l m false r s
  need ((s.port m).queue.length < 8) .queueFull
  return (s.modPort m fun p => { p with queue := p.queue ++ [mv] },
    flag8 clamped ++ u8 ((s.port m).queue.length + 1))

/-- MOVE_NOW (R3, R4, R11). -/
def takeMoveNow (l : LineId) (port : Byte) (r : MoveRaw) (s : State) : Answer := do
  let m ← require (motorOf port) .badPort
  need ((s.port m).owner == issuerOf l) .notOwner
  need (!s.powerHeld) .powerHold
  let (mv, clamped) ← checkMove l m true r s
  return (s.clearPorts ((Six.all false).set m true) none (fun p => { p with queue := [mv], replacing := true }),
    flag8 clamped)

/-- QUEUE_CLEAR (R3, R13). -/
def takeQueueClear (l : LineId) (port stop : Byte) (s : State) : Answer := do
  let m ← require (motorOf port) .badPort
  need ((s.port m).owner == issuerOf l) .notOwner
  let stops ← require (flagOf stop) .badParam
  let who := (Six.all false).set m true
  let discarded := u8 (s.port m).queue.length
  match stops, (s.port m).act with
  | true, .running r =>
    return (s.clearPorts who (some .replaced) (Port.enterRest (restOf r.move.endAction)), discarded)
  | _, _ => return (s.clearPorts who none id, discarded)

/-- PRESET (R3, R12, R24). -/
def takePreset (l : LineId) (port : Byte) (position : Word) (s : State) : Answer := do
  let m ← require (motorOf port) .badPort
  need ((s.port m).owner == issuerOf l) .notOwner
  let v := position.toInt
  need (v != -2147483648) .badParam
  let taken := match (s.port m).act with | .rest .holding => false | .rest _ => true | .shutdown => true | _ => false
  need taken .wrongState
  return (s.modPort m fun p =>
    { p with position := v, history := ⟨v, v, v, v, v, v, v, v⟩, rawCount := 0 }, [])

/-- The 23 bytes of a configuration in force (R169). -/
def portConfigBytes (c : PortConfig) : List Byte :=
  u8 c.motorPolarity.code ++ u8 c.encoderPolarity.code ++ u16 c.maxSpeed ++ u16 c.accel ++ u16 c.kp ++ u8 c.ki ++
    u16 c.kf ++ u16 c.dutyLimit ++ u16 c.stallDuty ++ u16 c.stallSpeed ++ u16 c.stallTime ++ u8 c.tolerance ++
    u16 c.holdSpeed ++ u8 c.failAction.code

/-- The tags of the waiting records, 0 beyond the number waiting (R168, R170). -/
def waitingTags (queue : List Move) : List Byte :=
  ((List.range 8).map fun k => le16 ((queue[k]?).elim 0 (·.tag))).flatten

/-- The 75 bytes of port data (R14, R170). -/
def portData (p : Port) : List Byte :=
  let running := match p.act with | .running r => some r | _ => none
  portConfigBytes p.config ++ flag8 p.pendingConfig.isSome ++
    u8 p.owner.code ++ u8 p.act.code ++ u8 p.act.phaseCode ++ u8 p.act.waitCode ++
    i32 p.position ++ i16 p.vp ++ i32 p.vm ++ i16 p.duty ++ u16 p.ceiling ++
    u16 p.stallTimer ++ u16 p.encErrors ++
    flag8 running.isSome ++ u8 (running.elim 0 (·.move.motion.code)) ++ le16 (running.elim 0 (·.move.tag)) ++
    u32 (running.elim 0 (·.elapsed)) ++
    u8 p.queue.length ++ waitingTags p.queue ++
    flag8 (running.elim false (·.ready)) ++
    u8 p.outcomes.length ++ u8 p.dropped ++ u8 p.discarded

/-- PORT_QUERY (R3, R14). -/
def takePortQuery (port : Byte) (s : State) : Answer := do
  let m ← require (motorOf port) .badPort
  return (s, portData (s.port m))

/-- GROUP_DEFINE (R19). -/
def takeGroupDefine (l : LineId) (group members : Byte) (s : State) : Answer := do
  let g := group.toNat
  need (1 ≤ g && g ≤ 15) .badGroup
  let set ← require (setOf members) .badParam
  need (members.toNat != 0) .badParam
  need (Idx6.all.all fun m => !set.get m || (s.port m).owner == issuerOf l) .notOwner
  need (!(Idx6.all.any fun m => s.readyFor g m)) .busy
  return ({ s with groups := s.groups.set (g - 1) (some set) }, [])

end Sys2Proof.Machine
end

