-- ==== Sys2Proof/Machine/Sound.lean ====
section
/-! DEFINITION. The sound engine (chapter 7): its requests, its stops, and the output sample event. -/

namespace Sys2Proof.Machine

/-! ### Gain and stopping -/

/-- The gain G (R122). -/
def Sound.gainOf (volume ceiling : Nat) : Nat := volume * ceiling / 1000

/-- A new sound ceiling stored (R51, R122): the gain is recomputed at that moment. -/
def Sound.storeCeiling (c : Nat) (e : Sound) : Sound := { e with ceiling := c, gain := Sound.gainOf e.volume c }

/-- The playing clip, whether it plays or is suspended under an immediate tone. -/
def Player.clip : Player → Option Playing
  | .idle => none
  | .playing p => some p
  | .immediate _ suspended => suspended

/-- What a sound stop leaves (R125): the playing clip has its outcome record, an immediate tone is gone, every waiting clip
is discarded and counted, the ring and its marks are empty, and the player is IDLE. -/
def Sound.stopped (x : OutcomeCode) (uptime : Word) (e : Sound) : Sound :=
  let ended := match e.player.clip with
    | some p => e.addOutcome p.tag p.issuer x uptime
    | none => e
  { ended with queue := [], discarded := satAdd 255 e.discarded e.queue.length, player := .idle, ring := [], marks := [] }

/-- A sound stop ends or discards a clip. -/
def Sound.hasWork (e : Sound) : Bool := e.player.clip.isSome || !e.queue.isEmpty

/-- A sound stop with outcome X (R125), one raise if a clip ended or was discarded. -/
def State.soundStop (s : State) (x : OutcomeCode) : State :=
  (s.modSound (Sound.stopped x s.uptime)).raiseIf s.sound.hasWork .sound

/-! ### Tones (R113) -/

/-- The first quarter of the sine table: entries 0 to 64 (R113). -/
def sineQuarter : List Nat := [
    0, 491, 981, 1471, 1960, 2448, 2935, 3419, 3902, 4382, 4860, 5334, 5806,
    6274, 6738, 7198, 7654, 8105, 8551, 8992, 9428, 9858, 10282, 10700, 11111, 11516,
    11914, 12305, 12688, 13063, 13431, 13791, 14142, 14485, 14819, 15144, 15460, 15767, 16064,
    16352, 16629, 16897, 17155, 17402, 17638, 17864, 18080, 18284, 18478, 18660, 18831, 18991,
    19139, 19276, 19401, 19514, 19616, 19706, 19784, 19850, 19904, 19946, 19976, 19994, 20000]

/-- Entry k of the sine table: 20,000 × sin(2πk/256) rounded to the nearest whole number (R113). -/
def sineEntry (k : Nat) : Int :=
  if k < 64 then (sineQuarter.getD k 0 : Nat)
  else if k < 128 then (sineQuarter.getD (128 - k) 0 : Nat)
  else if k < 192 then -(sineQuarter.getD (k - 128) 0 : Nat)
  else -(sineQuarter.getD (256 - k) 0 : Nat)

/-- A tone generator at its start (R113): the step is the frequency times 2^32 divided by 32,000, truncated. -/
def ToneGen.start (frequency duration : Nat) (waveform : Waveform) : ToneGen :=
  ⟨0, BitVec.ofNat 32 (frequency * 4294967296 / 32000), duration * 32, waveform⟩

/-- The sample a phase gives (R113). -/
def ToneGen.sample (g : ToneGen) : Int :=
  match g.waveform with
  | .square => if g.phase.msb then -20000 else 20000
  | .sine => sineEntry (g.phase.toNat / 16777216)

/-- One output sample of a tone played (R113): the phase increases by the step, the remaining count falls by 1. -/
def ToneGen.advance (g : ToneGen) : ToneGen := { g with phase := g.phase + g.step, remaining := g.remaining - 1 }

/-! ### Streams (R115 to R121) -/

/-- A COMPANDED8 byte decoded (R121). -/
def decodeCompanded (b : Byte) : Int :=
  let seg := (b.extractLsb' 4 3).toNat
  let t := (b.extractLsb' 0 4).toNat
  let magnitude : Int := ((if seg = 0 then 2 * t else (32 + 2 * t) * 2 ^ (seg - 1) : Nat) : Int)
  if b.msb then -(magnitude * 8) else magnitude * 8

/-- The bytes one stream sample takes (R117). -/
def StreamFormat.bytes : StreamFormat → Nat
  | .linear8 => 1
  | .linear16 => 2
  | .companded8 => 1

/-- The stream sample the bytes at the read point give (R117). -/
def StreamFormat.sample (f : StreamFormat) (ring : List Byte) : Int :=
  match f with
  | .linear8 => ((rd8 ring 0).toNat - 128) * 256
  | .linear16 => (rd16 ring 0).toInt
  | .companded8 => decodeCompanded (rd8 ring 0)

/-- A STREAM clip's context at its start (R117). -/
def StreamCtx.start (format : StreamFormat) (rate : Nat) (samples : Option Nat) : StreamCtx :=
  ⟨format, rate, samples, 0, 0, 0, false⟩

/-- The REFILL flag set, which raises the SOUND attention (R120). -/
def State.refill (s : State) : State := (s.modSound fun e => { e with refill := true }).raise .sound

/-- Bytes consumed from the ring (R115): the read point passes them and every mark's depth falls. A consumption that takes
the fill from above the refill threshold to it or below sets REFILL (R120). -/
def State.consume (s : State) (n : Nat) : State :=
  let before := s.sound.ring.length
  let s1 := s.modSound fun e => { e with ring := e.ring.drop n, marks := e.marks.map (· - n) }
  if before > s.sound.threshold && s1.sound.ring.length ≤ s.sound.threshold then s1.refill else s1

/-- The first mark removed from the end-mark list. -/
def Sound.dropMark (e : Sound) : Sound := { e with marks := e.marks.tail }

/-- The playing clip's context replaced. -/
def State.setPlaying (s : State) (p : Playing) : State := s.modSound fun e => { e with player := .playing p }

/-- What a due fetch does (R118): the clip ends, starves, or takes a sample. -/
inductive Fetch where
  | ends
  | starves
  | takes
  deriving DecidableEq, Repr

/-- R118's tests, in order. -/
def fetchKind (c : StreamCtx) (e : Sound) : Fetch :=
  if c.samples = some c.consumed then .ends
  else if e.marks.head? = some 0 then .ends
  else if c.format = .linear16 && e.marks.head? = some 1 then .ends
  else if e.ring.length < c.format.bytes then .starves
  else .takes

/-- What R118 does to ring and marks when a clip ends at a fetch: a mark at the read point goes with it, and a LINEAR16
clip's odd last byte before its mark is consumed and discarded. -/
def State.endFetch (s : State) (c : StreamCtx) : State :=
  if s.sound.marks.head? = some 0 then s.modSound Sound.dropMark
  else if c.samples = some c.consumed then s
  else (s.consume 1).modSound Sound.dropMark

/-- A fetch that takes a sample (R117): the hold count is 4 at 8000/s and 2 at 16,000/s. -/
def StreamCtx.take (c : StreamCtx) (sample : Int) : StreamCtx :=
  { c with current := sample, hold := if c.rate = 8000 then 4 else 2, consumed := satAdd 4294967295 c.consumed 1,
           starved := false }

/-! ### Clips starting and ending -/

/-- The context a clip starts with (R113, R117). -/
def ClipKind.start : ClipKind → PlayCtx
  | .tone f d w => .tone (ToneGen.start f d w)
  | .stream f r n => .stream (StreamCtx.start f r n)

/-- The clip is a STREAM. -/
def ClipKind.isStream : ClipKind → Bool
  | .stream .. => true
  | .tone .. => false

/-- The head of the clip queue started (R111), the REFILL flag set where a STREAM starts with the fill at or below the
threshold (R117). -/
def State.startClip (s : State) : State :=
  match s.sound.queue with
  | [] => s
  | c :: rest =>
    let s1 := s.modSound fun e => { e with queue := rest, player := .playing ⟨c.tag, c.issuer, c.kind.start⟩ }
    if c.kind.isStream && s.sound.ring.length ≤ s.sound.threshold then s1.refill else s1

/-- The playing clip ended DONE (R114): its record is appended, the clip end raises SOUND, the player is IDLE. -/
def State.endClip (s : State) (p : Playing) : State :=
  (s.modSound fun e => { e.addOutcome p.tag p.issuer .done s.uptime with player := .idle }).raise .sound

/-- The underrun count increased (R119), each increase a raise. -/
def State.underrun (s : State) : State :=
  let n := satAdd 65535 s.sound.underruns 1
  (s.modSound fun e => { e with underruns := n }).raiseIf (n != s.sound.underruns) .sound

/-! ### The output sample event (R112) -/

/-- The internal sample of one output sample event, and the state the player is left in (R112 to R114, R117 to R119, R124).
A clip that ends hands the same event to what plays next; `fuel` bounds these passes by the clips there are. -/
def playerSample : Nat → State → State × Int
  | 0, s => (s, 0)
  | fuel + 1, s =>
    match s.sound.player with
    | .idle => if s.sound.queue.isEmpty then (s, 0) else playerSample fuel s.startClip
    | .immediate g suspended =>
      if g.remaining = 0 then
        playerSample fuel (s.modSound fun e =>
          { e with player := match suspended with | some p => .playing p | none => .idle })
      else (s.modSound fun e => { e with player := .immediate g.advance suspended }, g.sample)
    | .playing p =>
      match p.ctx with
      | .tone g =>
        if g.remaining = 0 then playerSample fuel (s.endClip p)
        else (s.setPlaying { p with ctx := .tone g.advance }, g.sample)
      | .stream c =>
        if c.hold = 0 then
          match fetchKind c s.sound with
          | .ends => playerSample fuel ((s.endFetch c).endClip p)
          | .starves =>
            ((if c.starved then s else s.underrun).setPlaying { p with ctx := .stream { c with starved := true } }, 0)
          | .takes =>
            let c1 := c.take (c.format.sample s.sound.ring)
            ((s.consume c.format.bytes).setPlaying { p with ctx := .stream { c1 with hold := c1.hold - 1 } }, c1.current)
        else (s.setPlaying { p with ctx := .stream { c with hold := c.hold - 1 } }, c.current)

/-- How many passes one event can take: an immediate tone ends, a clip ends, and each waiting clip starts and ends. -/
def playFuel (e : Sound) : Nat := 2 * e.queue.length + 4

/-- The output sample event (R112, R122): the sample times the gain, divided by 100 and truncated toward zero. -/
def State.outputSample (s : State) : State :=
  let r := playerSample (playFuel s.sound) s
  r.1.modSound fun e => { e with out := (r.2 * (s.sound.gain : Int)).tdiv 100 }

/-! ### The sound requests (R108) -/

/-- The sound status of SOUND_SETUP (R109, R170). -/
def soundStatus (e : Sound) : List Byte :=
  u8 e.player.code ++ u8 e.player.suspendedCode ++
    flag8 e.player.clip.isSome ++ u8 (e.player.clip.elim 0 (·.ctx.kindCode)) ++ le16 (e.player.clip.elim 0 (·.tag)) ++
    u8 e.queue.length ++ u16 e.ring.length ++ u8 e.marks.length ++
    u8 e.volume ++ u16 e.threshold ++ u16 e.ceiling ++ u8 e.gain ++
    u16 e.underruns ++ u8 e.outcomes.length ++ u8 e.dropped ++ u8 e.discarded

/-- SOUND_SETUP (R108, R109). -/
def takeSoundSetup (l : LineId) (action volume : Byte) (threshold : Half) (s : State) : Answer := do
  need (s.sound.owner == issuerOf l) .notOwner
  let apply ← require (flagOf action) .badParam
  if apply then
    need (256 ≤ threshold.toNat && threshold.toNat ≤ 3840) .badParam
    let v := min 100 volume.toNat
    let s1 := s.modSound fun e =>
      { e with volume := v, threshold := threshold.toNat, gain := Sound.gainOf v e.ceiling }
    return (s1, flag8 (v != volume.toNat) ++ soundStatus s1.sound)
  else return (s, flag8 false ++ soundStatus s.sound)

/-- CLIP (R108, R110, R111). -/
def takeClip (l : LineId) (r : ClipRaw) (s : State) : Answer := do
  need (s.sound.owner == issuerOf l) .notOwner
  need (!s.powerHeld) .powerHold
  let (kind, clamped) ← checkClip r
  need (s.sound.queue.length < 4) .queueFull
  let s1 := s.modSound fun e => { e with queue := e.queue ++ [⟨kind, r.tag, issuerOf l⟩] }
  let s2 := if s1.sound.player = .idle then s1.startClip else s1
  return (s2, flag8 clamped ++ u8 s2.sound.queue.length ++ u8 s2.sound.player.code)

/-- SOUND_DATA (R108, R116). -/
def takeSoundData (l : LineId) (count endFlag : Byte) (bytes : List Byte) (s : State) : Answer := do
  need (s.sound.owner == issuerOf l) .notOwner
  need (!s.powerHeld) .powerHold
  need (1 ≤ count.toNat && count.toNat ≤ 224) .badParam
  let ends ← require (flagOf endFlag) .badParam
  need (s.sound.ring.length + count.toNat ≤ 4096) .ringFull
  need (!ends || s.sound.marks.length < 4) .queueFull
  let s1 := s.modSound fun e =>
    let ring := e.ring ++ bytes
    { e with ring := ring, marks := if ends then e.marks ++ [ring.length] else e.marks }
  return (s1, u16 s1.sound.ring.length ++ u16 (4096 - s1.sound.ring.length) ++ u8 s1.sound.marks.length)

/-- IMMEDIATE_TONE (R108, R123). -/
def takeImmediateTone (l : LineId) (frequency duration : Half) (s : State) : Answer := do
  need (s.sound.owner == issuerOf l) .notOwner
  need (!s.powerHeld) .powerHold
  let f := clampNat 50 10000 frequency.toNat
  let d := clampNat 1 2000 duration.toNat
  need (match s.sound.player with | .immediate _ _ => false | _ => true) .busy
  return (s.modSound fun e => { e with player := .immediate (ToneGen.start f d .square) e.player.clip },
    flag8 (f != frequency.toNat || d != duration.toNat))

/-- SOUND_STOP (R108, R126). -/
def takeSoundStop (l : LineId) (s : State) : Answer := do
  need (s.sound.owner == issuerOf l) .notOwner
  return (s.soundStop .stopped, u8 s.sound.queue.length ++ flag8 s.sound.player.clip.isSome)

end Sys2Proof.Machine
end

