-- ==== Sys2Proof/Machine/Supply.lean ====
section
/-! DEFINITION. The supply monitor (chapter 3): the battery filter, the supply states, S, F and the ceilings, the CRITICAL
entry and the return from it, conversions completing, and POWER_SETUP and POWER_QUERY. -/

namespace Sys2Proof.Machine

/-! ### S, F and the ceilings -/

/-- The ceiling product P (R51). -/
def Supply.product (u : Supply) : Nat := u.scale * u.foldback / 1000

/-- The voltage scale of a supply state (R49), from the thresholds in use since the latest filter update (R46). -/
def Supply.scaleFor (u : Supply) (mode : SupplyMode) : Nat :=
  match mode with
  | .normal => 1000
  | .low =>
    (clampInt 500 1000
      (500 + (500 * ((u.vf : Int) - u.criticalInUse)).tdiv ((u.lowInUse : Int) - u.criticalInUse))).toNat
  | .pending | .critical | .recovery => 0

/-- A port's drive ceiling computed and stored (R37, R51). -/
def State.recomputeCeiling (s : State) (m : Idx6) : State :=
  s.modPort m fun p => p.storeCeiling (min p.config.dutyLimit s.supply.product)

/-- P and all seven ceilings recomputed and stored (R51). -/
def State.recomputeCeilings (s : State) : State :=
  (Idx6.all.foldl State.recomputeCeiling s).modSound (Sound.storeCeiling s.supply.product)

/-! ### The CRITICAL entry and the return (R52 to R54) -/

/-- The CRITICAL entry (R52, R53): every port stopped with outcome POWER and put into SHUTDOWN, the sound engine stopped
with outcome POWER. -/
def State.criticalEntry (s : State) : State :=
  (s.clearPorts (Six.all true) (some .power) Port.enterShutdown).soundStop .power

/-- Every port goes from SHUTDOWN to BRAKED (R54). -/
def State.leaveShutdown (s : State) : State :=
  { s with motor := s.motor.map fun p => if p.isShutdown then p.enterRest .braked else p }

/-- A change of supply state (R47): S and the ceilings are recomputed, the CRITICAL entry or the return from shutdown is
carried out, and the POWER causes are set (R56). -/
def State.changeSupply (s : State) (mode : SupplyMode) : State :=
  let returns := s.supply.mode == .recovery && (mode == .normal || mode == .low)
  let s1 := (s.modSupply fun u => { u with mode := mode, scale := u.scaleFor mode }).recomputeCeilings
  let s2 := if mode = .critical then (s1.criticalEntry).raisePower .critical else s1
  if returns then s2.leaveShutdown.raisePower .restored else s2.raisePower .level

/-! ### The battery filter and the supply states (R45, R47, R48) -/

/-- The filter step (R45): the first sample seeds it, later ones move V_f by an eighth of the difference, truncated. -/
def Supply.filter (u : Supply) (v : Nat) : Nat :=
  if u.seeded then ((u.vf : Int) + ((v : Int) - u.vf).tdiv 8).toNat else v

/-- R47's table: the new state at a filter update. -/
def Supply.nextMode (u : Supply) : SupplyMode :=
  match u.mode with
  | .pending => if u.vf ≤ u.vCritical then .critical else if u.vf < u.vLow then .low else .normal
  | .normal => if u.vf ≤ u.vCritical then .critical else if u.vf < u.vLow then .low else .normal
  | .low => if u.vf ≤ u.vCritical then .critical else if u.vLow ≤ u.vf then .normal else .low
  | .critical => if u.vRestore ≤ u.vf then .recovery else .critical
  | .recovery => if u.vf ≤ u.vCritical then .critical else .recovery

/-- The recovery hold at a filter update (R48), from the state before to the state after. -/
def Supply.nextHold (u : Supply) (mode : SupplyMode) (clock : Nat) : Timer :=
  match u.mode, mode with
  | .critical, .recovery => some clock
  | .recovery, .recovery =>
    if u.vf < u.vRestore then none else match u.hold with | some t => some t | none => some clock
  | .recovery, _ => none
  | _, _ => u.hold

/-- The filter updated by a battery sample V (R44, R45); the thresholds that stand are the ones used from here on (R46). -/
def Supply.filterUpdate (u : Supply) (v : Nat) : Supply :=
  { u with lastV := v, vf := u.filter v, seeded := true, lowInUse := u.vLow, criticalInUse := u.vCritical }

/-- A battery sample V (R44, R45, R47, R48, R49): a filter update. -/
def State.batterySample (s : State) (v : Nat) : State :=
  let s1 := s.modSupply (·.filterUpdate v)
  let mode := s1.supply.nextMode
  let s2 := s1.modSupply fun u => { u with hold := u.nextHold mode s.clock }
  if mode ≠ s.supply.mode then s2.changeSupply mode
  else if mode = .low then
    let s3 := s2.modSupply fun u => { u with scale := u.scaleFor .low }
    if s3.supply.scale ≠ s2.supply.scale then s3.recomputeCeilings else s3
  else s2

/-- The foldback factor after a current reading (R50). -/
def Supply.nextFoldback (u : Supply) (itotal : Nat) : Nat :=
  if itotal > u.limit then max 200 (u.foldback - 100)
  else if itotal < u.limit * 9 / 10 then min 1000 (u.foldback + 25)
  else u.foldback

/-- A current reading (R44, R50, R51, R56). -/
def State.currentReading (s : State) (itotal : Nat) : State :=
  let f := s.supply.nextFoldback itotal
  let s1 := s.modSupply fun u => { u with itotal := itotal, foldback := f }
  if f ≠ s.supply.foldback then
    let s2 := s1.recomputeCeilings
    if s.supply.foldback = 1000 || f = 1000 then s2.raisePower .foldback else s2
  else s1

/-- The recovery hold expires (R48, R54): NORMAL or LOW by the V_f and the V_low of the latest filter update; a V_low set since then
is not used yet (R46). -/
def State.holdExpires (s : State) : State :=
  if s.supply.hold.isSome && s.supply.mode = .recovery then
    (s.modSupply fun u => { u with hold := none }).changeSupply
      (if s.supply.lowInUse ≤ s.supply.vf then .normal else .low)
  else s

/-! ### Conversions completing (R44) -/

/-- A completion's raw result handed to the channel's consumer (R44), unless it is dropped. -/
def State.conversionDone (s : State) (raw : Nat) : State :=
  match s.conv.inFlight with
  | none => s
  | some f =>
    let s1 := s.modConv fun c => { c with inFlight := none }
    match f.channel with
    | .battery => s1.batterySample (raw * 12000 / 4095)
    | .current => s1.currentReading (raw * 8000 / 4095)
    | .sensor i => if f.dropped then s1 else s1.analogResult i raw

/-! ### The requests -/

/-- POWER_SETUP (R46): the thresholds are replaced, and the voltages come into use at the next filter update. -/
def takePowerSetup (vLow vCritical vRestore limit : Half) (s : State) : Answer := do
  let low ← inRange 5000 9500 vLow.toNat
  let critical ← inRange 5000 9500 vCritical.toNat
  let restore ← inRange 5000 9500 vRestore.toNat
  let l ← inRange 500 6000 limit.toNat
  need (critical < restore && restore ≤ low) .badParam
  return (s.modSupply fun u => { u with vLow := low, vCritical := critical, vRestore := restore, limit := l }, [])

/-- The time the recovery hold has run, 0 while it is stopped (R48). -/
def State.holdTime (s : State) : Nat :=
  match s.supply.hold with
  | some t => min 500 (s.clock - t)
  | none => 0

/-- POWER_QUERY (R57, R170): the cause flags are those that stand as it is taken. DESIGN CHOICE, log entry 21: between a reset and the
first battery sample these are none where the POWER notice has begun (R56, R136, R164), though R57 names the reset's flag. -/
def takePowerQuery (s : State) : Answer :=
  let u := s.supply
  .ok (s, u8 u.mode.code ++ u16 u.vf ++ u16 u.lastV ++ u16 u.itotal ++ u16 u.scale ++ u16 u.foldback ++ u16 u.product ++
    u16 s.holdTime ++ u16 u.vLow ++ u16 u.vCritical ++ u16 u.vRestore ++ u16 u.limit ++ u8 u.causes.bits)

end Sys2Proof.Machine
end

