-- ==== Sys2Proof/Machine/HostLine.lean ====
section
/-! DEFINITION. The host's own requests (R2, R17, R139, R141, R142, R162) and the host watch (R140). -/

namespace Sys2Proof.Machine

/-! ### The host watch (R138 to R140) -/

/-- What a valid host frame does to the watch (R140). -/
def Watch.frame (clock : Nat) : Watch → Watch
  | .off => .off
  | .armed _ => .armed clock
  | .expired => .armed clock

/-- A valid host frame (R132, R140). -/
def State.watchFrame (s : State) : State := s.modHostUnit fun h => { h with watch := h.watch.frame s.clock }

/-- The host watch expires (R140): BRICK-owned ports and sound are stopped, and the watch flag is set. -/
def State.watchExpires (s : State) : State :=
  match s.hostUnit.watch with
  | .armed _ =>
    let s1 := s.failStop (s.ownedBy .brick) .watch
    let s2 := if s.sound.owner = .brick then s1.soundStop .watch else s1
    (s2.modHostUnit fun h => { h with watch := .expired, watchFlag := true }).raise .hostLink
  | _ => s

/-! ### The requests -/

/-- IDENTIFY (R141, R170). -/
def takeIdentify (s : State) : Answer :=
  .ok (s, u16 0x5A4E ++ u16 0x0440 ++ u8 3 ++ u8 6 ++ u8 6 ++ le32 s.uptime)

/-- RESET (R142): a soft reset becomes pending. -/
def takeReset (s : State) : Answer := .ok ({ s with softReset := some false }, [])

/-- SET_WATCH (R139). -/
def takeSetWatch (period : Half) (s : State) : Answer :=
  let p := clampNat 50 10000 period.toNat
  if period.toNat = 0 then .ok (s.modHostUnit fun h => { h with watch := .off, watchPeriod := 0 }, flag8 false)
  else .ok (s.modHostUnit fun h => { h with watch := .armed s.clock, watchPeriod := p }, flag8 (p != period.toNat))

/-- SET_MASK (R162). -/
def takeSetMask (mask : Half) (s : State) : Answer :=
  .ok ({ s with attn := { s.attn with mask := mask } }, le16 mask ++ u16 s.attn.pendingSet)

/-- ALL_STOP (R17). -/
def takeAllStop (s : State) : Answer :=
  .ok ((s.clearPorts (Six.all true) (some .allStop) Port.brakeRest).soundStop .allStop, [])

/-- The six motor owners of a SET_OWNERS. -/
def motorOwners (r : OwnersRaw) : Check (Six Owner) := do
  let a ← require (ownerOf r.motor.i0) .badParam
  let b ← require (ownerOf r.motor.i1) .badParam
  let c ← require (ownerOf r.motor.i2) .badParam
  let d ← require (ownerOf r.motor.i3) .badParam
  let e ← require (ownerOf r.motor.i4) .badParam
  let f ← require (ownerOf r.motor.i5) .badParam
  return ⟨a, b, c, d, e, f⟩

/-- The motor ports' owners changed (R2): a fail stop on each port whose owner changes, at one moment. -/
def State.setMotorOwners (s : State) (owners : Six Owner) : State :=
  let s1 := s.failStop (Six.ofFn fun m => (s.port m).owner != owners.get m) .ownerChanged
  { s1 with motor := Six.ofFn fun m => { s1.port m with owner := owners.get m } }

/-- The sound owner changed (R2, R108): a sound stop if it changes. -/
def State.setSoundOwner (s : State) (o : Owner) : State :=
  if s.sound.owner = o then s else (s.soundStop .ownerChanged).modSound fun e => { e with owner := o }

/-- SET_OWNERS (R2). -/
def takeSetOwners (r : OwnersRaw) (s : State) : Answer := do
  let owners ← motorOwners r
  let sound ← require (ownerOf r.sound) .badParam
  return ((s.setMotorOwners owners).setSoundOwner sound, [])

end Sys2Proof.Machine
end

