-- ==== Sys2Proof/Machine/Link.lean ====
section
/-! DEFINITION. The tablet link unit (chapter 9): K40_READY, the link states, the quiet timer, and its five requests. -/

namespace Sys2Proof.Machine

/-! ### K40_READY (R147) -/

/-- The bytes a payload queue holds (R149, R151). -/
def payloadBytes (q : List (List Byte)) : Nat := (q.map List.length).sum

/-- R147's first row: the level that deasserts K40_READY. -/
def State.readyDrops (s : State) : Bool :=
  3 ≤ s.tablet.fifo.length || 768 ≤ payloadBytes s.link.relay || 7 ≤ s.link.relay.length

/-- R147's second row: the level that asserts K40_READY again. -/
def State.readyRises (s : State) : Bool :=
  s.tablet.fifo.length ≤ 1 && payloadBytes s.link.relay < 512 && s.link.relay.length ≤ 5

/-- K40_READY evaluated (R147). -/
def State.evalReady (s : State) : State :=
  if s.readyDrops then s.modLink fun k => { k with k40Ready := false }
  else if s.readyRises then s.modLink fun k => { k with k40Ready := true }
  else s

/-! ### Link state and quiet timer (R153, R155 to R157) -/

/-- The quiet period in ms (R155). -/
def Link.quietPeriod (k : Link) : Nat := k.quietUnit * k.quietSteps

/-- The quiet timer where a rule starts it or stops it (R155): running from `clock` while the link is UP and the steps are
1..32. -/
def Link.startQuiet (k : Link) (clock : Nat) : Link :=
  { k with quietTimer := if k.state = .up && 1 ≤ k.quietSteps then some clock else none }

/-- The link state changed, each change a raise (R153). -/
def State.setLinkState (s : State) (x : LinkState) : State :=
  (s.modLink fun k => { k with state := x }).raiseIf (s.link.state != x) .tablet

/-- What a valid tablet frame does to the link (R145, R153, R155): UP, no strikes, the quiet timer from this frame. -/
def State.linkFrame (s : State) : State :=
  (s.setLinkState .up).modLink fun k => { k with strikes := 0 }.startQuiet s.clock

/-- The strike limit action (R157). -/
def State.strikeLimit (s : State) : State :=
  let s1 := s.failStop (s.ownedBy .remote) .quiet
  let s2 := if s.sound.owner = .remote then s1.soundStop .quiet else s1
  (s2.setLinkState .quiet).modLink fun k => { k with quietTimer := none }

/-- The quiet timer expires (R156). -/
def State.quietExpires (s : State) : State :=
  if s.link.quietTimer.isSome then
    let s1 := (s.modLink fun k => { k with strikes := satAdd 255 k.strikes 1 }).raise .tablet
    if 1 ≤ s1.link.strikeLimit && s1.link.strikeLimit ≤ s1.link.strikes then s1.strikeLimit
    else s1.modLink fun k => { k with quietTimer := some s.clock }
  else s

/-- The break ends (R154). -/
def State.breakEnds (s : State) : State := s.modLink fun k => { k with breakTimer := none }

/-! ### The requests -/

/-- LINK_SETUP (R144, R152, R155). -/
def takeLinkSetup (r : LinkSetupRaw) (s : State) : Answer := do
  let rate ← require (tabletRateOf r.rate) .badParam
  let readMask ← require (setOf r.readMask) .badParam
  let setupAllowed ← require (flagOf r.setupAllowed) .badParam
  let queryAllowed ← require (flagOf r.queryAllowed) .badParam
  let quietUnit ← require (quietUnitOf r.quietUnit) .badParam
  let quietSteps ← inRange 0 32 r.quietSteps.toNat
  let strikeLimit ← inRange 0 7 r.strikeLimit.toNat
  let s1 := if rate = s.link.rate then s
    else s.modLine .tablet fun u => { u with held := [], rxTimer := none }
  return (s1.modLink fun k =>
    { k with rate := rate, readMask := readMask, setupAllowed := setupAllowed, queryAllowed := queryAllowed,
             quietUnit := quietUnit, quietSteps := quietSteps, strikeLimit := strikeLimit,
             strikes := 0 }.startQuiet s.clock, [])

/-- A payload finds room in a queue of 8 payloads and 1024 bytes (R149, R151). -/
def payloadFits (q : List (List Byte)) (payload : List Byte) : Bool :=
  q.length < 8 && payloadBytes q + payload.length ≤ 1024

/-- A payload queue's frame count and byte count (R170). -/
def payloadCounts (q : List (List Byte)) : List Byte := u8 q.length ++ u16 (payloadBytes q)

/-- TABLET_SEND (R151). -/
def takeTabletSend (payload : List Byte) (s : State) : Answer := do
  need (payloadFits s.link.transmit payload) .queueFull
  let s1 := s.modLink fun k => { k with transmit := k.transmit ++ [payload] }
  return (s1, payloadCounts s1.link.transmit)

/-- RELAY_UP (R147, R149). -/
def takeRelayUp (payload : List Byte) (s : State) : Answer := do
  need (payloadFits s.link.relay payload) .queueFull
  let s1 := s.modLink fun k => { k with relay := k.relay ++ [payload] }
  return (s1.evalReady, payloadCounts s1.link.relay)

/-- LINK_STATUS (R158, R170). -/
def takeLinkStatus (s : State) : Answer :=
  let k := s.link
  .ok (s, u8 k.state.code ++ u32 k.rate ++ flag8 k.k40Ready ++ flag8 k.radioReady ++ u8 k.strikes ++ u16 k.overflows ++
    u16 k.checkErrors ++ payloadCounts k.relay ++ payloadCounts k.transmit ++
    u8 (if k.quietUnit = 250 then 1 else 0) ++ u8 k.quietSteps ++ u8 k.strikeLimit ++ set8 k.readMask ++
    flag8 k.setupAllowed ++ flag8 k.queryAllowed)

/-- The tablet line's frame engine at a LINK_RESET (R154): hunter and request FIFO emptied, the transmission cut off, a
reply cut off put back as the oldest reply. -/
def LineUnit.linkReset (u : LineUnit) : LineUnit :=
  { u with held := [], rxTimer := none, fifo := [], tx := none,
           replies := match u.tx with
             | some f => if f.cls = .reply then f.body :: u.replies else u.replies
             | none => u.replies }

/-- LINK_RESET (R154). -/
def takeLinkReset (s : State) : Answer :=
  let s1 := (s.modLine .tablet LineUnit.linkReset).setLinkState .down
  let s2 := s1.modLink fun k =>
    { k with relay := [], transmit := [], strikes := 0, overflows := 0, checkErrors := 0, quietTimer := none,
             breakTimer := some s.clock }
  .ok (s2.evalReady, u8 s.link.relay.length ++ u8 s.link.transmit.length)

end Sys2Proof.Machine
end

