-- ==== Sys2Proof/Machine/Notices.lean ====
section
/-! DEFINITION. What the two transmit arbiters send: the choice of R136, ATTENTION notices formed (R164, R165, R171), the
relay-class notices (R150, R151, R167), and the beginning of a frame (R137, R148). -/

namespace Sys2Proof.Machine

/-! ### Payloads (R171) -/

/-- A motor outcome record's 12 bytes. -/
def MotorOutcome.bytes (r : MotorOutcome) : List Byte :=
  le16 r.tag ++ u8 r.issuer.code ++ u8 r.outcome.code ++ i32 r.position ++ le32 r.uptime

/-- A sound outcome record's 8 bytes. -/
def SoundOutcome.bytes (r : SoundOutcome) : List Byte :=
  le16 r.tag ++ u8 r.issuer.code ++ u8 r.outcome.code ++ le32 r.uptime

/-- The payload of a source, as it stands (R165, R171). -/
def State.noticePayload (s : State) : Source → List Byte
  | .power => u8 s.supply.causes.bits ++ u8 s.supply.mode.code ++ u16 s.supply.vf ++ u16 s.supply.foldback
  | .hostLink => u16 s.hostUnit.checkErrors ++ u16 s.hostUnit.overruns ++ flag8 s.hostUnit.watchFlag
  | .motor m =>
    let p := s.port m
    u8 p.act.code ++ u8 p.act.phaseCode ++ i32 p.position ++ u8 p.dropped ++ u8 p.discarded ++ u8 p.outcomes.length ++
      (p.outcomes.map MotorOutcome.bytes).flatten
  | .sound =>
    let e := s.sound
    u8 e.player.code ++ u16 e.ring.length ++ u16 e.underruns ++ flag8 e.refill ++ u8 e.dropped ++ u8 e.discarded ++
      u8 e.outcomes.length ++ (e.outcomes.map SoundOutcome.bytes).flatten
  | .sensor i => u8 (s.sensorAt i).causes.bits ++ readingBytes (s.sensorAt i).record
  | .tablet => u8 s.link.state.code ++ u8 s.link.strikes ++ u16 s.link.overflows

/-- What forming a source's notice clears in the block that owns it (R165). -/
def State.clearReported (s : State) : Source → State
  | .power => s.modSupply fun u => { u with causes := .clear }
  | .hostLink => s.modHostUnit fun h => { h with checkErrors := 0, overruns := 0, watchFlag := false }
  | .motor m => s.modPort m fun p => { p with outcomes := [], dropped := 0, discarded := 0 }
  | .sound => s.modSound fun e => { e with outcomes := [], dropped := 0, discarded := 0, underruns := 0, refill := false }
  | .sensor i => s.modSensor i fun p => { p with causes := .clear }
  | .tablet => s

/-- The body of a source's ATTENTION notice, as it stands (R164, R171). -/
def State.noticeBody (s : State) (src : Source) : List Byte :=
  [0x60, 0] ++ u8 src.number ++ u8 (s.attn.count src) ++ s.noticePayload src

/-! ### The arbiter's choice (R136) -/

/-- The payload queue whose head waits as a line's relay-class frame (R136). -/
def State.relayQueue (s : State) : LineId → List (List Byte)
  | .host => s.link.relay
  | .tablet => s.link.transmit

/-- The class of frame a line's arbiter would begin (R136), none while nothing waits. -/
def State.choice (s : State) (l : LineId) : Option FrameClass :=
  if !(s.lineAt l).replies.isEmpty then some .reply
  else match (s.waitingSource l).isSome, !(s.relayQueue l).isEmpty with
    | true, true => match (s.lineAt l).marker with | .attention => some .attention | .relay => some .relay
    | true, false => some .attention
    | false, true => some .relay
    | false, false => none

/-- A line's arbiter may begin a frame (R136, R148): the transmitter is idle, and on the tablet line no break is in progress
and RADIO_READY is high. -/
def State.mayBegin (s : State) (l : LineId) : Bool :=
  (s.lineAt l).tx.isNone && (match l with | .host => true | .tablet => s.link.radioReady && s.link.breakTimer.isNone)

/-- The rate a line sends at (R144; spec/00 for the host line). -/
def State.sendRate (s : State) : LineId → Nat
  | .host => 1000000
  | .tablet => s.link.rate

/-! ### Beginning a frame (R136, R137, R148, R150, R151, R164) -/

/-- A frame of a class and body put in transmission. -/
def State.startTx (s : State) (l : LineId) (cls : FrameClass) (body : List Byte) : State :=
  s.modLine l fun u => { u with tx := some ⟨cls, body, s.sendRate l⟩ }

/-- A line's alternation marker set. -/
def State.setMarker (s : State) (l : LineId) (t : Turn) : State := s.modLine l fun u => { u with marker := t }

/-- The oldest reply begun. -/
def State.beginReply (s : State) (l : LineId) : State :=
  match (s.lineAt l).replies with
  | body :: rest => (s.modLine l fun u => { u with replies := rest }).startTx l .reply body
  | [] => s

/-- The ATTENTION notice of the line's waiting source formed and begun (R164): the entry cleared, the reported items
cleared, the marker on RELAY. -/
def State.beginAttention (s : State) (l : LineId) : State :=
  match s.waitingSource l with
  | some src =>
    let body := s.noticeBody src
    (({ s with attn := s.attn.setCount src 0 }.clearReported src).startTx l .attention body).setMarker l .relay
  | none => s

/-- The relay-class frame begun (R150, R151, R167): the head payload leaves its queue, the marker goes to ATTENTION, and
K40_READY is evaluated for the relay FIFO (R147). -/
def State.beginRelay (s : State) (l : LineId) : State :=
  match l, s.relayQueue l with
  | .host, payload :: rest =>
    (((s.modLink fun k => { k with relay := rest }).evalReady).startTx .host .relay ([0x61, 0] ++ payload)).setMarker
      .host .attention
  | .tablet, payload :: rest =>
    ((s.modLink fun k => { k with transmit := rest }).startTx .tablet .relay ([0x62, 0] ++ payload)).setMarker
      .tablet .attention
  | _, [] => s

/-- A line's arbiter begins a frame if it may and one waits (R136, R148). -/
def State.beginFrame (s : State) (l : LineId) : State :=
  if s.mayBegin l then
    match s.choice l with
    | some .reply => s.beginReply l
    | some .attention => s.beginAttention l
    | some .relay => s.beginRelay l
    | none => s
  else s

end Sys2Proof.Machine
end

