-- ==== Sys2Proof/Machine/Lines.lean ====
section
/-! DEFINITION. The two serial lines (chapter 8; R145, R146): the receive hunter, the request FIFOs, the taking of
requests and their replies, the ends of transmissions, and the work the lines do by themselves after every command. -/

namespace Sys2Proof.Machine

/-! ### The receive hunter (R129, R130) -/

/-- The four states of the hunter (R129). -/
inductive HuntState where
  | hunt | length | body | check
  deriving DecidableEq, Repr

/-- The hunter's state, read from its held bytes (R129): nothing held, the start byte alone, a body not yet whole, or a
whole body whose check byte is to come. -/
def huntState : List Byte → HuntState
  | [] => .hunt
  | [_] => .length
  | _ :: l :: body => if body.length < l.toNat then .body else .check

/-- What the hunter finds (R129): a check or length failure, or a valid frame with its body. -/
inductive Found where
  | failure
  | valid (body : List Byte)
  deriving DecidableEq, Repr

/-- The hunter over bytes held and arrived, from HUNT (R129, R130): what it finds, in order, and the bytes it is left
holding. `skip` is how many bytes a valid frame has still to pass. After a failure it goes on from the byte after the
failed frame's start byte; R130's rescan is this same reading of those bytes. -/
def scan : Nat → List Byte → List Found × List Byte
  | _, [] => ([], [])
  | skip + 1, _ :: rest => scan skip rest
  | 0, b :: rest =>
    if b ≠ 0x5A then scan 0 rest
    else
      match rest with
      | [] => ([], [b])
      | l :: tail =>
        if l.toNat < 2 || 240 < l.toNat then
          let (found, held) := scan 0 rest
          (.failure :: found, held)
        else if tail.length < l.toNat + 1 then ([], b :: rest)
        else if (l + (tail.take (l.toNat + 1)).sum) = 0 then
          let (found, held) := scan (l.toNat + 2) rest
          (.valid (tail.take l.toNat) :: found, held)
        else
          let (found, held) := scan 0 rest
          (.failure :: found, held)

/-! ### What the hunter's findings do (R132, R138, R145, R146) -/

/-- A check or length failure counted (R130, R138, R145); the host count's increase is a raise. -/
def State.hunterFailure (s : State) : LineId → State
  | .host =>
    let n := satAdd 65535 s.hostUnit.checkErrors 1
    (s.modHostUnit fun h => { h with checkErrors := n }).raiseIf (n != s.hostUnit.checkErrors) .hostLink
  | .tablet => s.modLink fun k => { k with checkErrors := satAdd 65535 k.checkErrors 1 }

/-- A valid frame discarded for want of room (R132, R138, R146); an increase of the count is a raise. -/
def State.fifoOverrun (s : State) : LineId → State
  | .host =>
    let n := satAdd 65535 s.hostUnit.overruns 1
    (s.modHostUnit fun h => { h with overruns := n }).raiseIf (n != s.hostUnit.overruns) .hostLink
  | .tablet =>
    let n := satAdd 65535 s.link.overflows 1
    (s.modLink fun k => { k with overflows := n }).raiseIf (n != s.link.overflows) .tablet

/-- K40_READY evaluated after a change of a line's request FIFO; only the tablet's counts (R147). -/
def State.fifoChanged (s : State) : LineId → State
  | .host => s
  | .tablet => s.evalReady

/-- A valid frame enters the line's request FIFO, or is discarded (R132, R146, R147). -/
def State.enterFifo (s : State) (l : LineId) (body : List Byte) : State :=
  if (s.lineAt l).fifo.length < 4 then
    (s.modLine l fun u => { u with fifo := u.fifo ++ [body] }).fifoChanged l
  else s.fifoOverrun l

/-- A valid frame found on a line (R132, R140, R145): it acts on the host watch or on the link, then enters the FIFO. -/
def State.frameArrives (s : State) (l : LineId) (body : List Byte) : State :=
  match l with
  | .host => s.watchFrame.enterFifo .host body
  | .tablet => s.linkFrame.enterFifo .tablet body

/-! ### The request decoder (R133 to R135) -/

/-- The request is one that only the host may send (R135). -/
def hostOnly : Request → Bool
  | .reset | .setWatch _ | .setMask _ | .allStop | .portSetup _ _ | .setOwners _ | .powerSetup _ _ _ _ | .linkSetup _
  | .tabletSend _ | .linkReset => true
  | .identify | .move _ _ | .moveNow _ _ | .queueClear _ _ | .preset _ _ | .portQuery _ | .groupDefine _ _
  | .sensorSetup _ _ | .sensorRead _ | .smartSelect _ _ | .smartWrite _ _ _ | .smartProfile _ | .soundSetup _ _ _
  | .clip _ | .soundData _ _ _ | .immediateTone _ _ | .soundStop | .powerQuery | .linkStatus | .relayUp _ => false

/-- The request is a query that the tablet needs a permission for (R135, R152). -/
def isQuery : Request → Bool
  | .portQuery _ | .powerQuery => true
  | .identify | .reset | .setWatch _ | .setMask _ | .allStop | .portSetup _ _ | .setOwners _ | .move _ _ | .moveNow _ _
  | .queueClear _ _ | .preset _ _ | .groupDefine _ _ | .sensorSetup _ _ | .sensorRead _ | .smartSelect _ _
  | .smartWrite _ _ _ | .smartProfile _ | .soundSetup _ _ _ | .clip _ | .soundData _ _ _ | .immediateTone _ _
  | .soundStop | .powerSetup _ _ _ _ | .linkSetup _ | .tabletSend _ | .linkStatus | .linkReset | .relayUp _ => false

/-- The request is RELAY_UP, which only the tablet may send (R135). -/
def tabletOnly (r : Request) : Bool := r.kind == 0x44

/-- R135, check 3: whether a line may send a request. -/
def State.lineAllows (s : State) (l : LineId) (r : Request) : Bool :=
  match l with
  | .host => !tabletOnly r
  | .tablet => !hostOnly r && (!isQuery r || s.link.queryAllowed)

/-- The rule that owns a request acts on it (R133): the request table of R135. -/
def takeByRule (r : Request) (l : LineId) (s : State) : Answer :=
  match r with
  | .identify => takeIdentify s
  | .reset => takeReset s
  | .setWatch period => takeSetWatch period s
  | .setMask mask => takeSetMask mask s
  | .allStop => takeAllStop s
  | .portSetup port config => takePortSetup port config s
  | .setOwners owners => takeSetOwners owners s
  | .move port record => takeMove l port record s
  | .moveNow port record => takeMoveNow l port record s
  | .queueClear port stop => takeQueueClear l port stop s
  | .preset port position => takePreset l port position s
  | .portQuery port => takePortQuery port s
  | .groupDefine group members => takeGroupDefine l group members s
  | .sensorSetup port setup => takeSensorSetup l port setup s
  | .sensorRead port => takeSensorRead l port s
  | .smartSelect port mode => takeSmartSelect l port mode s
  | .smartWrite port count bytes => takeSmartWrite l port count bytes s
  | .smartProfile port => takeSmartProfile l port s
  | .soundSetup action volume threshold => takeSoundSetup l action volume threshold s
  | .clip record => takeClip l record s
  | .soundData count endFlag bytes => takeSoundData l count endFlag bytes s
  | .immediateTone frequency duration => takeImmediateTone l frequency duration s
  | .soundStop => takeSoundStop l s
  | .powerSetup vLow vCritical vRestore limit => takePowerSetup vLow vCritical vRestore limit s
  | .powerQuery => takePowerQuery s
  | .linkSetup setup => takeLinkSetup setup s
  | .tabletSend payload => takeTabletSend payload s
  | .linkStatus => takeLinkStatus s
  | .linkReset => takeLinkReset s
  | .relayUp payload => takeRelayUp payload s

/-- The request decoder on a frame's body (R135): kind, length, line, and then the owning rule. -/
def State.answer (s : State) (l : LineId) (body : List Byte) : Answer :=
  match decodeRequest body with
  | .unknownKind => .error ⟨.unknownKind, []⟩
  | .badLength => .error ⟨.badLength, []⟩
  | .request r => do
    need (s.lineAllows l r) .notPermitted
    takeByRule r l s

/-- A reply's kind (R134). -/
def replyKind (kind : Byte) : Byte := if kind.msb then 0xFF else kind + 0x80

/-- A reply's body (R134). -/
def replyBody (request : List Byte) (status : Status) (data : List Byte) : List Byte :=
  [replyKind (rd8 request 0), rd8 request 1] ++ u8 status.code ++ data

/-- A reply appended at the tail of a line's reply queue (R133). -/
def State.addReply (s : State) (l : LineId) (body : List Byte) : State :=
  s.modLine l fun u => { u with replies := u.replies ++ [body] }

/-- A request with this body taken whole (R133): the decoder's checks, the owning rule's act or refusal, and the reply. A
refused request changes nothing else (R135). -/
def State.takeBody (s : State) (l : LineId) (body : List Byte) : State :=
  match s.answer l body with
  | .ok (s1, data) => s1.addReply l (replyBody body .ok data)
  | .error r => s.addReply l (replyBody body r.status r.data)

/-- The head of a line's request FIFO may be taken (R133). -/
def State.mayTake (s : State) (l : LineId) : Bool :=
  !(s.lineAt l).fifo.isEmpty && (s.lineAt l).replies.length < 4 && s.softReset.isNone

/-- The head of a line's request FIFO taken, if it may be (R133). -/
def State.takeRequest (s : State) (l : LineId) : State :=
  match (s.lineAt l).fifo with
  | body :: rest =>
    if s.mayTake l then ((s.modLine l fun u => { u with fifo := rest }).fifoChanged l).takeBody l body else s
  | [] => s

/-! ### The work the lines and the converter do by themselves -/

/-- One round of what happens at once (R133, R136): a request taken from each line that may be, a frame begun on each line
that can be, the host line first (log entry 7). -/
def State.serveOnce (s : State) : State :=
  (((s.takeRequest .host).takeRequest .tablet).beginFrame .host).beginFrame .tablet

/-- Rounds until nothing is left to do at once; each round that does anything takes a waiting request or begins a frame, so
there are at most so many. -/
def State.serve : Nat → State → State
  | 0, s => s
  | n + 1, s => State.serve n s.serveOnce

/-- The rounds that are enough. -/
def State.serveFuel (s : State) : Nat := s.host.fifo.length + s.tablet.fifo.length + 2

/-- Everything that happens at once has happened (R133, R136, R42, R43): requests taken, frames begun, and the idle
converter put to work. -/
def State.settle (s : State) : State := (s.serve s.serveFuel).modConv Converter.begin

/-- What a command does (log entry 7): nothing but while a reset holds (R143), and otherwise its own effect, before and
after which everything that happens at once happens. -/
def State.command (s : State) (effect : State → State) : State :=
  if s.inReset then s else (effect s.settle).settle

/-! ### Bytes and transmissions -/

/-- What the hunter found, acted on (R129 to R132): each finding whole, with what happens at once after it. -/
def State.foundOnLine (l : LineId) (s : State) (f : Found) : State :=
  match f with
  | .failure => (s.hunterFailure l).settle
  | .valid body => (s.frameArrives l body).settle

/-- A byte from a line's receiver (R129 to R131): the inter-byte timeout runs from it while a frame is under assembly. -/
def State.byteArrives (s : State) (l : LineId) (b : Byte) : State :=
  let r := scan 0 ((s.lineAt l).held ++ [b])
  r.1.foldl (State.foundOnLine l) (s.modLine l fun u =>
    { u with held := r.2, rxTimer := if r.2.isEmpty then none else some s.clock })

/-- The inter-byte timeout expires (R131). -/
def State.byteTimeout (s : State) (l : LineId) : State :=
  if (s.lineAt l).rxTimer.isSome then s.modLine l fun u => { u with held := [], rxTimer := none } else s

/-- The frame is the RESET reply, as an accepted RESET makes it (R134, R142). -/
def TxFrame.isResetReply (f : TxFrame) : Bool := f.cls == .reply && rd8 f.body 0 == 0x82 && rd8 f.body 2 == 0

/-- A frame's transmission ends (R137); the end of the RESET reply is noted for the soft reset (R142). -/
def State.transmissionEnds (s : State) (l : LineId) : State :=
  match (s.lineAt l).tx with
  | some f =>
    let s1 := s.modLine l fun u => { u with tx := none }
    if l = .host && s.softReset.isSome && f.isResetReply then { s1 with softReset := some true } else s1
  | none => s

end Sys2Proof.Machine
end

