-- ==== Sys2Proof/Machine/Resets.lean ====
section
/-! DEFINITION. The three resets (R142, R143), and the levels that outside things drive, which no reset changes. -/

namespace Sys2Proof.Machine

/-- The state at the end of a reset (R143): every block in its reset state, POWER pending with the cause of the reset. What
the outside drives on the pins stays, and so does what is the model's own: the commands that wait and the free values
used up (log entries 9, 10). -/
def State.resetTo (s : State) (cause : PowerCause) : State :=
  { State.reset with
    motor := s.motor.map fun p => Port.reset p.encLevels
    supply := Supply.reset (PowerCauses.clear.set cause)
    sensor := s.sensor.map fun p => SensorPort.reset p.driveA p.driveB
    link := Link.reset s.link.radioReady
    resetnLow := s.resetnLow
    freeIdx := s.freeIdx
    pending := s.pending }

/-- A power-on or pin reset begins (R137, R142, R143, R166): both lines' transmissions and the smart lines' are cut off, a
pending soft reset is cleared, K40_READY is deasserted and SPK_OUT is 0. The rest of the state is kept until the reset's
end replaces it (log entry 19); what the pins do meanwhile is in Pins.lean. -/
def State.resetBegins (s : State) : State :=
  { s with
    host := { s.host with tx := none }
    tablet := { s.tablet with tx := none }
    softReset := none
    link := { s.link with k40Ready := false }
    sound := { s.sound with out := 0 }
    sensor := s.sensor.map fun p => { p with smart := { p.smart with tx := none } } }

/-- The supply falls below the operating level (R143). -/
def State.powerFalls (s : State) : State :=
  if s.porActive then s else { s.resetBegins with porActive := true }

/-- The supply reaches the operating level (R143). While RESETN is low the pin reset goes on holding, and its end decides
(log entry 13). Without a power-on reset there is nothing to end.
DESIGN CHOICE, log entry 21: the POWER notice begins at once at a reset's end and clears the cause flags (R56, R136, R164), though R57
has POWER_QUERY report the reset's flag until the first battery sample. -/
def State.powerRises (s : State) : State :=
  if s.porActive then
    if s.resetnLow then { s with porActive := false } else (s.resetTo .powerOn).settle
  else s.command id

/-- RESETN goes low (R143). -/
def State.pinFalls (s : State) : State :=
  if s.resetnLow then s else { s.resetBegins with resetnLow := true }

/-- RESETN rises (R143). While a power-on reset still holds, that goes on holding (log entry 13). A rise
of a pin that is not low is no event. Its end begins the POWER notice at once (log entry 21). -/
def State.pinRises (s : State) : State :=
  if s.resetnLow then
    if s.porActive then { s with resetnLow := false }
    else ({ s with resetnLow := false }.resetTo .pin).settle
  else s.command id

/-- The three things that hold together when a soft reset takes effect (R142). -/
def State.softResetDue (s : State) : Bool :=
  s.softReset == some true && s.tablet.replies.isEmpty &&
    (match s.tablet.tx with | some f => f.cls != .reply | none => true)

/-- The soft reset takes effect, if it is due (R142, R143), and begins the POWER notice at once (log entry 21). -/
def State.softResets (s : State) : State :=
  if s.softResetDue then (s.resetTo .soft).settle else s

/-- A millisecond of uptime passes (R143). -/
def State.tick (s : State) : State := { s with clock := s.clock + 1 }

/-- A level on RADIO_READY noted. -/
def State.setRadio (s : State) (level : Bool) : State := s.modLink fun k => { k with radioReady := level }

/-- Levels on a port's encoder channels noted while a reset holds; its end makes them the reference pair (R24). -/
def State.noteEncoder (s : State) (m : Idx6) (pair : Bool × Bool) : State :=
  s.modPort m fun p => { p with encLevels := pair }

/-- A command that brings a level from outside: while a reset holds the level is noted, and that is all. -/
def State.commandNoting (s : State) (note effect : State → State) : State :=
  if s.inReset then note s else s.command effect

end Sys2Proof.Machine
end

