-- ==== Sys2Proof/Machine/Pins.lean ====
section
/-! DEFINITION. What the part drives on its pins, as functions of the state: bridges (R7, R8, R36, R143), sensor supplies
and pins (R58, R65, R72, R77, R82), the serial lines (R137, R143, R154), K40_READY (R143, R147) and SPK_OUT (R112, R143). -/

namespace Sys2Proof.Machine

/-- A motor port's bridge outputs (R7). -/
inductive Bridge where
  /-- Both outputs high-impedance: the motor coasts. -/
  | open_
  /-- The motor windings shorted. -/
  | shorted
  /-- Driven at a duty, −1000..1000. -/
  | driven (duty : Int)
  deriving DecidableEq, Repr

/-- The bridge of a rest (R7). -/
def Rest.bridge (duty : Int) : Rest → Bridge
  | .free => .open_
  | .stalled => .open_
  | .braked => .shorted
  | .holding => .driven duty

/-- A port's bridge outputs by its state (R7, R8). -/
def Port.bridge (p : Port) : Bridge :=
  match p.act with
  | .rest r => r.bridge p.duty
  | .groupWait r => r.bridge p.duty
  | .shutdown => .shorted
  | .running r =>
    match r.move.motion with
    | .rest .coast _ => .open_
    | .rest .brake _ => .shorted
    | _ => .driven p.duty

/-- A port's bridge outputs, high-impedance while a reset holds (R143). -/
def State.bridge (s : State) (m : Idx6) : Bridge := if s.inReset then .open_ else (s.port m).bridge

/-- What the K40 does at a pin of a sensor port (R58, R65, R77, R82). -/
inductive PinRole where
  | highImpedance
  /-- Pin 1 of an ANALOG port: the converter samples it. -/
  | sampled
  | input (pull : Pull)
  | output (level : Bool)
  /-- Pin A of a SMART port. -/
  | smartReceive
  /-- Pin B of a SMART port, on which the transmitter sends a record's characters at the line rate. -/
  | smartSends (record : List Byte) (rate : Nat)
  deriving DecidableEq, Repr

/-- The role of a DIGITAL pin; a held port's outputs are released (R65, R72). -/
def DigitalPin.role (q : DigitalPin) (held : Bool) : PinRole :=
  match q.direction with
  | .input => .input q.pull
  | .outputLow => if held then .highImpedance else .output false
  | .outputHigh => if held then .highImpedance else .output true

/-- The smart line's output (R77, R82): high-impedance while the controller is stopped, else the record in transmission, and
high while there is none. -/
def Smart.txRole (c : Smart) : PinRole :=
  if c.running then (match c.tx with | some r => .smartSends r c.rate | none => .output true) else .highImpedance

/-- The role of pin A or B in its port's mode (R58). -/
def SensorPort.role (p : SensorPort) (pin : PinId) : PinRole :=
  match p.work, pin with
  | .off, _ => .highImpedance
  | .analog _, _ => .input .none
  | .digital a _, .a => a.role p.isHeld
  | .digital _ b, .b => b.role p.isHeld
  | .counter w, .a => .input w.pullA
  | .counter w, .b => .input w.pullB
  | .smart, .a => .smartReceive
  | .smart, .b => p.smart.txRole

/-- The role of pin 1 in its port's mode (R58). -/
def SensorPort.pin1Role (p : SensorPort) : PinRole :=
  match p.work with
  | .analog _ => .sampled
  | .off | .digital _ _ | .counter _ | .smart => .highImpedance

/-- A sensor port's pin A or B, high-impedance while a reset holds (R143). -/
def State.pinRole (s : State) (i : Idx6) (pin : PinId) : PinRole :=
  if s.inReset then .highImpedance else (s.sensorAt i).role pin

/-- A sensor port's pin 1, high-impedance while a reset holds (R58, R143). -/
def State.pin1Role (s : State) (i : Idx6) : PinRole :=
  if s.inReset then .highImpedance else (s.sensorAt i).pin1Role

/-- A sensor port's 5 V supply, off while a reset holds (R58, R143). -/
def State.supplyPin (s : State) (i : Idx6) : Bool := !s.inReset && (s.sensorAt i).supplyOn

/-- What a transmit line does: it rests high, is held low by a break, or sends a frame's bytes. -/
inductive TxPin where
  | high
  | low
  | sends (bytes : List Byte) (rate : Nat)
  deriving DecidableEq, Repr

/-- A frame's bytes on the line (R128), or the resting level (R137). -/
def txOf : Option TxFrame → TxPin
  | some f => .sends (frameOf f.body) f.rate
  | none => .high

/-- HOST_TX (R137, R143). -/
def State.hostTx (s : State) : TxPin := if s.inReset then .high else txOf s.host.tx

/-- TAB_TX (R137, R143, R154). -/
def State.tabTx (s : State) : TxPin :=
  if s.inReset then .high else if s.link.breakTimer.isSome then .low else txOf s.tablet.tx

/-- K40_READY (R143, R147). -/
def State.k40ReadyPin (s : State) : Bool := !s.inReset && s.link.k40Ready

/-- SPK_OUT (R112, R143). -/
def State.speaker (s : State) : Int := if s.inReset then 0 else s.sound.out

end Sys2Proof.Machine
end

