-- ==== Sys2Proof/Machine/Commands.lean ====
section
/-! DEFINITION. What every meaning shares: the outcome of a command, and a request as a command. -/

namespace Sys2Proof.Machine

/-- What a command answers. No rule of the spec stops the part, so it is always a next state (log entry 16). -/
abbrev Result := Host.Outcome State Fault Refusal

/-- A request as a command (log entry 6): the valid frame with this body is found on the line (R129), acts on the host watch
or the link, enters the request FIFO or is discarded, and is taken as soon as R133 allows. -/
def State.requestCommand (s : State) (l : LineId) (body : List Byte) : State :=
  s.command fun t => t.frameArrives l body

end Sys2Proof.Machine
end

