-- ==== Sys2Proof/Machine/Regulation.lean ====
section
/-! DEFINITION. The regulation event of one motor port (chapters 2 and 6): its steps in R23's order. -/

namespace Sys2Proof.Machine

/-! ### Configuration, encoder, measured speed (R1, R25, R26) -/

/-- The pending configuration takes effect and the port's ceiling is recomputed (R1, R37, R51). -/
def State.configStep (s : State) (m : Idx6) : State :=
  match (s.port m).pendingConfig with
  | some c => (s.modPort m fun p => { p with config := c, pendingConfig := none }).recomputeCeiling m
  | none => s

/-- The encoder step (R25): the raw count is added with the sign of the encoder polarity, saturating, and returns to 0. -/
def Port.encoderStep (p : Port) : Port :=
  let n := match p.config.encoderPolarity with | .normal => p.rawCount | .reversed => -p.rawCount
  { p with position := satPosition (p.position + n), rawCount := 0 }

/-- A new sample at the front of the history, the oldest dropped (R26). -/
def History.push (h : History) (x : Int) : History := ⟨x, h.h0, h.h1, h.h2, h.h3, h.h4, h.h5, h.h6⟩

/-- The measured-speed step (R26): 25 times the distance since the oldest sample. -/
def Port.speedStep (p : Port) : Port :=
  { p with vm := (p.position - p.history.h7) * 25, history := p.history.push p.position }

/-! ### The quadrature decoder (R24) -/

/-- The place of a pair of levels on R24's cycle: (0,0), (1,0), (1,1), (0,1). -/
def pairPlace : Bool × Bool → Nat
  | (false, false) => 0
  | (true, false) => 1
  | (true, true) => 2
  | (false, true) => 3

/-- A change of the encoder channels to a new pair (R24): one place forward adds 1 to the raw count, one place backward
subtracts 1, and a change of both channels is counted as an error. The new pair becomes the reference pair. -/
def Port.encoderChange (p : Port) (pair : Bool × Bool) : Port :=
  let turn := (pairPlace pair + 4 - pairPlace p.refPair) % 4
  let p1 := { p with encLevels := pair, refPair := pair }
  match turn with
  | 1 => { p1 with rawCount := clampInt (-32767) 32767 (p.rawCount + 1) }
  | 3 => { p1 with rawCount := clampInt (-32767) 32767 (p.rawCount - 1) }
  | 2 => { p1 with encErrors := satAdd 65535 p.encErrors 1 }
  | _ => p1

/-! ### The start decision (R9, R10, R20, R21) -/

/-- A move that gives way to a startable head (R9, R100). -/
def Move.yields (mv : Move) : Bool :=
  match mv.motion with
  | .speed _ => true
  | .rest _ d => d == 0 && mv.guard.isNone
  | _ => false

/-- Step 1 of R9: heads whose group does not include the port are discarded with GROUP_BROKEN, as often as it applies.
`n` bounds the heads looked at by the records there are. -/
def State.dropForeignHeads (m : Idx6) : Nat → State → State
  | 0, s => s
  | n + 1, s =>
    let g := (s.port m).headGroup
    if g ≠ 0 && !s.isMember g m then State.dropForeignHeads m n (s.breakHead m) else s

/-- The group start on one member (R21): its running yielding move ends DONE and its head starts following it; a member in
a rest or in GROUP_WAIT starts from rest. -/
def State.startMember (s : State) (q : Idx6) : State :=
  if (s.port q).isRunning then (s.endMove q .done).modPort q (Port.startHead true)
  else s.modPort q (Port.startHead false)

/-- The group start found by port m's evaluation (R21), on every member at this one event. `ended` says that m's running
move has ended at this event (R10), so that m's head follows it. -/
def State.groupStart (s : State) (m : Idx6) (g : Nat) (ended : Bool) : State :=
  Idx6.all.foldl (fun t q =>
    if s.isMember g q then
      if q = m && ended then t.modPort q (Port.startHead true) else t.startMember q
    else t) s

/-- Whether every other member of a group is ready for it (R21). -/
def State.othersReady (s : State) (g : Nat) (m : Idx6) : Bool :=
  Idx6.all.all fun q => q == m || !s.isMember g q || s.readyFor g q

/-- A port found ready whose group does not start (R20): a rest shows GROUP_WAIT, a running move has the ready flag set. -/
def Port.markReady (p : Port) : Port :=
  match p.act with
  | .rest r => { p with act := .groupWait r }
  | .running r => { p with act := .running { r with ready := true } }
  | _ => p

/-- The start decision of R9, taken at the event's start decision step (`ended = false`) or again after the running move
ended later in the event (`ended = true`, R10: the running move is then absent, and a start follows it). The answer says
whether a record started on this port. After an end, a head that waits for its group is shown by `settleEnd`. -/
def State.startDecision (s0 : State) (m : Idx6) (ended : Bool) : State × Bool :=
  let s := State.dropForeignHeads m (s0.port m).queue.length s0
  let p := s.port m
  let following (t : State) : State × Bool := (t.modPort m (Port.startHead true), true)
  let fresh (t : State) : State × Bool := (t.modPort m (Port.startHead false), true)
  match p.queue with
  | [] => (s, false)
  | head :: _ =>
    if ended then
      if head.group = 0 || p.replacing then following s
      else if s.othersReady head.group m then (s.groupStart m head.group true, true)
      else (s, false)
    else if p.replacing then
      if p.isRunning then following (s.endMove m .replaced) else fresh s
    else if head.group = 0 then
      match p.act with
      | .rest _ => fresh s
      | .running r => if r.move.yields then following (s.endMove m .done) else (s, false)
      | _ => (s, false)
    else
      let canBe := match p.act with
        | .running r => r.move.yields
        | .shutdown => false
        | _ => true
      if !canBe then (s, false)
      else if s.othersReady head.group m then (s.groupStart m head.group false, true)
      else (s.modPort m Port.markReady, false)

/-- After an end with nothing started (R10, R15): the ended move's end action, and GROUP_WAIT over that rest if the head is
a group head, for which the port is then ready (R20). -/
def State.settleEnd (s : State) (m : Idx6) (endAction : StopStyle) : State :=
  s.modPort m fun p =>
    let q := p.enterRest (restOf endAction)
    if q.headGroup ≠ 0 then q.markReady else q

/-- A running move that ends later in the event (R10): its outcome record, the start decision again, and its end action if
nothing starts. The answer says whether a record started. -/
def State.endLater (s : State) (m : Idx6) (mv : Move) (x : OutcomeCode) : State × Bool :=
  let (s1, started) := (s.endMove m x).startDecision m true
  if started then (s1, true) else (s1.settleEnd m mv.endAction, false)

/-! ### The profile step (R27 to R33) -/

/-- The ramp step s (R27). -/
def PortConfig.rampStep (c : PortConfig) : Int := max 1 (c.accel / 200 : Nat)

/-- v_p moved toward a target speed by at most the ramp step (R27). -/
def rampToward (target step vp : Int) : Int :=
  if (target - vp).natAbs ≤ step.natAbs then target else if vp < target then vp + step else vp - step

/-- The running move with its phase replaced. -/
def Port.setPhase (p : Port) (phase : Phase) : Port :=
  match p.act with
  | .running r => { p with act := .running { r with phase := phase } }
  | _ => p

/-- Hold regulation's target speed (R29). -/
def Port.holdSpeedTarget (p : Port) : Int :=
  clampInt (-p.config.holdSpeed) p.config.holdSpeed (10 * (p.holdTarget - p.position))

/-- The profile step of a port that holds (R29). The phase stays as it is: NONE, or CRUISE for a REST of HOLD style. -/
def Port.holdProfile (p : Port) : Port := { p with vp := rampToward p.holdSpeedTarget p.config.rampStep p.vp }

/-- The profile step of a SPEED or TIMED move (R28). -/
def Port.speedProfile (p : Port) (v : Int) : Port :=
  let target := clampInt (-p.config.maxSpeed) p.config.maxSpeed v
  let vp := rampToward target p.config.rampStep p.vp
  ({ p with vp := vp }).setPhase (if vp = target then .cruise else .ramp)

/-- The braking distance b (R30): the square of v_p over twice the acceleration, rounded up. -/
def brakingDistance (vp : Int) (accel : Nat) : Nat := (vp.natAbs * vp.natAbs + 2 * accel - 1) / (2 * accel)

/-- The braking test (R30, step 3), on the v_p before this step's ramp. -/
def Port.mustBrake (p : Port) (r : Int) : Bool :=
  r.natAbs ≤ brakingDistance p.vp p.config.accel + p.vp.natAbs / 200

/-- The profile step of a POSITION or RELATIVE move that is not yet within its tolerance (R30, R31, R32); `speed` is the
move's stored magnitude and `r` the remaining distance. -/
def Port.positionProfile (p : Port) (phase : Phase) (speed : Nat) (r : Int) : Port :=
  let v : Int := min speed p.config.maxSpeed
  let q := min 50 v
  let d : Int := if 0 < r then 1 else -1
  let latched := phase = .braking || phase = .approach
  if latched || p.mustBrake r then
    let vp := rampToward (d * q) p.config.rampStep p.vp
    ({ p with vp := vp }).setPhase (if vp = d * q then .approach else .braking)
  else
    let vp := rampToward (d * v) p.config.rampStep p.vp
    ({ p with vp := vp }).setPhase (if vp = d * v then .cruise else .ramp)

/-- What the profile step tells the rest of the event: whether a record started at this event, and whether the port entered
a HOLDING rest in this step, whose stall step is then passed over (R33). -/
structure Passed where
  started : Bool
  enteredHold : Bool
  deriving DecidableEq, Repr

/-- The hold of a rest: HOLDING, or GROUP_WAIT over it (R23). -/
def Activity.holds : Activity → Bool
  | .rest .holding => true
  | .groupWait .holding => true
  | _ => false

/-- The profile step (R23, R27 to R33). A POSITION or RELATIVE move within its tolerance ends DONE and the start decision is
taken again; each pass removes one record from the queue, which bounds the passes. -/
def State.profileStep (m : Idx6) : Nat → Passed → State → State × Passed
  | 0, f, s => (s, f)
  | fuel + 1, f, s =>
    let p := s.port m
    match p.act with
    | .running r =>
      let toTarget (speed : Nat) : State × Passed :=
        let dist := r.target.getD p.position - p.position
        if dist.natAbs ≤ p.config.tolerance then
          let (s1, started) := s.endLater m r.move .done
          if started then State.profileStep m fuel { f with started := true } s1
          else if (s1.port m).act.holds then (s1.modPort m Port.holdProfile, { f with enteredHold := true })
          else (s1, f)
        else (s.modPort m fun p => p.positionProfile r.phase speed dist, f)
      match r.move.motion with
      | .speed v | .timed v _ => (s.modPort m fun p => p.speedProfile v, f)
      | .position v _ => toTarget v
      | .relative v _ => toTarget v
      | .rest .hold _ => (s.modPort m Port.holdProfile, f)
      | .rest _ _ => (s, f)
    | a => if a.holds then (s.modPort m Port.holdProfile, f) else (s, f)

/-! ### The regulator step (R34 to R36) -/

/-- A port is regulated (R23). -/
def Port.isRegulated (p : Port) : Bool :=
  match p.act with
  | .running r => match r.move.motion with | .rest .hold _ => true | .rest _ _ => false | _ => true
  | a => a.holds

/-- The regulator (R34 to R36): error, candidate integral, output clamped to the ceiling with the integral withheld in the
direction of saturation, and the applied duty with the motor polarity. -/
def Port.regulate (p : Port) : Port :=
  let e := clampInt (-4000) 4000 (p.vp - p.vm)
  let candidate := clampInt (-256000) 256000 (p.integral + p.config.ki * e)
  let u := (p.config.kf * p.vp + p.config.kp * e + candidate).tdiv 256
  let c : Int := p.ceiling
  let out := if u > c then c else if u < -c then -c else u
  let kept := if u > c && 0 < e then p.integral else if u < -c && e < 0 then p.integral else candidate
  { p with integral := kept,
           duty := match p.config.motorPolarity with | .normal => out | .reversed => -out }

/-- The regulator step, carried out when the port is regulated (R23, R38). -/
def State.regulatorStep (s : State) (m : Idx6) : State :=
  s.modPort m fun p => if p.isRegulated then p.regulate else p

/-! ### The guard step (R101 to R106) -/

/-- Value k of a reading record. -/
def Values.at (v : Values) : Nat → Int
  | 0 => v.v0
  | 1 => v.v1
  | 2 => v.v2
  | _ => v.v3

/-- The reading is usable (R101). -/
def Reading.usable (r : Reading) (index : Nat) : Bool := r.status == .fresh && index < r.count

/-- A guard's comparison (R103 to R105), on the previous value and sequence and the current ones. -/
def Guard.fires (g : Guard) (prev : Option (Int × Half)) (value : Int) (sequence : Half) : Bool :=
  match g.comparison with
  | .atLeast => g.threshold ≤ value
  | .atMost => value ≤ g.threshold
  | .crossUp => match prev with | some (v, _) => v < g.threshold && g.threshold ≤ value | none => false
  | .crossDown => match prev with | some (v, _) => g.threshold < v && value ≤ g.threshold | none => false
  | .changed => match prev with | some (v, q) => q != sequence && v != value | none => false

/-- What a guard step finds (R101, R102): nothing to do, the guard fires, or a strict guard has lost its reading. -/
inductive GuardResult where
  | waits
  | records (value : Int) (sequence : Half)
  | fires
  | lost
  deriving DecidableEq, Repr

/-- The guard evaluated against the reading table (R101, R102). -/
def Guard.evaluate (g : Guard) (prev : Option (Int × Half)) (r : Reading) : GuardResult :=
  if r.usable g.index then
    if g.fires prev (r.values.at g.index) r.sequence then .fires else .records (r.values.at g.index) r.sequence
  else if g.strict then .lost
  else .waits

/-- The guard step (R23, R101 to R106). The answer says whether the move ended here. -/
def State.guardStep (s : State) (m : Idx6) : State × Bool :=
  match (s.port m).act with
  | .running r =>
    match r.move.guard with
    | some g =>
      match g.evaluate r.prev (s.sensorAt g.sensor).record with
      | .waits => (s, false)
      | .records v q => (s.modPort m fun p => { p with act := .running { r with prev := some (v, q) } }, false)
      | .fires => ((s.endLater m r.move .guard).1, true)
      | .lost => ((s.endLater m r.move .guardLost).1, true)
    | none => (s, false)
  | _ => (s, false)

/-! ### The stall and timed steps (R39 to R41) -/

/-- The stall timer after the stall step (R39). -/
def Port.nextStallTimer (p : Port) : Nat :=
  let d := min p.config.stallDuty p.ceiling
  if 50 ≤ p.ceiling && d ≤ p.duty.natAbs && p.vm.natAbs < p.config.stallSpeed then p.stallTimer + 5 else 0

/-- The stall step (R23, R39, R40). The answer says whether a stall stopped the port. -/
def State.stallStep (s : State) (m : Idx6) : State × Bool :=
  let p := s.port m
  if p.isRunning || p.act.holds then
    let t := p.nextStallTimer
    let s1 := s.modPort m fun p => { p with stallTimer := t }
    if p.config.stallTime ≤ t then (s1.stallStop m, true) else (s1, false)
  else (s, false)

/-- The move's duration has run out (R41). -/
def Move.timedOut (mv : Move) (elapsed : Nat) : Bool :=
  match mv.motion with
  | .timed _ d => d ≤ elapsed
  | .rest _ d => d != 0 && d ≤ elapsed
  | _ => false

/-- The timed step (R23, R41): a move that did not start at this event gains 5 ms, and one whose duration has run out ends
DONE. -/
def State.timedStep (s : State) (m : Idx6) (started : Bool) : State :=
  match (s.port m).act with
  | .running r =>
    if started then s
    else
      let elapsed := satAdd 4294967295 r.elapsed 5
      let s1 := s.modPort m fun p => { p with act := .running { r with elapsed := elapsed } }
      if r.move.timedOut elapsed then (s1.endLater m r.move .done).1 else s1
  | _ => s

/-! ### The event -/

/-- The regulation event of one port (R23), its steps in the table's order. -/
def State.regulation (s : State) (m : Idx6) : State :=
  let s1 := ((s.configStep m).modPort m Port.encoderStep).modPort m Port.speedStep
  if (s1.port m).isShutdown then s1
  else
    let (s2, started) := s1.startDecision m false
    let (s3, f) := State.profileStep m ((s2.port m).queue.length + 1) ⟨started, false⟩ s2
    let s4 := s3.regulatorStep m
    let (s5, guardEnded) := s4.guardStep m
    if guardEnded then s5
    else
      let (s6, stalled) := if f.enteredHold then (s5, false) else s5.stallStep m
      if stalled then s6 else s6.timedStep m f.started

end Sys2Proof.Machine
end

