-- ==== Sys2Proof/Machine/DriveCommands.lean ====
section
/-! DEFINITION. The commands of the motor ports (chapters 1, 2 and 6): one meaning for each row. -/

namespace Sys2Proof.Machine

/-- PORT_SETUP (R1). -/
def execPortSetup (line : LineId) (tag : Byte) (port : Byte) (config : PortConfigRaw) (s : State) : Result :=
  .next (s.requestCommand line (Request.body tag (.portSetup port config)))

/-- MOVE (R5). -/
def execMove (line : LineId) (tag : Byte) (port : Byte) (record : MoveRaw) (s : State) : Result :=
  .next (s.requestCommand line (Request.body tag (.move port record)))

/-- MOVE_NOW (R11). -/
def execMoveNow (line : LineId) (tag : Byte) (port : Byte) (record : MoveRaw) (s : State) : Result :=
  .next (s.requestCommand line (Request.body tag (.moveNow port record)))

/-- QUEUE_CLEAR (R13). -/
def execQueueClear (line : LineId) (tag : Byte) (port : Byte) (stop : Byte) (s : State) : Result :=
  .next (s.requestCommand line (Request.body tag (.queueClear port stop)))

/-- PRESET (R12). -/
def execPreset (line : LineId) (tag : Byte) (port : Byte) (position : Word) (s : State) : Result :=
  .next (s.requestCommand line (Request.body tag (.preset port position)))

/-- PORT_QUERY (R14). -/
def execPortQuery (line : LineId) (tag : Byte) (port : Byte) (s : State) : Result :=
  .next (s.requestCommand line (Request.body tag (.portQuery port)))

/-- GROUP_DEFINE (R19). -/
def execGroupDefine (line : LineId) (tag : Byte) (group : Byte) (members : Byte) (s : State) : Result :=
  .next (s.requestCommand line (Request.body tag (.groupDefine group members)))

/-- REGULATION_EVENT (R23). -/
def execRegulationEvent (m : Idx6) (s : State) : Result := .next (s.command fun t => t.regulation m)

/-- ENCODER_TRANSITION (R24). -/
def execEncoderTransition (m : Idx6) (ch1 ch2 : Bool) (s : State) : Result := .next (s.commandNoting (·.noteEncoder m (ch1, ch2)) (·.modPort m (·.encoderChange (ch1, ch2))))

end Sys2Proof.Machine
end

