-- ==== Sys2Proof/Machine/LineCommands.lean ====
section
/-! DEFINITION. The commands of the frame engines, the host watch, the tablet link and the resets (chapters 8 to 10): one meaning for each row. -/

namespace Sys2Proof.Machine

/-- IDENTIFY (R141). -/
def execIdentify (line : LineId) (tag : Byte) (s : State) : Result :=
  .next (s.requestCommand line (Request.body tag .identify))

/-- RESET (R142). -/
def execReset (line : LineId) (tag : Byte) (s : State) : Result :=
  .next (s.requestCommand line (Request.body tag .reset))

/-- SET_WATCH (R139). -/
def execSetWatch (line : LineId) (tag : Byte) (period : Half) (s : State) : Result :=
  .next (s.requestCommand line (Request.body tag (.setWatch period)))

/-- SET_MASK (R162). -/
def execSetMask (line : LineId) (tag : Byte) (mask : Half) (s : State) : Result :=
  .next (s.requestCommand line (Request.body tag (.setMask mask)))

/-- ALL_STOP (R17). -/
def execAllStop (line : LineId) (tag : Byte) (s : State) : Result :=
  .next (s.requestCommand line (Request.body tag .allStop))

/-- SET_OWNERS (R2). -/
def execSetOwners (line : LineId) (tag : Byte) (owners : OwnersRaw) (s : State) : Result :=
  .next (s.requestCommand line (Request.body tag (.setOwners owners)))

/-- LINK_SETUP (R152). -/
def execLinkSetup (line : LineId) (tag : Byte) (setup : LinkSetupRaw) (s : State) : Result :=
  .next (s.requestCommand line (Request.body tag (.linkSetup setup)))

/-- TABLET_SEND (R151). -/
def execTabletSend (line : LineId) (tag : Byte) (payload : List Byte) (s : State) : Result :=
  .next (s.requestCommand line (Request.body tag (.tabletSend payload)))

/-- LINK_STATUS (R158). -/
def execLinkStatus (line : LineId) (tag : Byte) (s : State) : Result :=
  .next (s.requestCommand line (Request.body tag .linkStatus))

/-- LINK_RESET (R154). -/
def execLinkReset (line : LineId) (tag : Byte) (s : State) : Result :=
  .next (s.requestCommand line (Request.body tag .linkReset))

/-- RELAY_UP (R149). -/
def execRelayUp (line : LineId) (tag : Byte) (payload : List Byte) (s : State) : Result :=
  .next (s.requestCommand line (Request.body tag (.relayUp payload)))

/-- UNKNOWN_KIND (R135): a valid frame whose kind names no request is answered UNKNOWN_KIND. -/
def execUnknownKind (line : LineId) (kind tag : Byte) (params : List Byte) (s : State) : Result :=
  .next (s.requestCommand line (kind :: tag :: params))

/-- BYTE_RECEIVED (R129, R130, R132). -/
def execByteReceived (line : LineId) (byte : Byte) (s : State) : Result := .next (s.command fun t => t.byteArrives line byte)

/-- INTER_BYTE_TIMEOUT (R131). -/
def execInterByteTimeout (line : LineId) (s : State) : Result := .next (s.command fun t => t.byteTimeout line)

/-- TRANSMISSION_END (R137): the transmitter is idle, and the arbiter chooses again. -/
def execTransmissionEnd (line : LineId) (s : State) : Result := .next (s.command fun t => t.transmissionEnds line)

/-- RADIO_READY_RISE (R148). -/
def execRadioReadyRise (s : State) : Result := .next (s.commandNoting (·.setRadio true) (·.setRadio true))

/-- RADIO_READY_FALL (R148). -/
def execRadioReadyFall (s : State) : Result := .next (s.commandNoting (·.setRadio false) (·.setRadio false))

/-- BREAK_END (R154). -/
def execBreakEnd (s : State) : Result := .next (s.command State.breakEnds)

/-- SOFT_RESET_EFFECT (R142). -/
def execSoftResetEffect (s : State) : Result := .next (s.command State.softResets)

/-- HOST_WATCH_EXPIRY (R140). -/
def execHostWatchExpiry (s : State) : Result := .next (s.command State.watchExpires)

/-- QUIET_TIMER_EXPIRY (R156). -/
def execQuietTimerExpiry (s : State) : Result := .next (s.command State.quietExpires)

/-- POWER_ON_RESET_BEGIN (R143). -/
def execPowerOnResetBegin (s : State) : Result := .next (s.powerFalls)

/-- POWER_ON_RESET_END (R143). -/
def execPowerOnResetEnd (s : State) : Result := .next (s.powerRises)

/-- RESETN_LOW (R143). -/
def execResetnLow (s : State) : Result := .next (s.pinFalls)

/-- RESETN_RISE (R143). -/
def execResetnRise (s : State) : Result := .next (s.pinRises)

/-- UPTIME_TICK (R143). -/
def execUptimeTick (s : State) : Result := .next (s.command State.tick)

end Sys2Proof.Machine
end

