-- ==== Sys2Proof/Machine/SensorCommands.lean ====
section
/-! DEFINITION. The commands of the sensor ports and the smart lines (chapters 4 and 5): one meaning for each row. -/

namespace Sys2Proof.Machine

/-- SENSOR_SETUP (R62). -/
def execSensorSetup (line : LineId) (tag : Byte) (port : Byte) (setup : SensorSetupRaw) (s : State) : Result :=
  .next (s.requestCommand line (Request.body tag (.sensorSetup port setup)))

/-- SENSOR_READ (R73). -/
def execSensorRead (line : LineId) (tag : Byte) (port : Byte) (s : State) : Result :=
  .next (s.requestCommand line (Request.body tag (.sensorRead port)))

/-- SMART_SELECT (R95). -/
def execSmartSelect (line : LineId) (tag : Byte) (port mode : Byte) (s : State) : Result :=
  .next (s.requestCommand line (Request.body tag (.smartSelect port mode)))

/-- SMART_WRITE (R96). -/
def execSmartWrite (line : LineId) (tag : Byte) (port count : Byte) (bytes : List Byte) (s : State) : Result :=
  .next (s.requestCommand line (Request.body tag (.smartWrite port count bytes)))

/-- SMART_PROFILE (R97). -/
def execSmartProfile (line : LineId) (tag : Byte) (port : Byte) (s : State) : Result :=
  .next (s.requestCommand line (Request.body tag (.smartProfile port)))

/-- DIGITAL_PIN_CHANGE (R66). -/
def execDigitalPinChange (i : Idx6) (pin : PinId) (level : Bool) (s : State) : Result := .next (s.commandNoting (·.drivePin i pin level) (·.digitalPin i pin level))

/-- DEBOUNCE_EXPIRY (R66). -/
def execDebounceExpiry (i : Idx6) (pin : PinId) (s : State) : Result := .next (s.command fun t => t.debounceExpires i pin)

/-- COUNTER_PIN_A_CHANGE (R69). -/
def execCounterPinAChange (i : Idx6) (level : Bool) (us : Nat) (s : State) : Result := .next (s.commandNoting (·.drivePin i .a level) (·.counterPinA i level us))

/-- COUNTER_PIN_B_CHANGE (R69). -/
def execCounterPinBChange (i : Idx6) (level : Bool) (s : State) : Result := .next (s.commandNoting (·.drivePin i .b level) (·.counterPinB i level))

/-- SENSOR_SUPPLY_OVERLOAD (R72). -/
def execSensorSupplyOverload (i : Idx6) (s : State) : Result := .next (s.command fun t => t.overload i)

/-- INTERVAL_EXPIRY (R75). -/
def execIntervalExpiry (i : Idx6) (s : State) : Result := .next (s.command fun t => t.intervalExpires i)

/-- SMART_CHARACTER_RECEIVED (R78). -/
def execSmartCharacterReceived (i : Idx6) (char : Byte) (framing : Bool) (s : State) : Result := .next (s.command fun t => t.smartChar i char framing)

/-- PAUSE_EXPIRY (R80). -/
def execPauseExpiry (i : Idx6) (s : State) : Result := .next (s.command fun t => t.smartPause i)

/-- ANNOUNCE_LIMIT_EXPIRY (R87). -/
def execAnnounceLimitExpiry (i : Idx6) (s : State) : Result := .next (s.command fun t => t.smartAnnounceLimit i)

/-- SWITCH_DELAY_EXPIRY (R88). -/
def execSwitchDelayExpiry (i : Idx6) (s : State) : Result := .next (s.command fun t => t.smartSwitch i)

/-- NUDGE_TIMER_EXPIRY (R91). -/
def execNudgeTimerExpiry (i : Idx6) (s : State) : Result := .next (s.command fun t => t.smartNudge i)

/-- LOSS_TIMER_EXPIRY (R92). -/
def execLossTimerExpiry (i : Idx6) (s : State) : Result := .next (s.command fun t => t.smartLoss i)

/-- SMART_RECORD_SENT (R82). -/
def execSmartRecordSent (i : Idx6) (s : State) : Result := .next (s.command fun t => t.smartSent i)

end Sys2Proof.Machine
end

