-- ==== Sys2Proof/Machine/SoundCommands.lean ====
section
/-! DEFINITION. The commands of the sound engine (chapter 7): one meaning for each row. -/

namespace Sys2Proof.Machine

/-- SOUND_SETUP with action QUERY (R109). -/
def execSoundSetupQuery (line : LineId) (tag : Byte) (volume : Byte) (threshold : Half) (s : State) : Result :=
  .next (s.requestCommand line (Request.body tag (.soundSetup 0 volume threshold)))

/-- SOUND_SETUP with action APPLY (R109). -/
def execSoundSetupApply (line : LineId) (tag : Byte) (volume : Byte) (threshold : Half) (s : State) : Result :=
  .next (s.requestCommand line (Request.body tag (.soundSetup 1 volume threshold)))

/-- CLIP (R111). -/
def execClip (line : LineId) (tag : Byte) (record : ClipRaw) (s : State) : Result :=
  .next (s.requestCommand line (Request.body tag (.clip record)))

/-- SOUND_DATA (R116). -/
def execSoundData (line : LineId) (tag : Byte) (count endFlag : Byte) (bytes : List Byte) (s : State) : Result :=
  .next (s.requestCommand line (Request.body tag (.soundData count endFlag bytes)))

/-- IMMEDIATE_TONE (R123). -/
def execImmediateTone (line : LineId) (tag : Byte) (frequency duration : Half) (s : State) : Result :=
  .next (s.requestCommand line (Request.body tag (.immediateTone frequency duration)))

/-- SOUND_STOP (R126). -/
def execSoundStop (line : LineId) (tag : Byte) (s : State) : Result :=
  .next (s.requestCommand line (Request.body tag .soundStop))

/-- OUTPUT_SAMPLE_EVENT (R112). -/
def execOutputSampleEvent (s : State) : Result := .next (s.command State.outputSample)

end Sys2Proof.Machine
end

