-- ==== Sys2Proof/Machine/SupplyCommands.lean ====
section
/-! DEFINITION. The commands of the measurement converter and the supply monitor (chapter 3): one meaning for each row. -/

namespace Sys2Proof.Machine

/-- POWER_SETUP (R46). -/
def execPowerSetup (line : LineId) (tag : Byte) (vLow vCritical vRestore limit : Half) (s : State) : Result :=
  .next (s.requestCommand line (Request.body tag (.powerSetup vLow vCritical vRestore limit)))

/-- POWER_QUERY (R57). -/
def execPowerQuery (line : LineId) (tag : Byte) (s : State) : Result :=
  .next (s.requestCommand line (Request.body tag .powerQuery))

/-- SUPPLY_CHANNELS_DUE (R42). -/
def execSupplyChannelsDue (s : State) : Result := .next (s.command (·.modConv Converter.supplyDue))

/-- ANALOG_CHANNEL_DUE (R63). -/
def execAnalogChannelDue (i : Idx6) (s : State) : Result := .next (s.command fun t => t.analogDue i)

/-- CONVERSION_COMPLETE (R44). -/
def execConversionComplete (raw : BitVec 12) (s : State) : Result := .next (s.command fun t => t.conversionDone raw.toNat)

/-- RECOVERY_HOLD_EXPIRY (R48). -/
def execRecoveryHoldExpiry (s : State) : Result := .next (s.command State.holdExpires)

end Sys2Proof.Machine
end

