-- ==== Sys2Proof/Machine/Dispatch.lean ====
section
/-! DEFINITION. The dispatch of commands: one arm for each row of spec/opcode_table.json. -/

namespace Sys2Proof.Machine

/-- The meaning of a command: its effect on everything but the queue of waiting commands. -/
def exec (i : Instr) (s : State) : Host.Outcome State Fault Refusal :=
  match i with
  | .identify l t => Sys2Proof.Machine.execIdentify l t s
  | .reset l t => Sys2Proof.Machine.execReset l t s
  | .setWatch l t p => Sys2Proof.Machine.execSetWatch l t p s
  | .setMask l t m => Sys2Proof.Machine.execSetMask l t m s
  | .allStop l t => Sys2Proof.Machine.execAllStop l t s
  | .portSetup l t p c => Sys2Proof.Machine.execPortSetup l t p c s
  | .setOwners l t o => Sys2Proof.Machine.execSetOwners l t o s
  | .move l t p r => Sys2Proof.Machine.execMove l t p r s
  | .moveNow l t p r => Sys2Proof.Machine.execMoveNow l t p r s
  | .queueClear l t p f => Sys2Proof.Machine.execQueueClear l t p f s
  | .preset l t p v => Sys2Proof.Machine.execPreset l t p v s
  | .portQuery l t p => Sys2Proof.Machine.execPortQuery l t p s
  | .groupDefine l t g m => Sys2Proof.Machine.execGroupDefine l t g m s
  | .sensorSetup l t p r => Sys2Proof.Machine.execSensorSetup l t p r s
  | .sensorRead l t p => Sys2Proof.Machine.execSensorRead l t p s
  | .smartSelect l t p k => Sys2Proof.Machine.execSmartSelect l t p k s
  | .smartWrite l t p n b => Sys2Proof.Machine.execSmartWrite l t p n b s
  | .smartProfile l t p => Sys2Proof.Machine.execSmartProfile l t p s
  | .soundSetupQuery l t v h => Sys2Proof.Machine.execSoundSetupQuery l t v h s
  | .soundSetupApply l t v h => Sys2Proof.Machine.execSoundSetupApply l t v h s
  | .clip l t r => Sys2Proof.Machine.execClip l t r s
  | .soundData l t n e b => Sys2Proof.Machine.execSoundData l t n e b s
  | .immediateTone l t f d => Sys2Proof.Machine.execImmediateTone l t f d s
  | .soundStop l t => Sys2Proof.Machine.execSoundStop l t s
  | .powerSetup l t v c r k => Sys2Proof.Machine.execPowerSetup l t v c r k s
  | .powerQuery l t => Sys2Proof.Machine.execPowerQuery l t s
  | .linkSetup l t r => Sys2Proof.Machine.execLinkSetup l t r s
  | .tabletSend l t b => Sys2Proof.Machine.execTabletSend l t b s
  | .linkStatus l t => Sys2Proof.Machine.execLinkStatus l t s
  | .linkReset l t => Sys2Proof.Machine.execLinkReset l t s
  | .relayUp l t b => Sys2Proof.Machine.execRelayUp l t b s
  | .unknownKind l k t b => Sys2Proof.Machine.execUnknownKind l k t b s
  | .byteReceived l b => Sys2Proof.Machine.execByteReceived l b s
  | .interByteTimeout l => Sys2Proof.Machine.execInterByteTimeout l s
  | .transmissionEnd l => Sys2Proof.Machine.execTransmissionEnd l s
  | .radioReadyRise => Sys2Proof.Machine.execRadioReadyRise s
  | .radioReadyFall => Sys2Proof.Machine.execRadioReadyFall s
  | .breakEnd => Sys2Proof.Machine.execBreakEnd s
  | .softResetEffect => Sys2Proof.Machine.execSoftResetEffect s
  | .hostWatchExpiry => Sys2Proof.Machine.execHostWatchExpiry s
  | .quietTimerExpiry => Sys2Proof.Machine.execQuietTimerExpiry s
  | .powerOnResetBegin => Sys2Proof.Machine.execPowerOnResetBegin s
  | .powerOnResetEnd => Sys2Proof.Machine.execPowerOnResetEnd s
  | .resetnLow => Sys2Proof.Machine.execResetnLow s
  | .resetnRise => Sys2Proof.Machine.execResetnRise s
  | .regulationEvent m => Sys2Proof.Machine.execRegulationEvent m s
  | .encoderTransition m a b => Sys2Proof.Machine.execEncoderTransition m a b s
  | .supplyChannelsDue => Sys2Proof.Machine.execSupplyChannelsDue s
  | .analogChannelDue k => Sys2Proof.Machine.execAnalogChannelDue k s
  | .conversionComplete r => Sys2Proof.Machine.execConversionComplete r s
  | .recoveryHoldExpiry => Sys2Proof.Machine.execRecoveryHoldExpiry s
  | .digitalPinChange k p l => Sys2Proof.Machine.execDigitalPinChange k p l s
  | .debounceExpiry k p => Sys2Proof.Machine.execDebounceExpiry k p s
  | .counterPinAChange k l u => Sys2Proof.Machine.execCounterPinAChange k l u s
  | .counterPinBChange k l => Sys2Proof.Machine.execCounterPinBChange k l s
  | .sensorSupplyOverload k => Sys2Proof.Machine.execSensorSupplyOverload k s
  | .intervalExpiry k => Sys2Proof.Machine.execIntervalExpiry k s
  | .smartCharacterReceived k c f => Sys2Proof.Machine.execSmartCharacterReceived k c f s
  | .pauseExpiry k => Sys2Proof.Machine.execPauseExpiry k s
  | .announceLimitExpiry k => Sys2Proof.Machine.execAnnounceLimitExpiry k s
  | .switchDelayExpiry k => Sys2Proof.Machine.execSwitchDelayExpiry k s
  | .nudgeTimerExpiry k => Sys2Proof.Machine.execNudgeTimerExpiry k s
  | .lossTimerExpiry k => Sys2Proof.Machine.execLossTimerExpiry k s
  | .smartRecordSent k => Sys2Proof.Machine.execSmartRecordSent k s
  | .outputSampleEvent => Sys2Proof.Machine.execOutputSampleEvent s
  | .uptimeTick => Sys2Proof.Machine.execUptimeTick s

end Sys2Proof.Machine
end

