-- ==== Sys2Proof/Safety.lean ====
section
/-! DEFINITION. What a sound state and a safe run are, in the terms the statements use: nothing left to do at once, the
ranges and fill limits the rules give, a request that will be taken as it arrives, and what one regulation event (`RunsOn`)
and one output sample event (`Plays`) are. -/

namespace Sys2Proof.Machine

/-! ### Nothing left to do at once (R133, R136, R42, R43) -/

/-- A line's arbiter has a frame that it may begin (R136, R148). -/
def State.canBegin (s : State) (l : LineId) : Bool := s.mayBegin l && (s.choice l).isSome

/-- No request may be taken and no frame may be begun (R133, R136). -/
def State.linesQuiet (s : State) : Bool :=
  !s.mayTake .host && !s.mayTake .tablet && !s.canBegin .host && !s.canBegin .tablet

/-- The converter converts, or nothing is due (R43). -/
def Converter.isQuiet (c : Converter) : Bool := c.inFlight.isSome || c.next.isNone

/-- Nothing is left that happens at once: no request to take, no frame to begin, no conversion to begin. -/
def State.isQuiet (s : State) : Bool := s.linesQuiet && s.conv.isQuiet

/-! ### A request that is taken as it arrives (R132, R133) -/

/-- A request that arrives on line `l` now is taken at once: no reset holds, no soft reset is pending, the line's request
FIFO is empty, its reply queue has room, and nothing else is left to do first. -/
def State.ready (s : State) (l : LineId) : Bool :=
  s.isQuiet && !s.inReset && s.softReset.isNone && (s.lineAt l).fifo.isEmpty && (s.lineAt l).replies.length < 4

/-- What the arrival of a valid frame does besides entering the request FIFO: on the host line it acts on the host watch
(R140), on the tablet line on the link state and the quiet timer (R145), with K40_READY evaluated (R147). -/
def State.arrived (s : State) : LineId → State
  | .host => s.watchFrame
  | .tablet => s.linkFrame.evalReady

/-- A line's request FIFO with these frames in it. On the tablet line K40_READY is evaluated with each change (R147). -/
def State.withFifo (s : State) (l : LineId) (fifo : List (List Byte)) : State :=
  match l with
  | .host => { s with host := { s.host with fifo := fifo } }
  | .tablet => { s with
      tablet := { s.tablet with fifo := fifo }
      link := { s.link with
        k40Ready :=
          if 3 ≤ fifo.length ∨ 768 ≤ payloadBytes s.link.relay ∨ 7 ≤ s.link.relay.length then false
          else if fifo.length ≤ 1 ∧ payloadBytes s.link.relay < 512 ∧ s.link.relay.length ≤ 5 then true
          else s.link.k40Ready } }

/-- A reply to request `r` with tag `tag` appended to a line's reply queue (R133, R134). -/
def State.replied (s : State) (l : LineId) (tag : Byte) (r : Request) (status : Status) (data : List Byte) : State :=
  s.addReply l ([r.kind + 0x80, tag] ++ u8 status.code ++ data)

/-! ### What the rules keep true of every block -/

/-- A configuration's fields lie in R1's ranges. -/
def PortConfig.inRanges (c : PortConfig) : Bool :=
  100 ≤ c.maxSpeed && c.maxSpeed ≤ 2000 && 100 ≤ c.accel && c.accel ≤ 20000 && c.kp ≤ 2047 && c.ki ≤ 255 &&
    c.kf ≤ 1023 && c.dutyLimit ≤ 1000 && 100 ≤ c.stallDuty && c.stallDuty ≤ 1000 && c.stallSpeed ≤ 500 &&
    20 ≤ c.stallTime && c.stallTime ≤ 2000 && c.tolerance ≤ 50 && 20 ≤ c.holdSpeed && c.holdSpeed ≤ 500

/-- R1: the configuration in force and the pending one lie in their ranges. -/
def Port.configsInRanges (p : Port) : Bool :=
  p.config.inRanges && (match p.pendingConfig with | some c => c.inRanges | none => true)

/-- R5, R18, R24: the queue holds at most 8 records and the outcome list at most 4, and the counts stay in their widths. -/
def Port.fillsInLimits (p : Port) : Bool :=
  p.queue.length ≤ 8 && p.outcomes.length ≤ 4 && p.dropped ≤ 255 && p.discarded ≤ 255 && p.encErrors ≤ 65535 &&
    p.rawCount.natAbs ≤ 32767

/-- R25, R34, R37: position and integral stay in their ranges, and the applied duty within the drive ceiling. -/
def Port.valuesInRanges (p : Port) : Bool :=
  p.position.natAbs ≤ 2147483647 && p.integral.natAbs ≤ 256000 && p.duty.natAbs ≤ p.ceiling

/-- No regulator runs: v_p, I and the applied duty are 0. -/
def Port.isStill (p : Port) : Bool := p.vp == 0 && p.integral == 0 && p.duty == 0

/-- R7's table and R8: in FREE, BRAKED, STALLED and SHUTDOWN, in GROUP_WAIT over such a rest, and under a COAST or BRAKE
REST move, nothing is driven; a port in GROUP_WAIT has a head with a group; a SHUTDOWN port has no waiting record; and a
marked head is there (R11). -/
def Port.stateFits (p : Port) : Bool :=
  (match p.act with
    | .rest .holding => true
    | .rest _ => p.isStill
    | .groupWait .holding => p.headGroup != 0
    | .groupWait _ => p.isStill && p.headGroup != 0
    | .running r => match r.move.motion with
      | .rest .hold _ => true
      | .rest _ _ => p.isStill
      | _ => true
    | .shutdown => p.isStill && p.queue.isEmpty) &&
  (!p.replacing || !p.queue.isEmpty)

/-- R2: every move record waiting on the port or running on it has the port's owner as its issuer. -/
def Port.issuersFit (p : Port) : Bool :=
  (p.queue.all fun mv => mv.issuer == p.owner) &&
    (match p.act with | .running r => r.move.issuer == p.owner | _ => true)

/-- R46, R49, R50: thresholds in their order, those in use too, S as its supply state has it, F in its range; the recovery hold runs only in
RECOVERY (R48). -/
def Supply.fits (u : Supply) : Bool :=
  u.vCritical < u.vRestore && u.vRestore ≤ u.vLow && u.criticalInUse < u.lowInUse && 200 ≤ u.foldback && u.foldback ≤ 1000 &&
    (match u.mode with
      | .normal => u.scale == 1000
      | .low => 500 ≤ u.scale && u.scale ≤ 1000
      | .pending | .critical | .recovery => u.scale == 0) &&
    (u.hold.isNone || u.mode == .recovery)

/-- R37, R51: every stored ceiling is the product P under its own limit. -/
def State.ceilingsFit (s : State) : Bool :=
  (Idx6.all.all fun m => (s.port m).ceiling == min (s.port m).config.dutyLimit s.supply.product) &&
    s.sound.ceiling == s.supply.product

/-- R52, R54: in CRITICAL and RECOVERY every port is in SHUTDOWN, and in no other supply state any port. -/
def State.shutdownFits (s : State) : Bool := Idx6.all.all fun m => (s.port m).isShutdown == s.powerHeld

/-- R108 to R127: the sound engine's fills, counts and settings. -/
def Sound.fits (e : Sound) : Bool :=
  e.queue.length ≤ 4 && e.ring.length ≤ 4096 && e.marks.length ≤ 4 && (e.marks.all fun d => d ≤ e.ring.length) &&
    e.volume ≤ 100 && 256 ≤ e.threshold && e.threshold ≤ 3840 && e.gain == Sound.gainOf e.volume e.ceiling &&
    e.outcomes.length ≤ 4 && e.dropped ≤ 255 && e.discarded ≤ 255 && e.underruns ≤ 65535

/-- R108: every clip record waiting or playing has the sound owner as its issuer. -/
def Sound.issuersFit (e : Sound) : Bool :=
  (e.queue.all fun c => c.issuer == e.owner) && (e.player.clip.all fun p => p.issuer == e.owner)

/-- R52, R53: while the supply state is CRITICAL or RECOVERY the sound engine is IDLE, with nothing waiting and nothing in its
ring. -/
def State.soundHeldFits (s : State) : Bool :=
  !s.powerHeld || (s.sound.player == .idle && s.sound.queue.isEmpty && s.sound.ring.isEmpty && s.sound.marks.isEmpty)

/-- R78, R80, R83 to R88, R93, R96: a controller's fills and counts, the line states in which its announce limit and its
switch delay run, and a complete profile, with the selected mode in it, where the line state has one; a stopped controller is in LISTEN at 2400 bit/s with nothing held. -/
def Smart.fits (c : Smart) : Bool :=
  c.rxFifo.length ≤ 64 && c.cmdUsed ≤ 32 && c.errors ≤ 65535 &&
    (match c.profile with | some p => 1 ≤ p.modeCount && p.modes.all fun m => m.count ≤ 4 | none => true) &&
    (match c.lineState with
      | .listen | .announcing => true
      | .accepting => c.profile.any Profile.isWhole
      | .starting | .streaming | .switching =>
        c.profile.any fun p => p.isWhole && c.selected.any fun k => k < p.modeCount) &&
    (c.announceTimer.isNone || c.lineState == .announcing) && (c.switchTimer.isNone || c.lineState == .accepting) &&
    (c.running || (c.lineState == .listen && c.rate == 2400 && c.profile.isNone && c.tx.isNone && c.slot.isNone &&
      c.cmdFifo.isEmpty && c.announceTimer.isNone && c.switchTimer.isNone && c.lossTimer.isNone && c.nudgeTimer.isNone))

/-- R72: a held port's debounce timers stand still. -/
def SensorWork.isHalted : SensorWork → Bool
  | .digital a b => a.timer.isNone && b.timer.isNone
  | .off | .analog _ | .counter _ | .smart => true

/-- R59, R60, R72, R83: the record names the port's mode and is FRESH only outside OFF and, on a SMART port, only while the
line is STREAMING; a controller runs exactly on a SMART port that is not held; the
supply of a port is on exactly in the modes that need it, unless the port is held. -/
def SensorPort.fits (p : SensorPort) : Bool :=
  p.record.mode == p.mode && p.record.count ≤ 4 && p.smart.fits &&
    (p.record.status != .fresh || (p.mode != .off && (p.mode != .smart || p.smart.lineState == .streaming))) &&
    p.smart.running == (p.mode == .smart && !p.isHeld) && p.supplyOn == (p.mode != .off && !p.isHeld) &&
    (!p.isHeld || p.work.isHalted)

/-- R42, R44, R62, R63, R72: a sensor port's channel is due, or in flight with a result to hand on, only while the port is
in ANALOG mode and not held. -/
def State.channelFits (s : State) (i : Idx6) : Bool :=
  ((s.sensorAt i).mode == .analog && !(s.sensorAt i).isHeld) ||
    (!s.conv.due.sensor.get i && (match s.conv.inFlight with | some f => f.channel != .sensor i || f.dropped | none => true))

/-- What the rules keep true of a sensor port and its channel. -/
def State.sensorFits (s : State) (i : Idx6) : Bool := (s.sensorAt i).fits && s.channelFits i

/-- R132, R133, R146: the request FIFOs hold at most 4 frames, the reply queues at most 4 replies, and the tablet's 5 only
after LINK_RESET has cut a reply off. -/
def State.linesFit (s : State) : Bool :=
  s.host.fifo.length ≤ 4 && s.host.replies.length ≤ 4 && s.tablet.fifo.length ≤ 4 &&
    s.tablet.replies.length ≤ (if s.tablet.tx.isSome then 4 else 5)

/-- R138, R145 to R156: the payload queues' limits, the counts' widths, and a quiet timer that runs only in UP. -/
def State.linkFits (s : State) : Bool :=
  s.link.relay.length ≤ 8 && payloadBytes s.link.relay ≤ 1024 && s.link.transmit.length ≤ 8 &&
    payloadBytes s.link.transmit ≤ 1024 && s.link.overflows ≤ 65535 && s.link.checkErrors ≤ 65535 &&
    s.link.strikes ≤ 255 && s.hostUnit.checkErrors ≤ 65535 && s.hostUnit.overruns ≤ 65535 &&
    (s.link.quietTimer.isNone || (s.link.state == .up && 1 ≤ s.link.quietSteps))

/-- R160, R161: every raise count lies within 0..255. -/
def State.attnFits (s : State) : Bool := Source.all.all fun src => s.attn.count src ≤ 255

/-- R147: K40_READY is deasserted at the fills that deassert it. -/
def State.k40ReadyFits (s : State) : Bool := !s.readyDrops || !s.link.k40Ready

/-! ### Words the statements share -/

/-- A command that comes now finds nothing else to do first, and no reset holds. -/
def State.calm (s : State) : Bool := s.isQuiet && !s.inReset

/-- What a port is after a stopping event with outcome `x` that puts it into `rest` (R16, R17, R18, R52): the running move, if
there is one, has its outcome record with the port's position and this uptime, and every waiting record is counted. -/
def Port.stoppedBy (p : Port) (x : OutcomeCode) (rest : Activity) (uptime : Word) : Port :=
  { p with
    act := rest
    vp := 0
    integral := 0
    duty := 0
    stallTimer := 0
    queue := []
    replacing := false
    discarded := min 255 (p.discarded + p.queue.length)
    outcomes := match p.act with
      | .running r =>
        (if p.outcomes.length < 4 then p.outcomes else p.outcomes.tail) ++
          [⟨r.move.tag, r.move.issuer, x, p.position, uptime⟩]
      | _ => p.outcomes
    dropped := match p.act with
      | .running _ => if p.outcomes.length < 4 then p.dropped else min 255 (p.dropped + 1)
      | _ => p.dropped }

/-- What a stopping event makes of a port that it does not take out of SHUTDOWN (R16, R17): in SHUTDOWN only the queue is
discarded, in every other state the port stops. -/
def Port.stopInto (p : Port) (x : OutcomeCode) (rest : Activity) (uptime : Word) : Port :=
  if p.isShutdown then
    { p with queue := [], replacing := false, discarded := min 255 (p.discarded + p.queue.length) }
  else p.stoppedBy x rest uptime

/-- What a fail stop makes of a port (R16): its fail action rest, or SHUTDOWN left as it is. -/
def Port.failStopped (p : Port) (x : OutcomeCode) (uptime : Word) : Port :=
  p.stopInto x (match p.config.failAction with | .coast => .rest .free | .brake => .rest .braked) uptime

/-- The state a port goes on in when it waits for its group no longer (R11, R13, R22). -/
def Activity.notWaiting : Activity → Activity
  | .groupWait r => .rest r
  | .running r => .running { r with ready := false }
  | .rest r => .rest r
  | .shutdown => .shutdown

/-- What a port is whose waiting head a broken group takes (R22): the head gone with an outcome record GROUP_BROKEN, and the
port waiting for its group no longer. -/
def Port.brokenHead (p : Port) (uptime : Word) : Port :=
  match p.queue with
  | [] => p
  | head :: rest =>
    { p with
      queue := rest
      replacing := false
      act := p.act.notWaiting
      outcomes := (if p.outcomes.length < 4 then p.outcomes else p.outcomes.tail) ++
        [⟨head.tag, head.issuer, .groupBroken, p.position, uptime⟩]
      dropped := if p.outcomes.length < 4 then p.dropped else min 255 (p.dropped + 1) }

/-- One event that discards the queues of the ports `who` breaks port q's group wait (R22): q is not one of them, q is ready
for its head's group, and a discarded head of that group's members is among them. -/
def State.losesHead (s : State) (who : Six Bool) (q : Idx6) : Bool :=
  !who.get q && s.readyFor (s.port q).headGroup q &&
    Idx6.all.any fun m => who.get m && (s.port m).headGroup == (s.port q).headGroup &&
      s.isMember (s.port q).headGroup m

/-- `t` is `a` after one event that makes of each port in `who` what `f` says, discarding its queue, and breaks the group
waits that this breaks (R13, R16, R17, R22). `ends` says that it ends running moves. Each port on which a record was made or
the discard count changed has its MOTOR attention raised once (R18, R161). Nothing else changes. -/
structure StopsPorts (a t : State) (who : Six Bool) (f : Port → Port) (ends : Bool) : Prop where
  ports : ∀ m, t.port m =
    if who.get m then f (a.port m)
    else if a.losesHead who m then (a.port m).brokenHead a.uptime else a.port m
  raised : ∀ m, t.attn.count (.motor m) =
    if (who.get m && ((ends && (a.port m).isRunning) || (f (a.port m)).discarded != (a.port m).discarded)) ||
        a.losesHead who m then min 255 (a.attn.count (.motor m) + 1)
    else a.attn.count (.motor m)
  rest : t = { a with motor := t.motor, attn := { a.attn with motor := t.attn.motor } }

/-! ### Records as they are asked for -/

/-- A move record as R4 and R99 complete it, on a port whose max speed for the clamps is `maxSpeed`, for the line and the
read mask it came under. -/
structure MoveCompletes (l : LineId) (maxSpeed : Nat) (mask : Six Bool) (r : MoveRaw) (mv : Move) : Prop where
  motion :
    (r.kind = 0 ∧ mv.motion = .speed (max (-maxSpeed) (min maxSpeed r.speed.toInt))) ∨
    (r.kind = 1 ∧ mv.motion =
      .timed (max (-maxSpeed) (min maxSpeed r.speed.toInt)) (max 1 (min 600000 r.duration.toNat))) ∨
    (r.kind = 2 ∧ r.target.toInt ≠ -2147483648 ∧
      mv.motion = .position (max 1 (min maxSpeed r.speed.toInt.natAbs)) r.target.toInt) ∨
    (r.kind = 3 ∧ mv.motion = .relative (max 1 (min maxSpeed r.speed.toInt.natAbs)) r.target.toInt) ∨
    (r.kind = 4 ∧ ∃ style, stopStyleOf r.restStyle = some style ∧
      mv.motion = .rest style (if r.duration = 0 then 0 else max 1 (min 600000 r.duration.toNat)))
  endAction : stopStyleOf r.endAction = some mv.endAction
  group : mv.group = r.group.toNat
  guard :
    (r.guardPresent = 0 ∧ mv.guard = none) ∨
    (r.guardPresent = 1 ∧ ∃ g, mv.guard = some g ∧ sensorOf r.guardPort = some g.sensor ∧
      g.index = r.guardIndex.toNat ∧ g.index ≤ 3 ∧ comparisonOf r.guardComparison = some g.comparison ∧
      g.threshold = r.guardThreshold.toInt ∧ flagOf r.guardStrict = some g.strict ∧
      (l = .host ∨ mask.get g.sensor = true))
  tag : mv.tag = r.tag
  issuer : mv.issuer = match l with | .host => .brick | .tablet => .remote

/-- No clamp of R4 changed a value of the record. -/
def Move.asAsked (mv : Move) (r : MoveRaw) : Bool :=
  match mv.motion with
  | .speed v => v == r.speed.toInt
  | .timed v d => v == r.speed.toInt && d == r.duration.toNat
  | .position v _ => v == r.speed.toInt.natAbs
  | .relative v _ => v == r.speed.toInt.natAbs
  | .rest _ d => d == r.duration.toNat

/-! ### One regulation event in figures -/

/-- A port after the configuration, encoder and measured-speed steps of its regulation event (R1, R25, R26, R37), `product`
being the ceiling product P (R51). -/
def Port.atEvent (p : Port) (product : Nat) : Port :=
  let c := match p.pendingConfig with | some c => c | none => p.config
  let ceiling : Nat := if p.pendingConfig.isSome then min c.dutyLimit product else p.ceiling
  let x := max (-2147483647) (min 2147483647
    (p.position + (if c.encoderPolarity = .normal then p.rawCount else -p.rawCount)))
  { p with
    config := c
    pendingConfig := none
    ceiling := ceiling
    duty := if p.pendingConfig.isSome then max (-(ceiling : Int)) (min ceiling p.duty) else p.duty
    position := x
    rawCount := 0
    vm := (x - p.history.h7) * 25
    history := ⟨x, p.history.h0, p.history.h1, p.history.h2, p.history.h3, p.history.h4, p.history.h5, p.history.h6⟩ }

/-- A port after a profile step with this target speed and the regulator step that follows it (R27, R34, R35, R36), its
phase apart. -/
def Port.driven (p : Port) (target : Int) : Port :=
  let step : Int := max 1 (p.config.accel / 200 : Nat)
  let vp := if target - step ≤ p.vp ∧ p.vp ≤ target + step then target
    else if p.vp < target then p.vp + step else p.vp - step
  let e := max (-4000) (min 4000 (vp - p.vm))
  let candidate := max (-256000) (min 256000 (p.integral + p.config.ki * e))
  let u := (p.config.kf * vp + p.config.kp * e + candidate).tdiv 256
  let c : Int := p.ceiling
  let out := max (-c) (min c u)
  { p with
    vp := vp
    integral := if (c < u ∧ 0 < e) ∨ (u < -c ∧ e < 0) then p.integral else candidate
    duty := if p.config.motorPolarity = .normal then out else -out }

/-- R39's condition on a port, after its regulator step. -/
def Port.strains (p : Port) : Bool :=
  50 ≤ p.ceiling && min p.config.stallDuty p.ceiling ≤ p.duty.natAbs && p.vm.natAbs < p.config.stallSpeed

/-- A port on which move `mv` has ended with outcome `x` and nothing starts (R15, R18). -/
def Port.endedBy (p : Port) (mv : Move) (x : OutcomeCode) (uptime : Word) : Port :=
  let q : Port := { p with
    stallTimer := 0
    outcomes := (if p.outcomes.length < 4 then p.outcomes else p.outcomes.tail) ++
      [⟨mv.tag, mv.issuer, x, p.position, uptime⟩]
    dropped := if p.outcomes.length < 4 then p.dropped else min 255 (p.dropped + 1) }
  match mv.endAction with
  | .coast => { q with act := .rest .free, vp := 0, integral := 0, duty := 0 }
  | .brake => { q with act := .rest .braked, vp := 0, integral := 0, duty := 0 }
  | .hold => { q with act := .rest .holding, holdTarget := p.position }

/-! ### The rest of a regulation event, from its start decision on -/

/-- An outcome record appended to a port's list, with the port's position (R18). -/
def Port.recorded (p : Port) (mv : Move) (x : OutcomeCode) (uptime : Word) : Port :=
  { p with
    outcomes := (if p.outcomes.length < 4 then p.outcomes else p.outcomes.tail) ++
      [⟨mv.tag, mv.issuer, x, p.position, uptime⟩]
    dropped := if p.outcomes.length < 4 then p.dropped else min 255 (p.dropped + 1) }

/-- The target speed of hold regulation (R29). -/
def Port.holdPull (p : Port) : Int :=
  max (-(p.config.holdSpeed : Int)) (min p.config.holdSpeed (10 * (p.holdTarget - p.position)))

/-- A port after its stall step, a stall apart (R39). -/
def Port.strained (p : Port) : Port := { p with stallTimer := if p.strains then p.stallTimer + 5 else 0 }

/-- The rest that the end of a move puts a port into where nothing starts: its end action's, with GROUP_WAIT over it where a
group head waits (R10, R15, R20). -/
def Port.restsAfter (p : Port) (e : StopStyle) : Port :=
  let into (x : Rest) : Activity := match p.queue with | [] => .rest x | _ :: _ => .groupWait x
  match e with
  | .coast => { p with act := into .free, stallTimer := 0, vp := 0, integral := 0, duty := 0 }
  | .brake => { p with act := into .braked, stallTimer := 0, vp := 0, integral := 0, duty := 0 }
  | .hold => { p with act := into .holding, stallTimer := 0, holdTarget := p.position }

/-- A port whose queue head has become its running move (R4, R8, R9), following a running move at the same event or from a rest. -/
def Port.begun (p : Port) (following : Bool) : Port :=
  match p.queue with
  | [] => p
  | head :: rest =>
    let running (phase : Phase) (target : Option Int) : Port := { p with
      act := .running ⟨head, phase, 0, false, target, none⟩
      queue := rest
      replacing := false
      stallTimer := 0
      vp := if following then p.vp else 0
      integral := if following then p.integral else 0 }
    match head.motion with
    | .speed _ => running .ramp none
    | .timed _ _ => running .ramp none
    | .position _ x => running .ramp (some x)
    | .relative _ n => running .ramp (some (max (-2147483647) (min 2147483647 (p.position + n))))
    | .rest .hold _ => { running .cruise none with holdTarget := p.position }
    | .rest _ _ => { running .cruise none with vp := 0, integral := 0, duty := 0 }

/-- Step 1 of the start decision (R9): every record at the front of the queue whose group does not include the port is
discarded with an outcome record GROUP_BROKEN, each of which raises MOTOR (R18). -/
def State.lessForeign (s : State) (m : Idx6) : State :=
  let foreign := (s.port m).queue.takeWhile fun mv => mv.group != 0 && !s.isMember mv.group m
  (fun t : State => (t.modPort m fun p => p.brokenHead s.uptime).raise (.motor m))^[foreign.length] s

/-- The state in which the start decision of a regulation event looks at the queue head (R9, R23). -/
def State.atDecision (s : State) (m : Idx6) : State :=
  (s.modPort m fun p => p.atEvent s.supply.product).lessForeign m

/-- A member other than port `m` is not ready for the group (R20, R21). -/
def State.groupLacks (s : State) (g : Nat) (m : Idx6) : Bool :=
  Idx6.all.any fun q => q != m && s.isMember g q && !s.readyFor g q

/-- What a port is in after a start decision that starts nothing (R9 steps 5 and 6, R20): as it was, or marked as ready for its head's
group. None where the head starts. -/
def State.standing (s : State) (m : Idx6) : Option Activity :=
  let p := s.port m
  match p.queue with
  | [] => some p.act
  | head :: _ =>
    let waits := !p.replacing && head.group != 0 && s.groupLacks head.group m
    match p.act with
    | .rest x => if waits then some (.groupWait x) else none
    | .groupWait x => if waits then some (.groupWait x) else none
    | .running r =>
      if p.replacing then none
      else if !r.move.yields then some (.running r)
      else if waits then some (.running { r with ready := true }) else none
    | .shutdown => none

/-- A group start found by port `m` (R21): on every member the group head becomes the running move, following the move that the
member ran, which ends DONE with a record and a raise. `ended` says that m's own move has ended already (R10). -/
def State.groupStarted (s : State) (m : Idx6) (g : Nat) (ended : Bool) : State :=
  let ends (q : Idx6) : Bool := s.isMember g q && (s.port q).isRunning && !(ended && q == m)
  { s with
    motor := Six.ofFn fun q =>
      let p := s.port q
      if s.isMember g q then
        (match p.act with
          | .running r => if ends q then p.recorded r.move .done s.uptime else p
          | _ => p).begun p.isRunning
      else p
    attn := { s.attn with
      motor := Six.ofFn fun q =>
        if ends q then min 255 (s.attn.motor.get q + 1) else s.attn.motor.get q } }

/-- The state in which a port's move has ended with outcome `x`, its record made, before the start decision looks at the next
head (R10, R18). -/
def State.moveEnded (s : State) (m : Idx6) (mv : Move) (x : OutcomeCode) : State :=
  ((s.modPort m fun p => p.recorded mv x s.uptime).raise (.motor m)).lessForeign m

/-- The next record started, following the move that has ended (R10); none where nothing starts. -/
def State.followed (s : State) (m : Idx6) : Option State :=
  match (s.port m).queue with
  | [] => none
  | head :: _ =>
    if head.group = 0 then some (s.modPort m fun p => p.begun true)
    else if s.groupLacks head.group m then none
    else some (s.groupStarted m head.group true)

/-- A port's move ends with outcome `x` after the profile step (R10): the next record starts, or the end action applies. -/
def State.endsNow (s : State) (m : Idx6) (mv : Move) (x : OutcomeCode) : State :=
  match (s.moveEnded m mv x).followed m with
  | some t => t
  | none => (s.moveEnded m mv x).modPort m fun p => p.restsAfter mv.endAction

/-- The distance that a POSITION or RELATIVE move has still to go (R30). -/
def Running.remaining (r : Running) (p : Port) : Int :=
  match r.target with
  | some x => x - p.position
  | none => 0

/-- A POSITION or RELATIVE move within the position tolerance (R30). -/
def Running.arrives (r : Running) (p : Port) : Bool :=
  match r.move.motion with
  | .position _ _ => (r.remaining p).natAbs ≤ p.config.tolerance
  | .relative _ _ => (r.remaining p).natAbs ≤ p.config.tolerance
  | .speed _ => false
  | .timed _ _ => false
  | .rest _ _ => false

/-- A port after the profile and regulator steps of the move it runs, which does not arrive (R8, R28 to R32, R38). -/
def Port.ranOn (p : Port) (r : Running) : Port :=
  let toward (target : Int) (there onTheWay : Phase) : Port :=
    let q := p.driven target
    { q with act := .running { r with phase := if q.vp = target then there else onTheWay } }
  let atSpeed (v : Int) : Port := toward (max (-(p.config.maxSpeed : Int)) (min p.config.maxSpeed v)) .cruise .ramp
  let toTarget (speed : Nat) : Port :=
    let d := r.remaining p
    let top : Int := min speed p.config.maxSpeed
    let way : Int := if 0 < d then 1 else -1
    let braking := (p.vp.natAbs ^ 2 + 2 * p.config.accel - 1) / (2 * p.config.accel)
    if r.phase = .braking ∨ r.phase = .approach ∨ d.natAbs ≤ braking + p.vp.natAbs / 200 then
      toward (way * min 50 top) .approach .braking
    else toward (way * top) .cruise .ramp
  match r.move.motion with
  | .speed v => atSpeed v
  | .timed v _ => atSpeed v
  | .position v _ => toTarget v
  | .relative v _ => toTarget v
  | .rest .hold _ => { p.driven p.holdPull with act := .running r }
  | .rest _ _ => { p with act := .running r }

/-- A guard's reading is usable (R101). -/
def Guard.reads (g : Guard) (x : Reading) : Bool := x.status == .fresh && g.index < x.count

/-- A guard's comparison on a usable reading (R103 to R105), with what it saw at its last usable evaluation. -/
def Guard.met (g : Guard) (seen : Option (Int × Half)) (x : Reading) : Bool :=
  let value := x.values.at g.index
  match g.comparison, seen with
  | .atLeast, _ => g.threshold ≤ value
  | .atMost, _ => value ≤ g.threshold
  | .crossUp, some (v, _) => v < g.threshold && g.threshold ≤ value
  | .crossDown, some (v, _) => g.threshold < v && value ≤ g.threshold
  | .changed, some (v, q) => q != x.sequence && v != value
  | _, none => false

/-- The outcome with which a running move's guard ends it at the guard step (R101, R102), none where it does not. -/
def State.guardEnd (s : State) (r : Running) : Option OutcomeCode :=
  match r.move.guard with
  | none => none
  | some g =>
    let x := (s.sensorAt g.sensor).record
    if g.reads x then (if g.met r.prev x then some .guard else none) else if g.strict then some .guardLost else none

/-- A running move after a guard step and a timed step that do not end it (R41, R101 to R105): what a usable reading showed is kept, and
5 ms have passed, unless the move started at this event. -/
def State.wentOn (s : State) (r : Running) (started : Bool) : Running :=
  { r with
    elapsed := if started then r.elapsed else min 4294967295 (r.elapsed + 5)
    prev := match r.move.guard with
      | none => r.prev
      | some g =>
        let x := (s.sensorAt g.sensor).record
        if g.reads x then some (x.values.at g.index, x.sequence) else r.prev }

/-- The duration of a TIMED move, or of a REST that has one, has elapsed (R41). -/
def Running.isOver (r : Running) : Bool :=
  match r.move.motion with
  | .timed _ d => d ≤ r.elapsed
  | .rest _ d => d ≠ 0 && d ≤ r.elapsed
  | .speed _ => false
  | .position _ _ => false
  | .relative _ _ => false

/-- R23, R27 to R41, R101 to R106: `RunsOn m started s t` says that `t` is what the profile step and the steps after it make of `s`, in
which port `m` runs a move. `started` says that the move started at this event. For every such `s` one constructor applies. -/
inductive RunsOn (m : Idx6) : Bool → State → State → Prop
  /-- A POSITION or RELATIVE move arrives and nothing starts (R30, R33): its end action applies, and a HOLD regulates at once. -/
  | arrivesLast {started : Bool} {s : State} {r : Running} :
      (s.port m).act = .running r → r.arrives (s.port m) = true → (s.moveEnded m r.move .done).followed m = none →
      RunsOn m started s ((s.moveEnded m r.move .done).modPort m fun p =>
        if r.move.endAction = .hold then (p.restsAfter .hold).driven 0 else p.restsAfter r.move.endAction)
  /-- A POSITION or RELATIVE move arrives and the next record starts: the event goes on with that move (R33). -/
  | arrivesNext {started : Bool} {s u t : State} {r : Running} :
      (s.port m).act = .running r → r.arrives (s.port m) = true → (s.moveEnded m r.move .done).followed m = some u →
      RunsOn m true u t → RunsOn m started s t
  /-- The guard ends the move at the guard step, and the later steps are passed over (R23, R106). -/
  | guardEnds {started : Bool} {s : State} {r : Running} {x : OutcomeCode} :
      (s.port m).act = .running r → r.arrives (s.port m) = false → s.guardEnd r = some x →
      RunsOn m started s ((s.modPort m fun p => p.ranOn r).endsNow m r.move x)
  /-- The stall step stops the port: its queue is discarded, which may break group waits (R16, R22, R40). -/
  | stalls {started : Bool} {s t : State} {r : Running} :
      (s.port m).act = .running r → r.arrives (s.port m) = false → s.guardEnd r = none →
      (s.port m).config.stallTime ≤ ((s.port m).ranOn r).strained.stallTimer →
      StopsPorts (s.modPort m fun p => (p.ranOn r).strained) t ((Six.all false).set m true)
        (fun p => p.stoppedBy .stalled (.rest .stalled) s.uptime) true →
      RunsOn m started s t
  /-- The timed step ends the move, which did not start at this event (R41). -/
  | timesOut {s : State} {r : Running} :
      (s.port m).act = .running r → r.arrives (s.port m) = false → s.guardEnd r = none →
      ((s.port m).ranOn r).strained.stallTimer < (s.port m).config.stallTime → (s.wentOn r false).isOver = true →
      RunsOn m false s ((s.modPort m fun p => (p.ranOn (s.wentOn r false)).strained).endsNow m r.move .done)
  /-- The move goes on. -/
  | goesOn {started : Bool} {s : State} {r : Running} :
      (s.port m).act = .running r → r.arrives (s.port m) = false → s.guardEnd r = none →
      ((s.port m).ranOn r).strained.stallTimer < (s.port m).config.stallTime →
      (started = true ∨ (s.wentOn r started).isOver = false) →
      RunsOn m started s (s.modPort m fun p => (p.ranOn (s.wentOn r started)).strained)

/-! ### One output sample event -/

/-- The player put into another state. -/
def State.withPlayer (s : State) (p : Player) : State := { s with sound := { s.sound with player := p } }

/-- One raise of SOUND (R161). -/
def State.soundRaised (s : State) : State :=
  { s with attn := { s.attn with sound := min 255 (s.attn.sound + 1) } }

/-- The sample that a tone generator's phase gives (R113). -/
def ToneGen.wave (g : ToneGen) : Int :=
  if g.waveform = .square then (if g.phase.toNat < 2147483648 then 20000 else -20000)
  else sineEntry (g.phase.toNat / 16777216)

/-- A tone generator after one output sample (R113). -/
def ToneGen.on (g : ToneGen) : ToneGen := { g with phase := g.phase + g.step, remaining := g.remaining - 1 }

/-- The bytes of one stream sample (R117). -/
def StreamCtx.width (c : StreamCtx) : Nat := if c.format = .linear16 then 2 else 1

/-- The stream sample at the read point (R117, R121). -/
def StreamCtx.read (c : StreamCtx) (ring : List Byte) : Int :=
  let b := rd8 ring 0
  let t := b.toNat % 16
  let segment := b.toNat / 16 % 8
  let magnitude : Nat := if segment = 0 then 2 * t else (32 + 2 * t) * 2 ^ (segment - 1)
  match c.format with
  | .linear8 => ((b.toNat : Int) - 128) * 256
  | .linear16 => (rd16 ring 0).toInt
  | .companded8 => if b.toNat < 128 then (magnitude * 8 : Nat) else -(magnitude * 8 : Nat)

/-- `n` bytes consumed from the ring (R115): every mark's depth falls, and a fill that comes from above the refill threshold to it or
below it sets REFILL, a raise (R120). -/
def State.ringConsumed (s : State) (n : Nat) : State :=
  let e := s.sound
  let u : State := { s with sound := { e with ring := e.ring.drop n, marks := e.marks.map fun d => d - n } }
  if e.threshold < e.ring.length ∧ e.ring.length - n ≤ e.threshold then
    ({ u with sound := { u.sound with refill := true } } : State).soundRaised
  else u

/-- A clip's fetch ends it (R118 tests 1 to 3). -/
def Sound.endsAtFetch (e : Sound) (c : StreamCtx) : Bool :=
  c.samples == some c.consumed || e.marks.head? == some 0 || (c.format == .linear16 && e.marks.head? == some 1)

/-- What that fetch does to the ring and its marks (R118): a mark at the read point goes; an odd byte before a mark is discarded
with it, unless the sample count ended the clip. -/
def State.fetchEnds (s : State) (c : StreamCtx) : State :=
  if s.sound.marks.head? = some 0 then { s with sound := { s.sound with marks := s.sound.marks.tail } }
  else if c.samples = some c.consumed then s
  else
    let u := s.ringConsumed 1
    { u with sound := { u.sound with marks := u.sound.marks.tail } }

/-- The playing clip ended DONE (R114, R127): its outcome record is made, which raises SOUND, and the player is IDLE. -/
def State.clipEnds (s : State) (p : Playing) : State :=
  let e := s.sound
  let u : State := { s with sound := { e with
    player := .idle
    outcomes := (if e.outcomes.length < 4 then e.outcomes else e.outcomes.tail) ++ [⟨p.tag, p.issuer, .done, s.uptime⟩]
    dropped := if e.outcomes.length < 4 then e.dropped else min 255 (e.dropped + 1) } }
  u.soundRaised

/-- The head of the clip queue started (R111, R113, R117): a STREAM that starts with the fill at or below the refill threshold sets
REFILL, a raise. -/
def State.clipStarts (s : State) : State :=
  let e := s.sound
  match e.queue with
  | [] => s
  | c :: rest =>
    let u (x : PlayCtx) : State := { s with sound := { e with queue := rest, player := .playing ⟨c.tag, c.issuer, x⟩ } }
    match c.kind with
    | .tone f d w => u (.tone ⟨0, BitVec.ofNat 32 (f * 4294967296 / 32000), d * 32, w⟩)
    | .stream f rate n =>
      let v := u (.stream ⟨f, rate, n, 0, 0, 0, false⟩)
      if e.ring.length ≤ e.threshold then ({ v with sound := { v.sound with refill := true } } : State).soundRaised else v

/-- A STREAM clip that finds too few bytes (R119): it is starved, which counts an underrun and raises where it was not. -/
def State.clipStarves (s : State) (p : Playing) (c : StreamCtx) : State :=
  let n := if c.starved then s.sound.underruns else min 65535 (s.sound.underruns + 1)
  let u : State := { s with sound := { s.sound with
    player := .playing { p with ctx := .stream { c with starved := true } }
    underruns := n } }
  if n = s.sound.underruns then u else u.soundRaised

/-- A STREAM clip that fetches a sample (R117): it is held for 4 or 2 output samples, the first of them this one. -/
def State.clipTakes (s : State) (p : Playing) (c : StreamCtx) : State :=
  (s.ringConsumed c.width).withPlayer (.playing { p with ctx := .stream { c with
    current := c.read s.sound.ring
    hold := (if c.rate = 8000 then 4 else 2) - 1
    consumed := min 4294967295 (c.consumed + 1)
    starved := false } })

/-- What plays after an immediate tone: the clip suspended under it, as it was, or nothing (R124). -/
def Player.afterTone : Option Playing → Player
  | some p => .playing p
  | none => .idle

/-- R112 to R119, R124: `Plays s t x` says that an output sample event makes `t` of `s`, its gain and output apart, and forms the internal
sample `x`. Where a clip or an immediate tone ends, the event goes on with what plays next. For every `s` one constructor applies. -/
inductive Plays : State → State → Int → Prop
  /-- IDLE with nothing waiting. -/
  | silent {s : State} : s.sound.player = .idle → s.sound.queue = [] → Plays s s 0
  /-- IDLE with a clip waiting, as at the end of a clip or of an immediate tone: it starts at this event (R111, R114). -/
  | starts {s t : State} {x : Int} :
      s.sound.player = .idle → s.sound.queue ≠ [] → Plays s.clipStarts t x → Plays s t x
  /-- An immediate tone sounds. -/
  | sounds {s : State} {g : ToneGen} {w : Option Playing} :
      s.sound.player = .immediate g w → g.remaining ≠ 0 → Plays s (s.withPlayer (.immediate g.on w)) g.wave
  /-- An immediate tone ends: the suspended clip, if there is one, resumes with the context it kept (R124). -/
  | resumes {s t : State} {g : ToneGen} {w : Option Playing} {x : Int} :
      s.sound.player = .immediate g w → g.remaining = 0 →
      Plays (s.withPlayer (Player.afterTone w)) t x → Plays s t x
  /-- A TONE clip sounds. -/
  | tone {s : State} {p : Playing} {g : ToneGen} :
      s.sound.player = .playing p → p.ctx = .tone g → g.remaining ≠ 0 →
      Plays s (s.withPlayer (.playing { p with ctx := .tone g.on })) g.wave
  /-- A TONE clip ends (R113, R114). -/
  | toneEnds {s t : State} {p : Playing} {g : ToneGen} {x : Int} :
      s.sound.player = .playing p → p.ctx = .tone g → g.remaining = 0 → Plays (s.clipEnds p) t x → Plays s t x
  /-- A STREAM clip holds its sample (R117). -/
  | holds {s : State} {p : Playing} {c : StreamCtx} :
      s.sound.player = .playing p → p.ctx = .stream c → c.hold ≠ 0 →
      Plays s (s.withPlayer (.playing { p with ctx := .stream { c with hold := c.hold - 1 } })) c.current
  /-- A STREAM clip ends at its fetch (R118 tests 1 to 3). -/
  | streamEnds {s t : State} {p : Playing} {c : StreamCtx} {x : Int} :
      s.sound.player = .playing p → p.ctx = .stream c → c.hold = 0 → s.sound.endsAtFetch c = true →
      Plays ((s.fetchEnds c).clipEnds p) t x → Plays s t x
  /-- A STREAM clip starves, an underrun where it did not starve before (R119). -/
  | starves {s : State} {p : Playing} {c : StreamCtx} :
      s.sound.player = .playing p → p.ctx = .stream c → c.hold = 0 → s.sound.endsAtFetch c = false →
      s.sound.ring.length < c.width →
      Plays s (s.clipStarves p c) 0
  /-- A STREAM clip fetches a sample (R117). -/
  | takes {s : State} {p : Playing} {c : StreamCtx} :
      s.sound.player = .playing p → p.ctx = .stream c → c.hold = 0 → s.sound.endsAtFetch c = false →
      c.width ≤ s.sound.ring.length →
      Plays s (s.clipTakes p c) (c.read s.sound.ring)

/-- No port is ready for a group, so no discard breaks a group wait (R20, R22). -/
def State.noneReady (s : State) : Bool := Idx6.all.all fun m => !(s.port m).isReady

/-- The fields of a PORT_SETUP that ask for a configuration (R1, R169). -/
def PortConfig.raw (c : PortConfig) : PortConfigRaw where
  motorPolarity := BitVec.ofNat 8 c.motorPolarity.code
  encoderPolarity := BitVec.ofNat 8 c.encoderPolarity.code
  maxSpeed := BitVec.ofNat 16 c.maxSpeed
  accel := BitVec.ofNat 16 c.accel
  kp := BitVec.ofNat 16 c.kp
  ki := BitVec.ofNat 8 c.ki
  kf := BitVec.ofNat 16 c.kf
  dutyLimit := BitVec.ofNat 16 c.dutyLimit
  stallDuty := BitVec.ofNat 16 c.stallDuty
  stallSpeed := BitVec.ofNat 16 c.stallSpeed
  stallTime := BitVec.ofNat 16 c.stallTime
  tolerance := BitVec.ofNat 8 c.tolerance
  holdSpeed := BitVec.ofNat 16 c.holdSpeed
  failAction := BitVec.ofNat 8 c.failAction.code

/-- A command that is heard while a reset holds (R143): the ends and beginnings of resets, and levels from outside. -/
def heardInReset : Instr → Bool
  | .powerOnResetBegin | .powerOnResetEnd | .resetnLow | .resetnRise | .radioReadyRise | .radioReadyFall
  | .encoderTransition _ _ _ | .digitalPinChange _ _ _ | .counterPinAChange _ _ _ | .counterPinBChange _ _ => true
  | _ => false

/-- What beginning frames may change (R136, R137, R164, R165): of a line, its replies, transmitter and marker; of the
attention table, entries cleared; of a block whose entry was pending, the items its notice reports; the two payload queues
and K40_READY. Beside that an idle converter begins a conversion (R42, R43). -/
structure Sends (s t : State) : Prop where
  lines : ∀ l, ∃ replies tx marker,
    t.lineAt l = { s.lineAt l with replies := replies, tx := tx, marker := marker }
  ports : ∀ m, t.port m = s.port m ∨
    (s.attn.count (.motor m) ≠ 0 ∧ t.port m = { s.port m with outcomes := [], dropped := 0, discarded := 0 })
  sound : t.sound = s.sound ∨
    (s.attn.sound ≠ 0 ∧
      t.sound = { s.sound with outcomes := [], dropped := 0, discarded := 0, underruns := 0, refill := false })
  sensors : ∀ i, t.sensorAt i = s.sensorAt i ∨
    (s.attn.count (.sensor i) ≠ 0 ∧ t.sensorAt i = { s.sensorAt i with causes := .clear })
  supply : t.supply = s.supply ∨ (s.attn.power ≠ 0 ∧ t.supply = { s.supply with causes := .clear })
  hostUnit : t.hostUnit = s.hostUnit ∨
    (s.attn.hostLink ≠ 0 ∧ t.hostUnit = { s.hostUnit with checkErrors := 0, overruns := 0, watchFlag := false })
  link : ∃ relay transmit ready,
    t.link = { s.link with relay := relay, transmit := transmit, k40Ready := ready } ∧
      relay <:+ s.link.relay ∧ transmit <:+ s.link.transmit
  counts : ∀ src, t.attn.count src = s.attn.count src ∨ t.attn.count src = 0
  mask : t.attn.mask = s.attn.mask
  groups : t.groups = s.groups
  conv : t.conv = s.conv.begin
  clock : t.clock = s.clock
  softReset : t.softReset = s.softReset
  por : t.porActive = s.porActive
  pin : t.resetnLow = s.resetnLow
  freeIdx : t.freeIdx = s.freeIdx
  pending : t.pending = s.pending

end Sys2Proof.Machine

namespace Sys2Proof

/-! ### The fields of a request in their ranges -/

/-- A move record's own fields stand in their ranges (R4). -/
def MoveRaw.fieldsFit (r : MoveRaw) : Prop :=
  r.kind.toNat ≤ 4 ∧ (r.kind = 2 → r.target.toInt ≠ -2147483648) ∧ (r.kind = 4 → r.restStyle.toNat ≤ 2) ∧
    r.endAction.toNat ≤ 2

/-- A move record has no guard, or one whose fields stand in their ranges (R98, R99). -/
def MoveRaw.guardFits (r : MoveRaw) : Prop :=
  r.guardPresent = 0 ∨
    (r.guardPresent = 1 ∧ 1 ≤ r.guardPort.toNat ∧ r.guardPort.toNat ≤ 6 ∧ r.guardIndex.toNat ≤ 3 ∧
      r.guardComparison.toNat ≤ 4 ∧ r.guardStrict.toNat ≤ 1)

/-- A guard's sensor port is one that the line may guard on (R99): any for the host, for the tablet one of its read mask. -/
def MoveRaw.guardAllowed (r : MoveRaw) (l : LineId) (mask : Six Bool) : Prop :=
  r.guardPresent = 0 ∨ l = .host ∨ ∃ i : Idx6, r.guardPort.toNat = i.toNat + 1 ∧ mask.get i = true

/-- The fields of a SENSOR_SETUP that its mode and its policy use stand in their ranges (R61). -/
def SensorSetupRaw.fieldsFit (r : SensorSetupRaw) : Prop :=
  r.mode.toNat ≤ 4 ∧
    (r.mode = 1 → r.averaging.toNat ∈ [1, 2, 4, 8]) ∧
    (r.mode = 2 ∨ r.mode = 3 → r.pullA.toNat ≤ 2 ∧ r.pullB.toNat ≤ 2) ∧
    (r.mode = 2 → r.directionA.toNat ≤ 2 ∧ r.directionB.toNat ≤ 2 ∧ r.debounceA.toNat ≤ 50 ∧ r.debounceB.toNat ≤ 50 ∧
      r.edgeA.toNat ≤ 2 ∧ r.edgeB.toNat ≤ 2) ∧
    (r.mode = 3 → r.countingEdge.toNat ≤ 1 ∧ r.gate.toNat ≤ 1) ∧
    (r.mode = 4 → r.maxRate.toNat ≤ 3 ∧ r.preferred.toNat ≤ 7) ∧
    r.policy.toNat ≤ 3 ∧ (r.policy = 2 → r.delta.toNat ≤ 2147483647)

/-- The fields of a clip record that its kind uses stand in their ranges (R110). -/
def ClipRaw.fieldsFit (c : ClipRaw) : Prop :=
  c.kind.toNat ≤ 1 ∧ (c.kind = 0 → c.waveform.toNat ≤ 1) ∧
    (c.kind = 1 → c.format.toNat ≤ 2 ∧ (c.rate.toNat = 8000 ∨ c.rate.toNat = 16000))

end Sys2Proof
end

