-- ==== Sys2Proof/WellFormed.lean ====
section
/-! DEFINITION. Which commands the outside can really send. `exec` gives every command a meaning, well-formed or not;
these checks say which of them stand for something that can happen on the pins. -/

namespace Sys2Proof

/-- A request fits a frame and says its own length rightly: a relay payload is 1..238 bytes (R149, R151), a counted
request carries as many bytes as its count and its frame is at most 240 body bytes (R128, R169), and SOUND_SETUP's
action is QUERY or APPLY where the table has a row for it (R109). -/
def Request.wf : Request → Bool
  | .tabletSend bs => 1 ≤ bs.length && bs.length ≤ 238
  | .relayUp bs => 1 ≤ bs.length && bs.length ≤ 238
  | .smartWrite _ n bs => bs.length == n.toNat && bs.length ≤ 236
  | .soundData n _ bs => bs.length == n.toNat && bs.length ≤ 236
  | _ => true

/-- The request a request command carries. -/
def Instr.request? : Instr → Option (LineId × Byte × Request)
  | .identify l t => some (l, t, .identify)
  | .reset l t => some (l, t, .reset)
  | .setWatch l t p => some (l, t, .setWatch p)
  | .setMask l t m => some (l, t, .setMask m)
  | .allStop l t => some (l, t, .allStop)
  | .portSetup l t p c => some (l, t, .portSetup p c)
  | .setOwners l t o => some (l, t, .setOwners o)
  | .move l t p r => some (l, t, .move p r)
  | .moveNow l t p r => some (l, t, .moveNow p r)
  | .queueClear l t p f => some (l, t, .queueClear p f)
  | .preset l t p v => some (l, t, .preset p v)
  | .portQuery l t p => some (l, t, .portQuery p)
  | .groupDefine l t g m => some (l, t, .groupDefine g m)
  | .sensorSetup l t p r => some (l, t, .sensorSetup p r)
  | .sensorRead l t p => some (l, t, .sensorRead p)
  | .smartSelect l t p i => some (l, t, .smartSelect p i)
  | .smartWrite l t p n bs => some (l, t, .smartWrite p n bs)
  | .smartProfile l t p => some (l, t, .smartProfile p)
  | .soundSetupQuery l t v h => some (l, t, .soundSetup 0 v h)
  | .soundSetupApply l t v h => some (l, t, .soundSetup 1 v h)
  | .clip l t r => some (l, t, .clip r)
  | .soundData l t n e bs => some (l, t, .soundData n e bs)
  | .immediateTone l t f d => some (l, t, .immediateTone f d)
  | .soundStop l t => some (l, t, .soundStop)
  | .powerSetup l t a b c d => some (l, t, .powerSetup a b c d)
  | .powerQuery l t => some (l, t, .powerQuery)
  | .linkSetup l t r => some (l, t, .linkSetup r)
  | .tabletSend l t bs => some (l, t, .tabletSend bs)
  | .linkStatus l t => some (l, t, .linkStatus)
  | .linkReset l t => some (l, t, .linkReset)
  | .relayUp l t bs => some (l, t, .relayUp bs)
  | .unknownKind .. | .byteReceived .. | .interByteTimeout .. | .transmissionEnd .. | .radioReadyRise
  | .radioReadyFall | .breakEnd | .softResetEffect | .hostWatchExpiry | .quietTimerExpiry | .powerOnResetBegin
  | .powerOnResetEnd | .resetnLow | .resetnRise | .regulationEvent .. | .encoderTransition .. | .supplyChannelsDue
  | .analogChannelDue .. | .conversionComplete .. | .recoveryHoldExpiry | .digitalPinChange .. | .debounceExpiry ..
  | .counterPinAChange .. | .counterPinBChange .. | .sensorSupplyOverload .. | .intervalExpiry ..
  | .smartCharacterReceived .. | .pauseExpiry .. | .announceLimitExpiry .. | .switchDelayExpiry ..
  | .nudgeTimerExpiry .. | .lossTimerExpiry .. | .smartRecordSent .. | .outputSampleEvent | .uptimeTick => none

/-- A command is well formed if its request is, if an UNKNOWN_KIND frame fits a frame and its kind names no request
(R135), and if a time within a millisecond is less than a millisecond. -/
def Instr.wf (c : Instr) : Bool :=
  match c with
  | .unknownKind _ k _ ps => (rdRequest k []).isNone && ps.length ≤ 238
  | .counterPinAChange _ _ us => us < 1000
  | .byteReceived .. | .interByteTimeout .. | .transmissionEnd .. | .radioReadyRise
  | .radioReadyFall | .breakEnd | .softResetEffect | .hostWatchExpiry | .quietTimerExpiry | .powerOnResetBegin
  | .powerOnResetEnd | .resetnLow | .resetnRise | .regulationEvent .. | .encoderTransition .. | .supplyChannelsDue
  | .analogChannelDue .. | .conversionComplete .. | .recoveryHoldExpiry | .digitalPinChange .. | .debounceExpiry ..
  | .counterPinBChange .. | .sensorSupplyOverload .. | .intervalExpiry ..
  | .smartCharacterReceived .. | .pauseExpiry .. | .announceLimitExpiry .. | .switchDelayExpiry ..
  | .nudgeTimerExpiry .. | .lossTimerExpiry .. | .smartRecordSent .. | .outputSampleEvent | .uptimeTick => true
  | .identify .. | .reset .. | .setWatch .. | .setMask .. | .allStop .. | .portSetup .. | .setOwners .. | .move ..
  | .moveNow .. | .queueClear .. | .preset .. | .portQuery .. | .groupDefine .. | .sensorSetup .. | .sensorRead ..
  | .smartSelect .. | .smartWrite .. | .smartProfile .. | .soundSetupQuery .. | .soundSetupApply .. | .clip ..
  | .soundData .. | .immediateTone .. | .soundStop .. | .powerSetup .. | .powerQuery .. | .linkSetup ..
  | .tabletSend .. | .linkStatus .. | .linkReset .. | .relayUp .. =>
    match c.request? with
    | some (_, _, r) => r.wf
    | none => true

end Sys2Proof
end

