-- ==== Sys2Proof/Certificates/Slice0/Obligations.lean ====
section
/-! DEFINITION. The statements for the provers. Each says, for one rule or a few of spec/, what the machine does. A request's
statement takes a state in which the request is taken as it arrives (`State.ready`), an event's a state with nothing left
to do first (`State.calm`); what then happens at once (`State.settle`: replies and notices begun, conversions begun) is the same
for every command (log entry 7) and has statements of its own (SettlingOnlySends, NothingIsLeftToDo, TransmissionEndChoosesNext). -/

open Sys2Proof Sys2Proof.Machine

/-! ### Steps, resets and the whole machine -/

/-- One step is the command at the front of the queue, with the queue's rest; with an empty queue the part idles (log entry 2: the
model's own choice of what a step is). -/
def Obligations.StepRunsFrontCommand : Prop :=
  (∀ (c : Instr) (rest : List Instr) (s : State), s.pending = c :: rest → step s = exec c { s with pending := rest }) ∧
  (∀ s : State, s.pending = [] → step s = .next s)

/-- Every command completes in every state, and none touches the queue of commands.
No meaning ends in a fault or a refusal (log entry 16). -/
def Obligations.EveryCommandCompletes : Prop :=
  ∀ (c : Instr) (s : State), ∃ t, exec c s = .next t ∧ t.pending = s.pending

/-- R133, R136, R148, R42: after every command either a reset holds, or no request that may be taken waits, no frame that may
be begun waits, and no due channel waits on an idle converter.
That a command comes to an end only then is the model's choice (log entry 7). -/
def Obligations.NothingIsLeftToDo : Prop :=
  ∀ (c : Instr) (s t : State), exec c s = .next t → t.inReset = true ∨ t.isQuiet = true

/-- R142, R143, R166: a power-on or a pin reset begins: it holds, both transmissions are cut off, a pending soft reset is
cleared, and K40_READY and SPK_OUT fall; one that holds already does not begin again. While a reset holds nothing is taken: of
every command but the ends and beginnings of resets, only a level that it brings to a pin is noted. The pins stand as the
rule says. R7, R8, R36, R112, R137, R147, R154: while no reset holds, each bridge stands as its port's state has it (open, shorted, or driven at
the applied duty), each transmit line sends its frame's bytes (R128) and rests high, the tablet's held low in a break, and K40_READY and
SPK_OUT show what the link and the sound engine hold. (SensorSetupEntersMode says the sensor pins.)
What is kept while a reset holds is the model's choice (log entry 19). -/
def Obligations.ResetsBeginAndHold : Prop :=
  ∀ s : State,
    (s.inReset = true →
      (∀ c : Instr, heardInReset c = false → exec c s = .next s) ∧
      (∀ level, exec (if level then .radioReadyRise else .radioReadyFall) s =
        .next { s with link := { s.link with radioReady := level } }) ∧
      (∀ m ch1 ch2, exec (.encoderTransition m ch1 ch2) s =
        .next (s.modPort m fun p => { p with encLevels := (ch1, ch2) })) ∧
      (∀ i level,
        exec (.digitalPinChange i .a level) s = .next (s.modSensor i fun p => { p with driveA := .driven level }) ∧
        exec (.digitalPinChange i .b level) s = .next (s.modSensor i fun p => { p with driveB := .driven level }) ∧
        ∀ us, exec (.counterPinAChange i level us) s = .next (s.modSensor i fun p => { p with driveA := .driven level }) ∧
        exec (.counterPinBChange i level) s = .next (s.modSensor i fun p => { p with driveB := .driven level })) ∧
      (∀ m, s.bridge m = .open_) ∧ (∀ i, s.supplyPin i = false ∧ s.pin1Role i = .highImpedance ∧ ∀ pin, s.pinRole i pin = .highImpedance) ∧
      s.hostTx = .high ∧ s.tabTx = .high ∧ s.k40ReadyPin = false ∧ s.speaker = 0) ∧
    (s.inReset = false →
      let open_ (m : Idx6) : Prop := s.bridge m = .open_
      let shorted (m : Idx6) : Prop := s.bridge m = .shorted
      let driven (m : Idx6) : Prop := s.bridge m = .driven (s.port m).duty
      let sending : Option TxFrame → TxPin
        | some f => .sends ([0x5A, BitVec.ofNat 8 f.body.length] ++ f.body ++ [-(BitVec.ofNat 8 f.body.length + f.body.sum)]) f.rate
        | none => .high
      (∀ m, match (s.port m).act with
        | .rest .free | .rest .stalled | .groupWait .free | .groupWait .stalled => open_ m
        | .rest .braked | .groupWait .braked | .shutdown => shorted m
        | .rest .holding | .groupWait .holding => driven m
        | .running r => match r.move.motion with
          | .rest .coast _ => open_ m
          | .rest .brake _ => shorted m
          | .rest .hold _ | .speed _ | .timed _ _ | .position _ _ | .relative _ _ => driven m) ∧
      s.hostTx = sending s.host.tx ∧
      (s.link.breakTimer ≠ none → s.tabTx = .low) ∧ (s.link.breakTimer = none → s.tabTx = sending s.tablet.tx) ∧
      s.k40ReadyPin = s.link.k40Ready ∧ s.speaker = s.sound.out) ∧
    let cut : State := { s with
      host := { s.host with tx := none }
      tablet := { s.tablet with tx := none }
      softReset := none
      link := { s.link with k40Ready := false }
      sound := { s.sound with out := 0 }
      sensor := s.sensor.map fun p => { p with smart := { p.smart with tx := none } } }
    exec .powerOnResetBegin s = .next (if s.porActive then s else { cut with porActive := true }) ∧
    exec .resetnLow s = .next (if s.resetnLow then s else { cut with resetnLow := true })

/-- What every block holds after a reset: the values the rules of each block give (R1, R2, R6, R18, R19, R42, R43, R46 to R50, R59, R62,
R76, R83, R108, R109, R111, R115, R127, R129, R136, R138, R139, R144, R152 to R155, R160), with the POWER cause POWER_ON (R56).
That this is the end of a power-on reset, before anything has happened at once (the cause POWER_ON with its raise pending, the converter
idle with both supply channels due), is log entry 1; the thresholds in use before any filter update are log entry 22. -/
def Obligations.ResetStateValues : Prop :=
  (∀ m, let p := State.reset.port m;
    p.config = ⟨.normal, .normal, 1000, 4000, 96, 8, 128, 1000, 700, 50, 200, 3, 200, .brake⟩ ∧ p.pendingConfig = none ∧
    p.owner = .brick ∧ p.act = .rest .free ∧ p.replacing = false ∧ p.vp = 0 ∧ p.vm = 0 ∧ p.integral = 0 ∧ p.position = 0 ∧
    p.history = ⟨0, 0, 0, 0, 0, 0, 0, 0⟩ ∧ p.stallTimer = 0 ∧ p.holdTarget = 0 ∧ p.ceiling = 0 ∧ p.duty = 0 ∧
    p.encErrors = 0 ∧ p.rawCount = 0 ∧ p.queue = [] ∧ p.outcomes = [] ∧ p.dropped = 0 ∧ p.discarded = 0) ∧
  (∀ g, State.reset.groupMembers g = none) ∧
  (let u := State.reset.supply;
    u.mode = .pending ∧ u.vf = 0 ∧ u.seeded = false ∧ u.vLow = 6600 ∧ u.vCritical = 5800 ∧ u.vRestore = 6200 ∧
    u.limit = 3000 ∧ u.lowInUse = 6600 ∧ u.criticalInUse = 5800 ∧ u.scale = 0 ∧ u.foldback = 1000 ∧ u.hold = none ∧ u.causes.bits = 1 ∧ u.lastV = 0 ∧ u.itotal = 0) ∧
  (State.reset.conv.due = ⟨true, true, Six.all false⟩ ∧ State.reset.conv.inFlight = none ∧
    State.reset.conv.lastServed = .i5) ∧
  (∀ i, let p := State.reset.sensorAt i;
    p.mode = .off ∧ p.supplyOn = false ∧ p.policy = .none ∧ p.causes.bits = 0 ∧
    p.record = ⟨.off, .none, 0, 0, 0, ⟨0, 0, 0, 0⟩, 0⟩ ∧ p.smart.running = false ∧ p.smart.lineState = .listen ∧
    p.smart.profile = none ∧ p.smart.selected = none ∧ p.smart.errors = 0 ∧ p.smart.rate = 2400) ∧
  (let e := State.reset.sound;
    e.owner = .brick ∧ e.volume = 50 ∧ e.threshold = 1024 ∧ e.gain = 0 ∧ e.queue = [] ∧ e.player = .idle ∧ e.ring = [] ∧
    e.marks = [] ∧ e.underruns = 0 ∧ e.refill = false ∧ e.outcomes = [] ∧ e.dropped = 0 ∧ e.discarded = 0 ∧ e.out = 0 ∧
    e.ceiling = 0) ∧
  (∀ l, State.reset.lineAt l = ⟨[], none, [], [], none, .attention⟩) ∧
  State.reset.hostUnit = ⟨0, 0, false, .off, 0⟩ ∧
  (let k := State.reset.link;
    k.rate = 115200 ∧ k.k40Ready = true ∧ k.relay = [] ∧ k.transmit = [] ∧ k.readMask = Six.all false ∧
    k.setupAllowed = false ∧ k.queryAllowed = false ∧ k.quietUnit = 10 ∧ k.quietSteps = 0 ∧ k.strikeLimit = 0 ∧
    k.state = .down ∧ k.strikes = 0 ∧ k.quietTimer = none ∧ k.overflows = 0 ∧ k.checkErrors = 0 ∧ k.breakTimer = none) ∧
  (∀ src, State.reset.attn.count src = if src = .power then 1 else 0) ∧ State.reset.attn.mask = 0 ∧
  State.reset.uptime = 0 ∧ State.reset.softReset = none ∧ State.reset.inReset = false

/-- R142, R143, R56, R160: a reset ends with every block in its reset state (that of `State.reset`, with the levels that stand on the
encoder channels as reference pairs) and the host line beginning the POWER notice that names the cause: POWER_ON at the end
of a power-on reset, PIN at that of a pin reset, SOFT when a soft reset takes effect. A soft reset that is not due waits
(that its event does nothing then is log entry 20), and of two resets that overlap the first to end ends only itself (log entry 13). What the
pins outside are driven to stays, and so do the waiting commands (log entries 9 and 19). That the notice begins at once and leaves the
cause flags clear, though R57 has POWER_QUERY report the reset's flag until the first battery sample, is log entry 21. -/
def Obligations.ResetsEndWithNotice : Prop :=
  ∀ s : State,
    let ended (bit : Byte) : State := { State.reset with
      motor := s.motor.map fun p => { State.reset.port .i0 with refPair := p.encLevels, encLevels := p.encLevels }
      supply := { State.reset.supply with causes := .clear }
      conv := { State.reset.conv with due := ⟨false, true, Six.all false⟩, inFlight := some ⟨.battery, false⟩ }
      sensor := s.sensor.map fun p => { State.reset.sensorAt .i0 with driveA := p.driveA, driveB := p.driveB }
      link := { State.reset.link with radioReady := s.link.radioReady }
      host := ⟨[], none, [], [], some ⟨.attention, [0x60, 0, 0, 1, bit, 0, 0, 0, 0xE8, 0x03], 1000000⟩, .relay⟩
      attn := { State.reset.attn with power := 0 }
      freeIdx := s.freeIdx
      pending := s.pending }
    (s.porActive = true → s.resetnLow = false → exec .powerOnResetEnd s = .next (ended 1)) ∧
    (s.resetnLow = true → s.porActive = false → exec .resetnRise s = .next (ended 2)) ∧
    (s.calm = true → s.softReset = some true → s.tablet.replies = [] →
      (∀ f, s.tablet.tx = some f → f.cls ≠ .reply) → exec .softResetEffect s = .next (ended 4)) ∧
    (s.calm = true → (s.softReset ≠ some true ∨ s.tablet.replies ≠ [] ∨ ∃ f, s.tablet.tx = some f ∧ f.cls = .reply) →
      exec .softResetEffect s = .next s) ∧
    (s.porActive = true → s.resetnLow = true →
      exec .powerOnResetEnd s = .next { s with porActive := false } ∧
      exec .resetnRise s = .next { s with resetnLow := false })

/-! ### Frames and the serial lines (chapter 8) -/

/-- R128, R135, R168, R169: every well-formed request, laid out as a body and framed, is found by the receive hunter as one valid
frame, and the request decoder reads exactly that request, every field at every value. -/
def Obligations.RequestsReadBackAsWritten : Prop :=
  ∀ (tag : Byte) (r : Request), r.wf = true →
    let body := Request.body tag r
    2 ≤ body.length ∧ body.length ≤ 240 ∧ body.take 2 = [r.kind, tag] ∧ decodeRequest body = .request r ∧
      scan 0 (frameOf body) = ([.valid body], [])

/-- R128, R129, R130: the receive hunter reads a stream the same in pieces as whole; it drops what is not a start byte, finds
every framed body of 2..240 bytes whatever its bytes are, and after a failure goes on from the byte after the failed frame's
start byte. -/
def Obligations.HunterFindsFrames : Prop :=
  (∀ (bytes : List Byte) (b : Byte), scan 0 (bytes ++ [b]) =
    ((scan 0 bytes).1 ++ (scan 0 ((scan 0 bytes).2 ++ [b])).1, (scan 0 ((scan 0 bytes).2 ++ [b])).2)) ∧
  (∀ (b : Byte) (rest : List Byte), b ≠ 0x5A → scan 0 (b :: rest) = scan 0 rest) ∧
  (∀ body rest : List Byte, 2 ≤ body.length → body.length ≤ 240 →
    scan 0 (frameOf body ++ rest) = (.valid body :: (scan 0 rest).1, (scan 0 rest).2)) ∧
  (∀ (n check : Byte) (body rest : List Byte), body.length = n.toNat → 2 ≤ n.toNat → n.toNat ≤ 240 →
    check ≠ checkByte body →
    let after := body ++ check :: rest
    scan 0 (0x5A :: n :: after) = (.failure :: (scan 0 (n :: after)).1, (scan 0 (n :: after)).2)) ∧
  (∀ (n : Byte) (rest : List Byte), (n.toNat < 2 ∨ 240 < n.toNat) →
    scan 0 (0x5A :: n :: rest) = (.failure :: (scan 0 (n :: rest)).1, (scan 0 (n :: rest)).2))

/-- R129 to R131: BYTE_RECEIVED by the hunter's state: HUNT, LENGTH, BODY, and CHECK with a good check byte, where the frame acts as the
command of that frame does; every byte held starts the inter-byte timeout again. A length failure is counted, and its byte is
dropped. A bad check byte is counted, and the bytes after the failed frame's start byte are fed to the hunter again: each failure that the
rescan meets is counted, each frame it finds acts as its command, and the bytes of a frame it has begun are held, the timeout running from
this arrival. Whatever is held, the byte does what the hunter finds in the held bytes and it (HunterFindsFrames says what that is).
R138, R145, R161: what a check or length failure counts, and what it raises.
A saturated count that does not change raises nothing (log entry 14). -/
def Obligations.BytesAreHunted : Prop :=
  (∀ s : State,
      s.hunterFailure .host = { s with
        hostUnit := { s.hostUnit with checkErrors := min 65535 (s.hostUnit.checkErrors + 1) }
        attn := if s.hostUnit.checkErrors = min 65535 (s.hostUnit.checkErrors + 1) then s.attn
          else { s.attn with hostLink := min 255 (s.attn.hostLink + 1) } } ∧
      s.hunterFailure .tablet = { s with
        link := { s.link with checkErrors := min 65535 (s.link.checkErrors + 1) } }) ∧
  ∀ (l : LineId) (b : Byte) (s : State), s.calm = true →
    let holding (held : List Byte) (timer : Timer) : State :=
      s.modLine l fun u => { u with held := held, rxTimer := timer }
    let kept (held : List Byte) : State := holding held (if held = [] then none else some s.clock)
    let acts (found : List Found) (t : State) : State := found.foldl (fun t f => match f with
      | .failure => (t.hunterFailure l).settle
      | .valid body => t.requestCommand l body) t
    ((s.lineAt l).held = [] → b ≠ 0x5A → exec (.byteReceived l b) s = .next (holding [] none)) ∧
    ((s.lineAt l).held = [] → b = 0x5A → exec (.byteReceived l b) s = .next (holding [0x5A] (some s.clock))) ∧
    ((s.lineAt l).held = [0x5A] → 2 ≤ b.toNat → b.toNat ≤ 240 →
      exec (.byteReceived l b) s = .next (holding [0x5A, b] (some s.clock))) ∧
    ((s.lineAt l).held = [0x5A] → (b.toNat < 2 ∨ 240 < b.toNat) →
      exec (.byteReceived l b) s = .next ((holding [] none).hunterFailure l).settle) ∧
    (∀ (n : Byte) (body : List Byte), (s.lineAt l).held = 0x5A :: n :: body → 2 ≤ n.toNat → n.toNat ≤ 240 →
      (body.length < n.toNat →
        exec (.byteReceived l b) s = .next (holding (0x5A :: n :: body ++ [b]) (some s.clock))) ∧
      (body.length = n.toNat → b = checkByte body →
        exec (.byteReceived l b) s = .next ((holding [] none).requestCommand l body)) ∧
      (body.length = n.toNat → b ≠ checkByte body → (∀ x ∈ n :: body ++ [b], x ≠ 0x5A) →
        exec (.byteReceived l b) s = .next ((holding [] none).hunterFailure l).settle) ∧
      (body.length = n.toNat → b ≠ checkByte body →
        let again := scan 0 (n :: body ++ [b])
        exec (.byteReceived l b) s = .next (acts again.1 ((kept again.2).hunterFailure l).settle))) ∧
    (let all := scan 0 ((s.lineAt l).held ++ [b]);
      exec (.byteReceived l b) s = .next (acts all.1 (kept all.2)))

/-- R132, R133, R138, R140, R145 to R147, R153, R155: a valid frame acts on the host watch or on the link; it enters its line's request FIFO, and
waits there while it may not be taken, K40_READY being evaluated as it enters; with 4 frames waiting it is discarded and counted. So does
every valid frame, whatever its kind and its length: a request's command, an UNKNOWN_KIND, or the check byte that completes a body of 2 to
240 bytes.
A request command is the arrival of its frame (log entry 6), and a saturated overrun or overflow count that does not change raises nothing
(log entry 14). -/
def Obligations.FramesWaitOrAreDiscarded : Prop :=
  ∀ (l : LineId) (body : List Byte) (s : State), s.calm = true →
    (s.softReset ≠ none ∨ 4 ≤ (s.lineAt l).replies.length ∨ (s.lineAt l).fifo ≠ []) →
    let waits (s : State) : State :=
      let watched : State := { s with hostUnit := { s.hostUnit with
        watch := match s.hostUnit.watch with | .off => .off | .armed _ => .armed s.clock | .expired => .armed s.clock } }
      let linked : State := { s with
        link := { s.link with
          state := .up, strikes := 0, quietTimer := if 1 ≤ s.link.quietSteps then some s.clock else none }
        attn := if s.link.state = .up then s.attn else { s.attn with tablet := min 255 (s.attn.tablet + 1) } }
      (match l with
        | .host =>
          if s.host.fifo.length < 4 then watched.withFifo .host (s.host.fifo ++ [body])
          else { watched with
            hostUnit := { watched.hostUnit with overruns := min 65535 (s.hostUnit.overruns + 1) }
            attn := if s.hostUnit.overruns = min 65535 (s.hostUnit.overruns + 1) then s.attn
              else { s.attn with hostLink := min 255 (s.attn.hostLink + 1) } }
        | .tablet =>
          if s.tablet.fifo.length < 4 then linked.withFifo .tablet (s.tablet.fifo ++ [body])
          else { linked with
            link := { linked.link with overflows := min 65535 (s.link.overflows + 1) }
            attn := if s.link.overflows = min 65535 (s.link.overflows + 1) then linked.attn
              else { linked.attn with tablet := min 255 (linked.attn.tablet + 1) } }).settle
    (∀ c tag r, c.request? = some (l, tag, r) → Request.body tag r = body → exec c s = .next (waits s)) ∧
    (∀ kind tag params, kind :: tag :: params = body → exec (.unknownKind l kind tag params) s = .next (waits s)) ∧
    (∀ n : Byte, n.toNat = body.length → 2 ≤ body.length → body.length ≤ 240 → (s.lineAt l).held = 0x5A :: n :: body →
      exec (.byteReceived l (checkByte body)) s = .next (waits (s.modLine l fun u => { u with held := [], rxTimer := none })))

/-- R131, R143, R148, R154: the inter-byte timeout drops the held bytes, RADIO_READY's changes and the end of a break let or stop
the tablet arbiter, and a millisecond passes.
A stopped timer does not expire and uptime is the low 32 bits of a clock (log entries 3 and 4). -/
def Obligations.LineEventsAct : Prop :=
  ∀ (l : LineId) (s : State), s.calm = true →
    ((s.lineAt l).rxTimer ≠ none → exec (.interByteTimeout l) s =
      .next (s.modLine l fun u => { u with held := [], rxTimer := none })) ∧
    ((s.lineAt l).rxTimer = none → exec (.interByteTimeout l) s = .next s) ∧
    exec .radioReadyRise s = .next { s with link := { s.link with radioReady := true } }.settle ∧
    exec .radioReadyFall s = .next { s with link := { s.link with radioReady := false } } ∧
    exec .breakEnd s = .next { s with link := { s.link with breakTimer := none } }.settle ∧
    exec .uptimeTick s = .next { s with clock := s.clock + 1 } ∧
    { s with clock := s.clock + 1 }.uptime = s.uptime + 1

/-- R136, R137, R164, R165, R43: where no request waits, or a soft reset is pending, all that happens at once is that frames are begun and an
idle converter is put to work: nothing else of the state changes. R133: the oldest waiting request is taken at once where its line's reply
queue has room and no soft reset is pending: it leaves the FIFO (R147: K40_READY is evaluated), is taken whole as one that is taken as it
arrives, and its reply goes to the tail; a reply begun frees its slot (R137), and then what waits is taken.
The order of the two lines' takings and beginnings at one moment is log entry 7. -/
def Obligations.SettlingOnlySends : Prop :=
  (∀ s : State, (s.softReset ≠ none ∨ (s.host.fifo = [] ∧ s.tablet.fifo = [])) → Sends s s.settle) ∧
  (∀ (l : LineId) (body : List Byte) (rest : List (List Byte)) (s : State),
    (s.lineAt l).fifo = body :: rest → s.softReset = none →
    ((s.lineAt l).replies.length = 3 ∨ ((s.lineAt l).replies.length < 3 ∧ rest = [])) →
    (∀ k, k ≠ l → (s.lineAt k).fifo = [] ∨ 4 ≤ (s.lineAt k).replies.length) →
    s.settle = ((s.withFifo l rest).takeBody l body).settle) ∧
  (∀ (l : LineId) (body : List Byte) (rest : List (List Byte)) (s : State),
    (s.lineAt l).tx = none → (l = .tablet → s.link.radioReady = true ∧ s.link.breakTimer = none) →
    (s.lineAt l).replies = body :: rest → (∀ k, s.mayTake k = false) → (∀ k, k ≠ l → s.canBegin k = false) →
    s.settle = (s.modLine l fun v => { v with
      replies := rest, tx := some ⟨.reply, body, match l with | .host => 1000000 | .tablet => s.link.rate⟩ }).settle) ∧
  (∀ (l : LineId) (kind tag : Byte) (params : List Byte) (s : State),
    let body := kind :: tag :: params
    (∃ (status : Status) (data : List Byte), ((s.takeBody l body).lineAt l).replies = (s.lineAt l).replies ++
      [(if kind.toNat < 128 then kind + 0x80 else 0xFF) :: tag :: BitVec.ofNat 8 status.code :: data]) ∧
    ((s.takeBody l body).lineAt l).fifo = (s.lineAt l).fifo ∧
    (s.ready l = true →
      (∀ c r, c.request? = some (l, tag, r) → Request.body tag r = body →
        exec c s = .next ((s.arrived l).takeBody l body).settle) ∧
      exec (.unknownKind l kind tag params) s = .next ((s.arrived l).takeBody l body).settle))

/-- R132, R133, R136, R137, R147, R148, R150, R151, R164: at the end of a transmission the line's arbiter begins its oldest reply, or else the class the
alternation marker names where an attention notice and a relay-class frame both wait, or else the one that waits; with
nothing waiting, or the tablet line held, the line idles. The end of the RESET reply is noted (R142). Where the reply begun frees a slot of
a full queue and no soft reset is pending, the oldest waiting frame leaves the request FIFO, K40_READY being evaluated on the tablet line, and
is taken whole, its reply at the tail (SettlingOnlySends), which fills the queue again: the later frames wait on in their order. -/
def Obligations.TransmissionEndChoosesNext : Prop :=
  ∀ (l : LineId) (f : TxFrame) (s : State), s.calm = true → (s.lineAt l).tx = some f →
    let u : State :=
      { s.modLine l fun u => { u with tx := none } with
        softReset := if l = .host ∧ s.softReset ≠ none ∧ f.isResetReply = true then some true else s.softReset }
    let free : Prop := l = .host ∨ (s.link.radioReady = true ∧ s.link.breakTimer = none)
    let rate := match l with | .host => 1000000 | .tablet => s.link.rate
    let next := exec (.transmissionEnd l) s
    (¬ free → next = .next u) ∧
    (free → ∀ body rest, (s.lineAt l).replies = body :: rest →
      let begun := u.modLine l fun v => { v with replies := rest, tx := some ⟨.reply, body, rate⟩ }
      (((s.lineAt l).fifo = [] ∨ s.softReset ≠ none ∨ 4 ≤ rest.length) → next = .next begun) ∧
      (∀ oldest later, (s.lineAt l).fifo = oldest :: later → s.softReset = none → rest.length < 4 →
        rest.length = 3 ∧ ((begun.withFifo l later).lineAt l).fifo = later ∧
        next = .next ((begun.withFifo l later).takeBody l oldest).settle)) ∧
    (free → (s.lineAt l).replies = [] → ∀ src, s.waitingSource l = some src →
      (s.relayQueue l = [] ∨ (s.lineAt l).marker = .attention) →
      next = .next (({ u with attn := s.attn.setCount src 0 }.clearReported src).modLine l fun v =>
        { v with tx := some ⟨.attention, s.noticeBody src, rate⟩, marker := .relay })) ∧
    (free → (s.lineAt l).replies = [] → ∀ payload rest, s.relayQueue l = payload :: rest →
      (s.waitingSource l = none ∨ (s.lineAt l).marker = .relay) →
      next = .next ((match l with
        | .host => (u.modLink fun k => { k with relay := rest }).evalReady
        | .tablet => u.modLink fun k => { k with transmit := rest }).modLine l fun v =>
          { v with tx := some ⟨.relay, (match l with | .host => (0x61 : Byte) | .tablet => 0x62) :: 0 :: payload, rate⟩
                   marker := .attention })) ∧
    ((s.lineAt l).replies = [] → s.waitingSource l = none → s.relayQueue l = [] → next = .next u)

/-- R160, R163 to R165, R171: the notice that a line begins when a transmission ends and a source waits: the pending, unmasked source of
lowest number routed to the line (MOTOR and SOUND by the owner, every other source to the host line), with its raise count and its payload as
it stands; its entry is cleared, and with it the items the rule names, and no others. A relay-class frame that waits too has its turn
first where the marker names it (TransmissionEndChoosesNext). -/
def Obligations.NoticesReportAndClear : Prop :=
  ∀ (l : LineId) (src : Source) (f : TxFrame) (s : State), s.calm = true → (s.lineAt l).tx = some f → (s.lineAt l).replies = [] →
    (l = .tablet → s.link.radioReady = true ∧ s.link.breakTimer = none) →
    ((match l with | .host => s.link.relay | .tablet => s.link.transmit) = [] ∨ (s.lineAt l).marker = .attention) →
    let lineOf (o : Owner) : LineId := match o with | .brick => .host | .remote => .tablet
    let line (x : Source) : LineId := match x with
      | .motor m => lineOf (s.port m).owner
      | .sound => lineOf s.sound.owner
      | .power | .hostLink | .sensor _ | .tablet => .host
    s.attn.count src ≠ 0 → s.attn.mask.getLsbD src.number = false → line src = l →
    (∀ x, x.number < src.number → s.attn.count x = 0 ∨ s.attn.mask.getLsbD x.number = true ∨ line x ≠ l) →
    ∃ t, exec (.transmissionEnd l) s = .next t ∧
      (∀ x, t.attn.count x = if x = src then 0 else s.attn.count x) ∧ (t.lineAt l).marker = .relay ∧
      ∃ payload, (t.lineAt l).tx = some ⟨.attention,
          [0x60, 0, BitVec.ofNat 8 src.number, BitVec.ofNat 8 (s.attn.count src)] ++ payload,
          match l with | .host => 1000000 | .tablet => s.link.rate⟩ ∧
        match src with
        | .power => payload = [BitVec.ofNat 8 s.supply.causes.bits, BitVec.ofNat 8 s.supply.mode.code] ++
              le16 (BitVec.ofNat 16 s.supply.vf) ++ le16 (BitVec.ofNat 16 s.supply.foldback) ∧
            t.supply = { s.supply with causes := .clear } ∧ t.motor = s.motor ∧ t.sensor = s.sensor
        | .hostLink => payload = le16 (BitVec.ofNat 16 s.hostUnit.checkErrors) ++ le16 (BitVec.ofNat 16 s.hostUnit.overruns) ++
              [if s.hostUnit.watchFlag then 1 else 0] ∧
            t.hostUnit = { s.hostUnit with checkErrors := 0, overruns := 0, watchFlag := false } ∧ t.motor = s.motor
        | .motor m =>
            let p := s.port m
            payload = [BitVec.ofNat 8 p.act.code, BitVec.ofNat 8 p.act.phaseCode] ++ le32 (BitVec.ofInt 32 p.position) ++
              [BitVec.ofNat 8 p.dropped, BitVec.ofNat 8 p.discarded, BitVec.ofNat 8 p.outcomes.length] ++
              (p.outcomes.map fun o => le16 o.tag ++ [BitVec.ofNat 8 o.issuer.code, BitVec.ofNat 8 o.outcome.code] ++
                le32 (BitVec.ofInt 32 o.position) ++ le32 o.uptime).flatten ∧
            ∀ q, t.port q = if q = m then { p with outcomes := [], dropped := 0, discarded := 0 } else s.port q
        | .sound =>
            let e := s.sound
            payload = [BitVec.ofNat 8 e.player.code] ++ le16 (BitVec.ofNat 16 e.ring.length) ++
              le16 (BitVec.ofNat 16 e.underruns) ++ [if e.refill then 1 else 0, BitVec.ofNat 8 e.dropped,
                BitVec.ofNat 8 e.discarded, BitVec.ofNat 8 e.outcomes.length] ++
              (e.outcomes.map fun o => le16 o.tag ++ [BitVec.ofNat 8 o.issuer.code, BitVec.ofNat 8 o.outcome.code] ++
                le32 o.uptime).flatten ∧
            t.sound = { e with outcomes := [], dropped := 0, discarded := 0, underruns := 0, refill := false }
        | .sensor i =>
            let p := s.sensorAt i
            let r := p.record
            payload = [BitVec.ofNat 8 p.causes.bits, BitVec.ofNat 8 r.mode.code, BitVec.ofNat 8 r.status.code] ++ le16 r.sequence ++
              le32 r.timestamp ++ [BitVec.ofNat 8 r.count, BitVec.ofNat 8 r.decimals] ++ le32 (BitVec.ofInt 32 r.values.v0) ++
              le32 (BitVec.ofInt 32 r.values.v1) ++ le32 (BitVec.ofInt 32 r.values.v2) ++ le32 (BitVec.ofInt 32 r.values.v3) ∧
            ∀ j, t.sensorAt j = if j = i then { p with causes := .clear } else s.sensorAt j
        | .tablet => payload = [BitVec.ofNat 8 s.link.state.code, BitVec.ofNat 8 s.link.strikes] ++
              le16 (BitVec.ofNat 16 s.link.overflows) ∧ t.link = s.link ∧ t.motor = s.motor

/-- R134, R135, R169: the decoder's three checks: a kind that names no request is refused UNKNOWN_KIND, a body whose length is not the one that
section 11.2 gives for its kind BAD_LENGTH, a request its line may not send NOT_PERMITTED; each changes nothing but its reply. The first two
are said of any frame's last byte, too: its arrival takes the frame. -/
def Obligations.DecoderChecksRefuse : Prop :=
  ∀ (l : LineId) (tag : Byte) (s : State), s.ready l = true →
    let fixed : List (Byte × Nat) := [(0x01, 2), (0x02, 2), (0x03, 4), (0x04, 4), (0x05, 2), (0x10, 26), (0x11, 9), (0x12, 28), (0x13, 28),
      (0x14, 4), (0x15, 7), (0x16, 3), (0x17, 4), (0x20, 30), (0x21, 3), (0x22, 4), (0x24, 3), (0x30, 6), (0x31, 17), (0x33, 6), (0x34, 2),
      (0x38, 10), (0x39, 2), (0x40, 9), (0x42, 2), (0x43, 2)]
    let wrong (kind : Byte) (params : List Byte) : Prop :=
      (∃ n, (kind, n) ∈ fixed ∧ params.length + 2 ≠ n) ∨
      (kind = 0x23 ∧ ∀ port n bytes, params = port :: n :: bytes → bytes.length ≠ n.toNat) ∨
      (kind = 0x32 ∧ ∀ n flag bytes, params = n :: flag :: bytes → bytes.length ≠ n.toNat) ∨
      ((kind = 0x41 ∨ kind = 0x44) ∧ (params = [] ∨ 238 < params.length))
    let heard (kind : Byte) (params reply : List Byte) : Prop :=
      ∀ n : Byte, n.toNat = params.length + 2 → params.length ≤ 238 → (s.lineAt l).held = 0x5A :: n :: kind :: tag :: params →
        exec (.byteReceived l (checkByte (kind :: tag :: params))) s = .next
          (((s.modLine l fun u => { u with held := [], rxTimer := none }).arrived l).addReply l reply).settle
    (∀ (kind : Byte) (params : List Byte),
      kind ∉ ([0x01, 0x02, 0x03, 0x04, 0x05, 0x10, 0x11, 0x12, 0x13, 0x14, 0x15, 0x16, 0x17, 0x20, 0x21, 0x22, 0x23, 0x24,
        0x30, 0x31, 0x32, 0x33, 0x34, 0x38, 0x39, 0x40, 0x41, 0x42, 0x43, 0x44] : List Byte) →
      let reply : List Byte := [if kind.toNat < 128 then kind + 0x80 else 0xFF, tag, 0x03]
      exec (.unknownKind l kind tag params) s = .next ((s.arrived l).addReply l reply).settle ∧ heard kind params reply) ∧
    (∀ (kind : Byte) (params : List Byte),
      (decodeRequest (kind :: tag :: params) = .badLength ↔ wrong kind params) ∧
      (wrong kind params → heard kind params [kind + 0x80, tag, 0x02])) ∧
    (∀ (c : Instr) (r : Request), c.request? = some (l, tag, r) → r.wf = true →
      ((l = .host ∧ r.kind = 0x44) ∨
        (l = .tablet ∧ (r.kind ∈ ([0x02, 0x03, 0x04, 0x05, 0x10, 0x11, 0x38, 0x40, 0x41, 0x43] : List Byte) ∨
          (r.kind ∈ ([0x16, 0x39] : List Byte) ∧ s.link.queryAllowed = false)))) →
      exec c s = .next ((s.arrived l).addReply l [r.kind + 0x80, tag, 0x07]).settle)

/-! ### The host's and the tablet's own requests (chapters 8 to 10) -/

/-- R141: IDENTIFY's reply. -/
def Obligations.IdentifyAnswers : Prop :=
  ∀ (l : LineId) (tag : Byte) (s : State), s.ready l = true →
    exec (.identify l tag) s = .next
      ((s.arrived l).replied l tag .identify .ok
        ([0x4E, 0x5A, 0x40, 0x04, 3, 6, 6] ++ le32 (BitVec.ofNat 32 s.clock))).settle

/-- R139: SET_WATCH turns the watch OFF, or arms it from now with the period clamped to 50..10,000. -/
def Obligations.SetWatchSetsPeriod : Prop :=
  (∀ (tag : Byte) (period : Half) (s : State), s.ready .tablet = true →
    exec (.setWatch .tablet tag period) s = .next
      ((s.arrived .tablet).replied .tablet tag (.setWatch period) .notPermitted []).settle) ∧
  State.reset.hostUnit.watch = .off ∧ State.reset.hostUnit.watchPeriod = 0 ∧
  ∀ (tag : Byte) (period : Half) (s : State), s.ready .host = true →
    let n := period.toNat
    exec (.setWatch .host tag period) s = .next
      ((if n = 0 then { s with hostUnit := { s.hostUnit with watch := .off, watchPeriod := 0 } }
        else { s with hostUnit := { s.hostUnit with
          watch := .armed s.clock, watchPeriod := if n < 50 then 50 else if 10000 < n then 10000 else n } }).replied .host tag
            (.setWatch period) .ok [if (1 ≤ n ∧ n ≤ 49) ∨ 10000 < n then 1 else 0]).settle

/-- R142, R162: SET_MASK replaces the mask and answers it with the set of pending sources, bit n for source n; RESET makes a soft reset
pending, its OK reply queued. -/
def Obligations.SetMaskAndReset : Prop :=
  ∀ (tag : Byte) (mask : Half) (s : State), s.ready .host = true →
    (∃ set : Half, (∀ src, set.getLsbD src.number = (s.attn.count src != 0)) ∧
      exec (.setMask .host tag mask) s = .next
        ({ s.arrived .host with attn := { s.attn with mask := mask } }.replied .host tag (.setMask mask) .ok
          (le16 mask ++ le16 set)).settle) ∧
    exec (.reset .host tag) s = .next
      ({ s.arrived .host with softReset := some false }.replied .host tag .reset .ok []).settle

/-- R140, R16, R125: at the expiry of the host watch every BRICK-owned port has a fail stop and a BRICK-owned sound engine a sound stop,
with outcome WATCH, and the watch flag raises HOST_LINK; a watch that is not ARMED does not expire.
The raises and the expiry of a stopped timer are the model's choice (log entries 14 and 3), and so is that leaving GROUP_WAIT, where a stop
breaks another port's group wait, enters no rest (log entry 17). -/
def Obligations.HostWatchExpiryStops : Prop :=
  ∀ s : State, s.calm = true →
    (∀ since, s.hostUnit.watch = .armed since →
      ∃ t, StopsPorts s t (s.motor.map fun p => p.owner == .brick) (fun p => p.failStopped .watch s.uptime) true ∧
        let u := if s.sound.owner = .brick then t.soundStop .watch else t
        exec .hostWatchExpiry s = .next { u with
          hostUnit := { s.hostUnit with watch := .expired, watchFlag := true }
          attn := { u.attn with hostLink := min 255 (s.attn.hostLink + 1) } }.settle) ∧
    ((s.hostUnit.watch = .off ∨ s.hostUnit.watch = .expired) → exec .hostWatchExpiry s = .next s)

/-- R144, R152, R155: LINK_SETUP replaces every field, with the strike count at 0, the quiet timer started or stopped, and a partial
frame dropped where the rate changes; one field out of its range refuses it whole. R154: LINK_RESET cuts the tablet line's
transmission off, a reply going back to the head of its queue, begins a break, empties the hunter, the request FIFO and both
payload queues, and puts the link in DOWN with its counts at 0. -/
def Obligations.LinkSetupAndReset : Prop :=
  ∀ (tag : Byte) (r : LinkSetupRaw) (s : State), s.ready .host = true →
    let good : Prop := r.rate.toNat ≤ 2 ∧ r.readMask.toNat < 64 ∧ r.setupAllowed.toNat ≤ 1 ∧ r.queryAllowed.toNat ≤ 1 ∧
      r.quietUnit.toNat ≤ 1 ∧ r.quietSteps.toNat ≤ 32 ∧ r.strikeLimit.toNat ≤ 7
    let rate := if r.rate = 0 then 115200 else if r.rate = 1 then 460800 else 921600
    (good → exec (.linkSetup .host tag r) s = .next
      ({ s.arrived .host with
        tablet := if rate = s.link.rate then s.tablet else { s.tablet with held := [], rxTimer := none }
        link := { s.link with
          rate := rate
          readMask := Six.ofFn fun i => r.readMask.getLsbD i.toNat
          setupAllowed := r.setupAllowed = 1
          queryAllowed := r.queryAllowed = 1
          quietUnit := if r.quietUnit = 1 then 250 else 10
          quietSteps := r.quietSteps.toNat
          strikeLimit := r.strikeLimit.toNat
          strikes := 0
          quietTimer := if s.link.state = LinkState.up ∧ 1 ≤ r.quietSteps.toNat then some s.clock else none } }.replied .host tag
        (.linkSetup r) .ok []).settle) ∧
    (¬ good → exec (.linkSetup .host tag r) s = .next
      ((s.arrived .host).replied .host tag (.linkSetup r) .badParam []).settle) ∧
    exec (.linkReset .host tag) s = .next
      ({ s.arrived .host with
        tablet := { s.tablet with
          held := [], rxTimer := none, fifo := [], tx := none
          replies := match s.tablet.tx with
            | some ⟨.reply, body, _⟩ => body :: s.tablet.replies
            | _ => s.tablet.replies }
        link := { s.link with
          relay := [], transmit := [], state := .down, strikes := 0, overflows := 0, checkErrors := 0, quietTimer := none
          breakTimer := some s.clock, k40Ready := true }
        attn := if s.link.state = LinkState.down then s.attn else { s.attn with tablet := min 255 (s.attn.tablet + 1) } }.replied
          .host tag .linkReset .ok
          [BitVec.ofNat 8 s.link.relay.length, BitVec.ofNat 8 s.link.transmit.length]).settle

/-- R147, R149, R151: TABLET_SEND and RELAY_UP append their payload to their queue of 8 payloads and 1024 bytes, or are refused
QUEUE_FULL; K40_READY is evaluated after a RELAY_UP. -/
def Obligations.PayloadsAreQueued : Prop :=
  ∀ (tag : Byte) (payload : List Byte) (s : State), 1 ≤ payload.length → payload.length ≤ 238 →
    (s.ready .host = true →
      let q := s.link.transmit ++ [payload]
      exec (.tabletSend .host tag payload) s = .next
        (if 8 ≤ s.link.transmit.length ∨ 1024 < (q.map List.length).sum then
          (s.arrived .host).replied .host tag (.tabletSend payload) .queueFull []
        else { s.arrived .host with link := { s.link with transmit := q } }.replied .host tag (.tabletSend payload) .ok
          (BitVec.ofNat 8 q.length :: le16 (BitVec.ofNat 16 (q.map List.length).sum))).settle) ∧
    (s.ready .tablet = true →
      let a := s.arrived .tablet
      let q := s.link.relay ++ [payload]
      let n := (q.map List.length).sum
      exec (.relayUp .tablet tag payload) s = .next
        (if 8 ≤ s.link.relay.length ∨ 1024 < n then a.replied .tablet tag (.relayUp payload) .queueFull []
        else { a with link := { a.link with
          relay := q
          k40Ready := if 768 ≤ n ∨ 7 ≤ q.length then false else if n < 512 ∧ q.length ≤ 5 then true else a.link.k40Ready
          } }.replied .tablet tag (.relayUp payload) .ok (BitVec.ofNat 8 q.length :: le16 (BitVec.ofNat 16 n))).settle)

/-- R156, R157: each expiry of the quiet timer is a strike and raises TABLET; at a strike limit of 1..7 the REMOTE-owned ports
and sound are stopped with outcome QUIET and the link goes QUIET, which raises TABLET again; otherwise the timer
starts again. A stopped timer does not expire.
The raises and the expiry of a stopped timer are the model's choice (log entries 14 and 3), and so is that leaving GROUP_WAIT, where a stop
breaks another port's group wait, enters no rest (log entry 17). -/
def Obligations.QuietTimerStrikes : Prop :=
  ∀ s : State, s.calm = true →
    let strikes := min 255 (s.link.strikes + 1)
    (s.link.quietTimer ≠ none →
      ((s.link.strikeLimit = 0 ∨ strikes < s.link.strikeLimit) →
        exec .quietTimerExpiry s = .next { s with
          link := { s.link with strikes := strikes, quietTimer := some s.clock }
          attn := { s.attn with tablet := min 255 (s.attn.tablet + 1) } }.settle) ∧
      (1 ≤ s.link.strikeLimit → s.link.strikeLimit ≤ strikes → s.link.state = .up →
        ∃ t, StopsPorts s t (s.motor.map fun p => p.owner == .remote) (fun p => p.failStopped .quiet s.uptime) true ∧
          let u := if s.sound.owner = .remote then t.soundStop .quiet else t
          exec .quietTimerExpiry s = .next { u with
            link := { s.link with strikes := strikes, state := .quiet, quietTimer := none }
            attn := { u.attn with tablet := min 255 (min 255 (s.attn.tablet + 1) + 1) } }.settle)) ∧
    (s.link.quietTimer = none → exec .quietTimerExpiry s = .next s)

/-! ### Motor ports (chapters 1, 2 and 6) -/

/-- R1, R3: an accepted PORT_SETUP is held as the port's pending configuration, with the acceleration clamped; another encoder
polarity is refused WRONG_STATE while the port is RUNNING or GROUP_WAIT; a field outside its range refuses it BAD_PARAM, and
a port number that names no port BAD_PORT. -/
def Obligations.PortSetupIsHeldPending : Prop :=
  ∀ (tag : Byte) (s : State), s.ready .host = true →
    (∀ (m : Idx6) (c : PortConfig) (a : Half), c.inRanges = true →
      let port : Byte := BitVec.ofNat 8 m.toNat
      let r : PortConfigRaw := { c.raw with accel := a }
      let p := s.port m
      let current := match p.pendingConfig with | some q => q.encoderPolarity | none => p.config.encoderPolarity
      let busy := match p.act with | .running _ => true | .groupWait _ => true | .rest _ => false | .shutdown => false
      exec (.portSetup .host tag port r) s = .next
        (if busy = true ∧ c.encoderPolarity ≠ current then
          (s.arrived .host).replied .host tag (.portSetup port r) .wrongState []
        else
          ((s.arrived .host).modPort m fun p =>
            { p with pendingConfig := some { c with accel := max 100 (min 20000 a.toNat) } }).replied .host tag
              (.portSetup port r) .ok [if 100 ≤ a.toNat ∧ a.toNat ≤ 20000 then 0 else 1]).settle) ∧
    (∀ (m : Idx6) (r : PortConfigRaw),
      (¬ ∃ (c : PortConfig) (a : Half), c.inRanges = true ∧ r = { c.raw with accel := a }) →
      let port : Byte := BitVec.ofNat 8 m.toNat
      exec (.portSetup .host tag port r) s = .next
        ((s.arrived .host).replied .host tag (.portSetup port r) .badParam []).settle) ∧
    (∀ (port : Byte) (r : PortConfigRaw), 6 ≤ port.toNat →
      exec (.portSetup .host tag port r) s = .next
        ((s.arrived .host).replied .host tag (.portSetup port r) .badPort []).settle)

/-- R4, R5: MOVE completes its record and appends it at the tail of the port's queue, or is refused QUEUE_FULL with 8 records
waiting. R3, R4, R19, R99: the refusals by its fields, in their order: BAD_PARAM, BAD_GROUP, BAD_GUARD, and NOT_PERMITTED for a guard of the
tablet's outside its read mask. -/
def Obligations.MoveIsQueued : Prop :=
  (∀ (l : LineId) (tag : Byte) (m : Idx6) (r : MoveRaw) (mv : Move) (s : State),
    s.ready l = true → (s.port m).owner = issuerOf l → s.powerHeld = false →
    MoveCompletes l (match (s.port m).pendingConfig with | some c => c.maxSpeed | none => (s.port m).config.maxSpeed)
      s.link.readMask r mv →
    (mv.group = 0 ∨ s.isMember mv.group m = true) →
    let port : Byte := BitVec.ofNat 8 m.toNat
    exec (.move l tag port r) s = .next
      (if (s.port m).queue.length < 8 then
        ((s.arrived l).modPort m fun p => { p with queue := p.queue ++ [mv] }).replied l tag (.move port r) .ok
          [if mv.asAsked r = true then 0 else 1, BitVec.ofNat 8 ((s.port m).queue.length + 1)]
      else (s.arrived l).replied l tag (.move port r) .queueFull []).settle) ∧
  ∀ (l : LineId) (tag : Byte) (m : Idx6) (r : MoveRaw) (s : State),
    s.ready l = true → (s.port m).owner = issuerOf l → s.powerHeld = false →
    let port : Byte := BitVec.ofNat 8 m.toNat
    let refused (x : Status) : Prop :=
      exec (.move l tag port r) s = .next ((s.arrived l).replied l tag (.move port r) x []).settle
    let grouped : Prop := r.group = 0 ∨ s.isMember r.group.toNat m = true
    (¬ r.fieldsFit → refused .badParam) ∧
    (r.fieldsFit → ¬ grouped → refused .badGroup) ∧
    (r.fieldsFit → grouped → ¬ r.guardFits → refused .badGuard) ∧
    (r.fieldsFit → grouped → r.guardFits → ¬ r.guardAllowed l s.link.readMask → refused .notPermitted)

/-- R3: the port checks of MOVE, MOVE_NOW, QUEUE_CLEAR and PRESET in their order, and a refused request changes nothing but
its reply: BAD_PORT, then NOT_OWNER, then, for the two move requests, POWER_HOLD. -/
def Obligations.DriveRequestRefusals : Prop :=
  ∀ (l : LineId) (tag : Byte) (r : MoveRaw) (stop : Byte) (x : Word) (s : State), s.ready l = true →
    (∀ port : Byte, 6 ≤ port.toNat →
      exec (.move l tag port r) s = .next ((s.arrived l).replied l tag (.move port r) .badPort []).settle ∧
      exec (.moveNow l tag port r) s = .next ((s.arrived l).replied l tag (.moveNow port r) .badPort []).settle ∧
      exec (.queueClear l tag port stop) s = .next
        ((s.arrived l).replied l tag (.queueClear port stop) .badPort []).settle ∧
      exec (.preset l tag port x) s = .next ((s.arrived l).replied l tag (.preset port x) .badPort []).settle) ∧
    (∀ m : Idx6, (s.port m).owner ≠ issuerOf l → let port : Byte := BitVec.ofNat 8 m.toNat
      exec (.move l tag port r) s = .next ((s.arrived l).replied l tag (.move port r) .notOwner []).settle ∧
      exec (.moveNow l tag port r) s = .next ((s.arrived l).replied l tag (.moveNow port r) .notOwner []).settle ∧
      exec (.queueClear l tag port stop) s = .next
        ((s.arrived l).replied l tag (.queueClear port stop) .notOwner []).settle ∧
      exec (.preset l tag port x) s = .next ((s.arrived l).replied l tag (.preset port x) .notOwner []).settle) ∧
    (∀ m : Idx6, (s.port m).owner = issuerOf l → s.powerHeld = true → let port : Byte := BitVec.ofNat 8 m.toNat
      exec (.move l tag port r) s = .next ((s.arrived l).replied l tag (.move port r) .powerHold []).settle ∧
      exec (.moveNow l tag port r) s = .next ((s.arrived l).replied l tag (.moveNow port r) .powerHold []).settle)

/-- R11, R22: MOVE_NOW discards every waiting record, and its own becomes the sole record, with the replacing mark; the running
move goes on. R3, R4, R11, R99: the refusals by its fields, in their order: BAD_PARAM, BAD_GROUP for any group, BAD_GUARD, and NOT_PERMITTED
for a guard of the tablet's outside its read mask.
One raise at most for each port (log entry 14); leaving GROUP_WAIT enters no rest (log entry 17). -/
def Obligations.MoveNowReplacesQueue : Prop :=
  (∀ (l : LineId) (tag : Byte) (m : Idx6) (r : MoveRaw) (mv : Move) (s : State),
    s.ready l = true → (s.port m).owner = issuerOf l → s.powerHeld = false →
    MoveCompletes l (match (s.port m).pendingConfig with | some c => c.maxSpeed | none => (s.port m).config.maxSpeed)
      s.link.readMask r mv →
    let port : Byte := BitVec.ofNat 8 m.toNat
    (mv.group = 0 →
      ∃ t, StopsPorts (s.arrived l) t ((Six.all false).set m true)
        (fun p => { p with
          act := p.act.notWaiting, queue := [mv], replacing := true,
          discarded := min 255 (p.discarded + p.queue.length) }) false ∧
        exec (.moveNow l tag port r) s = .next
          (t.replied l tag (.moveNow port r) .ok [if mv.asAsked r = true then 0 else 1]).settle) ∧
    (mv.group ≠ 0 →
      exec (.moveNow l tag port r) s = .next ((s.arrived l).replied l tag (.moveNow port r) .badGroup []).settle)) ∧
  ∀ (l : LineId) (tag : Byte) (m : Idx6) (r : MoveRaw) (s : State),
    s.ready l = true → (s.port m).owner = issuerOf l → s.powerHeld = false →
    let port : Byte := BitVec.ofNat 8 m.toNat
    let refused (x : Status) : Prop :=
      exec (.moveNow l tag port r) s = .next ((s.arrived l).replied l tag (.moveNow port r) x []).settle
    (¬ r.fieldsFit → refused .badParam) ∧
    (r.fieldsFit → r.group ≠ 0 → refused .badGroup) ∧
    (r.fieldsFit → r.group = 0 → ¬ r.guardFits → refused .badGuard) ∧
    (r.fieldsFit → r.group = 0 → r.guardFits → ¬ r.guardAllowed l s.link.readMask → refused .notPermitted)

/-- R13, R15, R22: QUEUE_CLEAR discards every waiting record, and with the stop flag set a running move ends REPLACED with its
end action.
One raise at most for each port (log entry 14); leaving GROUP_WAIT enters no rest (log entry 17). -/
def Obligations.QueueClearDiscards : Prop :=
  ∀ (l : LineId) (tag : Byte) (m : Idx6) (stops : Bool) (other : Byte) (s : State),
    s.ready l = true → (s.port m).owner = issuerOf l →
    let port : Byte := BitVec.ofNat 8 m.toNat
    let stop : Byte := if stops then 1 else 0
    (2 ≤ other.toNat → exec (.queueClear l tag port other) s = .next
      ((s.arrived l).replied l tag (.queueClear port other) .badParam []).settle) ∧
    ∃ t, StopsPorts (s.arrived l) t ((Six.all false).set m true)
      (fun p =>
        let cleared : Port :=
          { p with queue := [], replacing := false, discarded := min 255 (p.discarded + p.queue.length) }
        match stops, p.act with
        | true, .running r => cleared.endedBy r.move .replaced s.uptime
        | _, a => { cleared with act := a.notWaiting }) stops ∧
      exec (.queueClear l tag port stop) s = .next
        (t.replied l tag (.queueClear port stop) .ok [BitVec.ofNat 8 (s.port m).queue.length]).settle

/-- R12, R24: PRESET in FREE, BRAKED, STALLED and SHUTDOWN sets the position, fills the history with it and clears the raw
count; in RUNNING, HOLDING and GROUP_WAIT it is refused WRONG_STATE, and −2,147,483,648 BAD_PARAM. -/
def Obligations.PresetSetsPosition : Prop :=
  ∀ (l : LineId) (tag : Byte) (m : Idx6) (x : Word) (s : State),
    s.ready l = true → (s.port m).owner = issuerOf l →
    let port : Byte := BitVec.ofNat 8 m.toNat
    let v := x.toInt
    exec (.preset l tag port x) s = .next
      (if v = -2147483648 then (s.arrived l).replied l tag (.preset port x) .badParam []
      else if (s.port m).act ∈ [.rest .free, .rest .braked, .rest .stalled, .shutdown] then
        ((s.arrived l).modPort m fun p =>
          { p with position := v, history := ⟨v, v, v, v, v, v, v, v⟩, rawCount := 0 }).replied l tag (.preset port x) .ok []
      else (s.arrived l).replied l tag (.preset port x) .wrongState []).settle

/-- R19: GROUP_DEFINE sets one entry's member set, after its four checks in their order. -/
def Obligations.GroupDefineSetsEntry : Prop :=
  ∀ (l : LineId) (tag group members : Byte) (s : State), s.ready l = true →
    let set : Six Bool := Six.ofFn fun m => members.getLsbD m.toNat
    let refused (x : Status) : State := (s.arrived l).replied l tag (.groupDefine group members) x []
    exec (.groupDefine l tag group members) s = .next
      (if group.toNat = 0 ∨ 15 < group.toNat then refused .badGroup
      else if members = 0 ∨ 64 ≤ members.toNat then refused .badParam
      else if ∃ m ∈ Idx6.all, set.get m = true ∧ (s.port m).owner ≠ issuerOf l then refused .notOwner
      else if ∃ m ∈ Idx6.all, s.readyFor group.toNat m = true then refused .busy
      else { s.arrived l with groups := s.groups.set (group.toNat - 1) (some set) }.replied l tag
        (.groupDefine group members) .ok []).settle

/-- R2, R16, R22: SET_OWNERS gives every motor port and the sound engine its new owner; a port whose owner changes has a fail
stop with outcome OWNER_CHANGED, and the sound engine a sound stop; one unknown owner refuses the whole request.
One raise at most for each port (log entry 14); leaving GROUP_WAIT enters no rest (log entry 17). -/
def Obligations.SetOwnersFailStops : Prop :=
  ∀ (tag : Byte) (s : State), s.ready .host = true →
    (∀ (owners : Six Owner) (sound : Owner),
      let r : OwnersRaw := ⟨owners.map fun o => BitVec.ofNat 8 o.code, BitVec.ofNat 8 sound.code⟩
      ∃ t, StopsPorts (s.arrived .host) t (Six.ofFn fun m => (s.port m).owner != owners.get m)
          (fun p => p.failStopped .ownerChanged s.uptime) true ∧
        let u : State := { t with motor := Six.ofFn fun m => { t.port m with owner := owners.get m } }
        exec (.setOwners .host tag r) s = .next
          ((if sound = s.sound.owner then u
            else (u.soundStop .ownerChanged).modSound fun e => { e with owner := sound }).replied .host tag
              (.setOwners r) .ok []).settle) ∧
    (∀ r : OwnersRaw, (r.sound :: Idx6.all.map r.motor.get).any (fun b => 2 ≤ b.toNat) = true →
      exec (.setOwners .host tag r) s = .next
        ((s.arrived .host).replied .host tag (.setOwners r) .badParam []).settle)

/-- R17: ALL_STOP ends every running move with outcome ALL_STOP, discards every waiting record, puts every port but a SHUTDOWN
one into BRAKED, and stops the sound engine.
One raise at most for each port (log entry 14); leaving GROUP_WAIT enters no rest (log entry 17). -/
def Obligations.AllStopStopsEverything : Prop :=
  ∀ (tag : Byte) (s : State), s.ready .host = true →
    ∃ t, StopsPorts (s.arrived .host) t (Six.all true)
        (fun p => p.stopInto .allStop (.rest .braked) s.uptime) true ∧
      exec (.allStop .host tag) s = .next ((t.soundStop .allStop).replied .host tag .allStop .ok []).settle

/-- R24: one place forward on the cycle (0,0), (1,0), (1,1), (0,1) adds 1 to the raw count, one place back subtracts 1, a
change of both channels counts an encoder error, and the new pair becomes the reference pair. -/
def Obligations.EncoderTransitionCounts : Prop :=
  ∀ (m : Idx6) (ch1 ch2 : Bool) (s : State), s.calm = true →
    let p := s.port m
    let forward := (ch1, ch2) = (!p.refPair.2, p.refPair.1)
    let back := (ch1, ch2) = (p.refPair.2, !p.refPair.1)
    let both := (ch1, ch2) = (!p.refPair.1, !p.refPair.2)
    exec (.encoderTransition m ch1 ch2) s = .next
      (s.modPort m fun p => { p with
        encLevels := (ch1, ch2)
        refPair := (ch1, ch2)
        rawCount := if forward then max (-32767) (min 32767 (p.rawCount + 1))
          else if back then max (-32767) (min 32767 (p.rawCount - 1)) else p.rawCount
        encErrors := if both then min 65535 (p.encErrors + 1) else p.encErrors }).settle

/-- R1, R23, R25, R26, R37, R38: the regulation event of a port that is not regulated and has nothing to start carries out the
configuration, encoder and measured-speed steps, and nothing else. R9, R20, R29: a port in a rest, or in GROUP_WAIT over one, at which
nothing starts has the records dropped whose group has lost the port, shows GROUP_WAIT where a group head waits, and in HOLDING, or in
GROUP_WAIT over it, regulates its hold point; R16, R22, R40: a stall found there discards its queue and makes no record.
One raise at most for each port at a stall (log entry 14); a port that leaves GROUP_WAIT enters no rest by it (log entry 17). -/
def Obligations.RegulationOfIdlePort : Prop :=
  (∀ (m : Idx6) (s : State), s.calm = true →
    ((s.port m).act = .shutdown ∨
      ((s.port m).queue = [] ∧
        (s.port m).act ∈ [.rest .free, .rest .braked, .rest .stalled, .groupWait .free, .groupWait .braked,
          .groupWait .stalled])) →
    exec (.regulationEvent m) s = .next (s.modPort m fun p => p.atEvent s.supply.product).settle) ∧
  ∀ (m : Idx6) (act : Activity) (s : State), s.calm = true → (s.port m).act ≠ .shutdown →
    let a := s.atDecision m
    a.standing m = some act →
    let held := { (a.port m).driven (a.port m).holdPull with act := act }.strained
    (∀ x : Rest, x ≠ .holding → (act = .rest x ∨ act = .groupWait x) →
      exec (.regulationEvent m) s = .next (a.modPort m fun p => { p with act := act }).settle) ∧
    ((act = .rest .holding ∨ act = .groupWait .holding) →
      (held.stallTimer < held.config.stallTime →
        exec (.regulationEvent m) s = .next (a.modPort m fun _ => held).settle) ∧
      (held.config.stallTime ≤ held.stallTimer →
        ∃ t, StopsPorts (a.modPort m fun _ => held) t ((Six.all false).set m true)
            (fun p => p.stoppedBy .stalled (.rest .stalled) s.uptime) true ∧
          exec (.regulationEvent m) s = .next t.settle))

/-- R9, R10, R23, R28, R34 to R36, R39 to R41: the regulation event of a port that runs a SPEED or TIMED move without a guard
and has nothing waiting: its profile and regulator steps, its stall step, and its timed step, with the ends these bring. R8, R16, R20, R22:
the same for a move of any kind without a guard that does not arrive, a REST among them, whatever waits: a stall discards the queue, a
yielding move that waits for its group goes on marked ready, and after a timed end the next record starts (`RunsOn`).
One raise at most for each port at a stall (log entry 14); a port that leaves GROUP_WAIT enters no rest by it (log entry 17). -/
def Obligations.RegulationRunsSpeedMove : Prop :=
  (∀ (m : Idx6) (r : Running) (v : Int) (d : Option Nat) (s : State), s.calm = true →
    (s.port m).act = .running r → (s.port m).queue = [] → r.move.guard = none →
    r.move.motion = (match d with | some d => .timed v d | none => .speed v) →
    let p1 := (s.port m).atEvent s.supply.product
    let target := max (-(p1.config.maxSpeed : Int)) (min p1.config.maxSpeed v)
    let p2 := p1.driven target
    let phase : Phase := if p2.vp = target then .cruise else .ramp
    let timer := if p2.strains then p2.stallTimer + 5 else 0
    let elapsed := min 4294967295 (r.elapsed + 5)
    let stalls := p2.config.stallTime ≤ timer
    let timedOut := d.any fun n => n ≤ elapsed
    exec (.regulationEvent m) s = .next
      ((s.modPort m fun _ =>
        if stalls then p2.stoppedBy .stalled (.rest .stalled) s.uptime
        else if timedOut then p2.endedBy r.move .done s.uptime
        else { p2 with act := .running { r with phase := phase, elapsed := elapsed }, stallTimer := timer }).raiseIf
          (decide stalls || timedOut) (.motor m)).settle) ∧
  ∀ (m : Idx6) (r : Running) (s : State), s.calm = true →
    let a := s.atDecision m
    a.standing m = some (.running r) → r.move.guard = none → r.arrives (a.port m) = false →
    ∃ t, RunsOn m false (a.modPort m fun p => { p with act := .running r }) t ∧
      exec (.regulationEvent m) s = .next t.settle

/-- R9, R11, R18, R28, R41: a SPEED or TIMED head without a guard that is startable or carries the replacing mark starts at
the port's regulation event: from rest with v_p and I at 0, after a running move with both carried over, that move ended
DONE or REPLACED. R4, R8, R22, R98: the same for a head of any kind, with or without a guard, after the records were dropped whose group has
lost the port (GROUP_BROKEN); the rest of the event is carried out for the move that started (`RunsOn`).
In a stall among those steps: one raise at most for each port (log entry 14), and leaving GROUP_WAIT enters no rest (log entry 17). -/
def Obligations.RegulationStartsHead : Prop :=
  (∀ (m : Idx6) (head : Move) (rest : List Move) (v : Int) (s : State), s.calm = true →
    (s.port m).queue = head :: rest → head.group = 0 → head.guard = none → (s.port m).configsInRanges = true →
    (head.motion = .speed v ∨ ∃ d, head.motion = .timed v d) →
    let p1 := (s.port m).atEvent s.supply.product
    let started (q : Port) : Port :=
      let target := max (-(q.config.maxSpeed : Int)) (min q.config.maxSpeed v)
      let q2 := q.driven target
      { q2 with
        act := .running ⟨head, if q2.vp = target then .cruise else .ramp, 0, false, none, none⟩
        queue := rest
        replacing := false
        stallTimer := if q2.strains then 5 else 0 }
    (∀ x : Rest, (s.port m).act = .rest x →
      exec (.regulationEvent m) s = .next (s.modPort m fun _ => started { p1 with vp := 0, integral := 0 }).settle) ∧
    (∀ r : Running, (s.port m).act = .running r → ((s.port m).replacing = true ∨ r.move.yields = true) →
      exec (.regulationEvent m) s = .next
        ((s.modPort m fun _ => started { p1 with
          outcomes := (if p1.outcomes.length < 4 then p1.outcomes else p1.outcomes.tail) ++
            [⟨r.move.tag, r.move.issuer, if (s.port m).replacing then .replaced else .done, p1.position, s.uptime⟩]
          dropped := if p1.outcomes.length < 4 then p1.dropped else min 255 (p1.dropped + 1) }).raise (.motor m)).settle)) ∧
  ∀ (m : Idx6) (head : Move) (s : State), s.calm = true →
    let a := s.atDecision m
    let p := a.port m
    p.queue.head? = some head →
    (∀ x : Rest, p.act = .rest x → (p.replacing = true ∨ head.group = 0) →
      ∃ t, RunsOn m true (a.modPort m fun p => p.begun false) t ∧ exec (.regulationEvent m) s = .next t.settle) ∧
    (∀ r : Running, p.act = .running r → (p.replacing = true ∨ (head.group = 0 ∧ r.move.yields = true)) →
      let ended := (a.modPort m fun p =>
        p.recorded r.move (if p.replacing then .replaced else .done) s.uptime).raise (.motor m)
      ∃ t, RunsOn m true (ended.modPort m fun p => p.begun true) t ∧ exec (.regulationEvent m) s = .next t.settle)

/-- R30 to R33, R15: the regulation event of a port that runs a POSITION or RELATIVE move without a guard, with nothing
waiting and a stall speed of 0 (no stall, R39): within the tolerance the move ends DONE with its end action, and a HOLD takes
over at once; otherwise it drives toward the target, or brakes to the approach speed, and stays in braking once there. R10, R20, R33: a move
that arrives with records waiting: the next record starts at the same event, following it, and the rest of the event is carried out for it,
which may arrive in its turn; or, where none can start, the end action applies, with GROUP_WAIT over it if a group head waits.
In a stall among those steps: one raise at most for each port (log entry 14), and leaving GROUP_WAIT enters no rest (log entry 17). -/
def Obligations.RegulationRunsPositionMove : Prop :=
  (∀ (m : Idx6) (r : Running) (speed : Nat) (x : Int) (s : State), s.calm = true →
    (s.port m).act = .running r → (s.port m).queue = [] → r.move.guard = none → r.target = some x →
    ((∃ y, r.move.motion = .position speed y) ∨ ∃ n, r.move.motion = .relative speed n) →
    let p1 := (s.port m).atEvent s.supply.product
    p1.config.stallSpeed = 0 → 0 < p1.config.stallTime →
    let dist := x - p1.position
    let top : Int := min speed p1.config.maxSpeed
    let way : Int := if 0 < dist then 1 else -1
    let brakes := r.phase = .braking ∨ r.phase = .approach ∨
      dist.natAbs ≤ (p1.vp.natAbs ^ 2 + 2 * p1.config.accel - 1) / (2 * p1.config.accel) + p1.vp.natAbs / 200
    let target := way * (if brakes then min 50 top else top)
    let p2 := p1.driven target
    let phase : Phase :=
      if brakes then (if p2.vp = target then .approach else .braking) else if p2.vp = target then .cruise else .ramp
    exec (.regulationEvent m) s = .next
      (if dist.natAbs ≤ p1.config.tolerance then
        (s.modPort m fun _ =>
          let ended := p1.endedBy r.move .done s.uptime
          if r.move.endAction = .hold then ended.driven 0 else ended).raise (.motor m)
      else s.modPort m fun _ =>
        { p2 with
          act := .running { r with phase := phase, elapsed := min 4294967295 (r.elapsed + 5) }, stallTimer := 0 }).settle) ∧
  ∀ (m : Idx6) (r : Running) (s : State), s.calm = true →
    let a := s.atDecision m
    a.standing m = some (.running r) → r.arrives (a.port m) = true →
    ∃ t, RunsOn m false (a.modPort m fun p => { p with act := .running r }) t ∧
      exec (.regulationEvent m) s = .next t.settle

/-- R101 to R106, R15, R18: the guard of a running SPEED move is evaluated after the regulator step: on a usable reading it
fires by its comparison or records the value and sequence it saw; a strict guard without a usable reading ends the move
GUARD_LOST. Nothing waits, and with a stall speed of 0 no stall is found. R10, R20, R41: the same for a guarded move of any kind that does
not arrive, whatever waits: where the guard ends it, the next record starts or the end action applies, and the stall and timed steps are
passed over; where it does not, they are carried out (`RunsOn`).
One raise at most for each port at a stall (log entry 14); a port that leaves GROUP_WAIT enters no rest by it (log entry 17). -/
def Obligations.GuardEndsMove : Prop :=
  (∀ (m : Idx6) (r : Running) (v : Int) (g : Guard) (s : State), s.calm = true →
    (s.port m).act = .running r → (s.port m).queue = [] → r.move.motion = .speed v → r.move.guard = some g → g.index ≤ 3 →
    let p1 := (s.port m).atEvent s.supply.product
    p1.config.stallSpeed = 0 → 0 < p1.config.stallTime →
    let target := max (-(p1.config.maxSpeed : Int)) (min p1.config.maxSpeed v)
    let p2 := p1.driven target
    let phase : Phase := if p2.vp = target then .cruise else .ramp
    let rec_ := (s.sensorAt g.sensor).record
    let usable : Prop := rec_.status = .fresh ∧ g.index < rec_.count
    let value := [rec_.values.v0, rec_.values.v1, rec_.values.v2, rec_.values.v3].getD g.index 0
    let fires : Prop :=
      (g.comparison = .atLeast ∧ g.threshold ≤ value) ∨ (g.comparison = .atMost ∧ value ≤ g.threshold) ∨
      (∃ v0 q0, r.prev = some (v0, q0) ∧
        ((g.comparison = .crossUp ∧ v0 < g.threshold ∧ g.threshold ≤ value) ∨
          (g.comparison = .crossDown ∧ g.threshold < v0 ∧ value ≤ g.threshold) ∨
          (g.comparison = .changed ∧ q0 ≠ rec_.sequence ∧ v0 ≠ value)))
    let goesOn (prev : Option (Int × Half)) : State := s.modPort m fun _ =>
      { p2 with
        act := .running { r with phase := phase, elapsed := min 4294967295 (r.elapsed + 5), prev := prev }, stallTimer := 0 }
    let ends (o : OutcomeCode) : State := (s.modPort m fun _ => p2.endedBy r.move o s.uptime).raise (.motor m)
    (usable → fires → exec (.regulationEvent m) s = .next (ends .guard).settle) ∧
    (usable → ¬ fires → exec (.regulationEvent m) s = .next (goesOn (some (value, rec_.sequence))).settle) ∧
    (¬ usable → g.strict = true → exec (.regulationEvent m) s = .next (ends .guardLost).settle) ∧
    (¬ usable → g.strict = false → exec (.regulationEvent m) s = .next (goesOn r.prev).settle)) ∧
  ∀ (m : Idx6) (r : Running) (s : State), s.calm = true →
    let a := s.atDecision m
    a.standing m = some (.running r) → r.move.guard.isSome = true → r.arrives (a.port m) = false →
    ∃ t, RunsOn m false (a.modPort m fun p => { p with act := .running r }) t ∧
      exec (.regulationEvent m) s = .next t.settle

/-- R9 step 5, R20, R21: a group starts at the regulation event of a member that finds every other member ready: on every member, the
event's own among them, the group head leaves the queue and becomes the running move, with v_p and I kept after a move, which ends DONE,
and 0 from a rest; every other member is left so, nothing else changes, and the rest of the event is carried out for the move started on
the event's own port (`RunsOn`).
In a stall among those steps: one raise at most for each port (log entry 14), and leaving GROUP_WAIT enters no rest (log entry 17). -/
def Obligations.GroupStartsTogether : Prop :=
  ∀ (m : Idx6) (head : Move) (s : State), s.calm = true →
    let a := s.atDecision m
    let p := a.port m
    p.queue.head? = some head → head.group ≠ 0 → p.replacing = false → a.groupLacks head.group m = false →
    ((∃ x, p.act = .rest x ∨ p.act = .groupWait x) ∨ ∃ r, p.act = .running r ∧ r.move.yields = true) →
    ∃ t, RunsOn m true (a.groupStarted m head.group false) t ∧ exec (.regulationEvent m) s = .next t.settle

/-! ### Supply monitor and converter (chapter 3) -/

/-- R46: POWER_SETUP, from the host line only, replaces all four thresholds, or none where one lies outside its range or they are out
of order; their values after a reset are the table's. The new voltages are not used yet: a recovery hold that expires before the next
filter update goes to the state, S and ceilings that it would have gone to without them. At that update (which is a battery sample) the
state, the hold and, in LOW, S are set from them, and the new current limit is used at the next current reading. That the expiry of a
recovery hold is bound by this too, against R48's plain V_low, is the model's reading of R46 (log entry 22). -/
def Obligations.PowerSetupReplacesThresholds : Prop :=
  ∀ (tag : Byte) (low critical restore limit : Half),
    let good : Prop := (∀ x ∈ [low, critical, restore], 5000 ≤ x.toNat ∧ x.toNat ≤ 9500) ∧
      500 ≤ limit.toNat ∧ limit.toNat ≤ 6000 ∧ critical.toNat < restore.toNat ∧ restore.toNat ≤ low.toNat
    let r := Request.powerSetup low critical restore limit
    (∀ s : State, s.ready .host = true →
      (good → exec (.powerSetup .host tag low critical restore limit) s = .next
        ({ s.arrived .host with supply := { s.supply with
          vLow := low.toNat, vCritical := critical.toNat, vRestore := restore.toNat, limit := limit.toNat
          } }.replied .host tag r .ok []).settle) ∧
      (¬ good → exec (.powerSetup .host tag low critical restore limit) s = .next
        ((s.arrived .host).replied .host tag r .badParam []).settle)) ∧
    (∀ s : State, s.ready .tablet = true → exec (.powerSetup .tablet tag low critical restore limit) s = .next
      ((s.arrived .tablet).replied .tablet tag r .notPermitted []).settle) ∧
    (good → ∀ s : State,
      let set : State := { s with supply := { s.supply with
        vLow := low.toNat, vCritical := critical.toNat, vRestore := restore.toNat, limit := limit.toNat } }
      set.holdExpires = { s.holdExpires with supply := { s.holdExpires.supply with
        vLow := low.toNat, vCritical := critical.toNat, vRestore := restore.toNat, limit := limit.toNat } } ∧
      (∀ v, let u := (set.batterySample v).supply
        u.lowInUse = low.toNat ∧ u.criticalInUse = critical.toNat ∧
        (s.supply.mode ≠ .critical → (u.mode = .critical ↔ u.vf ≤ critical.toNat)) ∧
        (s.supply.mode ∈ [SupplyMode.pending, .normal, .low] → (u.mode = .normal ↔ low.toNat ≤ u.vf)) ∧
        (s.supply.mode = .critical → (u.mode = .recovery ↔ restore.toNat ≤ u.vf)) ∧
        (s.supply.mode = .recovery → u.mode = .recovery → (u.hold = none ↔ u.vf < restore.toNat)) ∧
        (u.mode = .low → (u.scale : Int) = max 500 (min 1000
          (500 + (500 * ((u.vf : Int) - critical.toNat)).tdiv ((low.toNat : Int) - critical.toNat))))) ∧
      ∀ total, (set.currentReading total).supply.foldback =
        if limit.toNat < total then max 200 (s.supply.foldback - 100)
        else if total < limit.toNat * 9 / 10 then min 1000 (s.supply.foldback + 25) else s.supply.foldback) ∧
    State.reset.supply.vLow = 6600 ∧ State.reset.supply.vCritical = 5800 ∧ State.reset.supply.vRestore = 6200 ∧
    State.reset.supply.limit = 3000

/-- R42, R43, R63: a channel that becomes due is entered in the due list, its next due time a fixed step later, and an idle
converter begins at once: battery first, then current, then the sensor ports onward from the one after the last served. A
port that is not in ANALOG mode, or is held by an overload, has no due times. -/
def Obligations.DueChannelsAreServedInOrder : Prop :=
  (∀ s : State, s.calm = true →
    exec .supplyChannelsDue s = .next { s with conv := { s.conv with
      due := ⟨s.conv.inFlight.isSome, true, s.conv.due.sensor⟩
      inFlight := match s.conv.inFlight with | some f => some f | none => some ⟨.battery, false⟩
      batteryDue := s.conv.batteryDue + 10
      currentDue := s.conv.currentDue + 10 } }) ∧
  (∀ (i : Idx6) (s : State), s.calm = true →
    (∀ w, (s.sensorAt i).work = .analog w → (s.sensorAt i).record.status ≠ .fault →
      exec (.analogChannelDue i) s = .next { s with
        sensor := s.sensor.set i { s.sensorAt i with work := .analog { w with dueAt := w.dueAt + w.period } }
        conv := match s.conv.inFlight with
          | some _ => { s.conv with due := { s.conv.due with sensor := s.conv.due.sensor.set i true } }
          | none => { s.conv with inFlight := some ⟨.sensor i, false⟩, lastServed := i } }) ∧
    (((s.sensorAt i).mode ≠ .analog ∨ (s.sensorAt i).record.status = .fault) →
      exec (.analogChannelDue i) s = .next s)) ∧
  (∀ c : Converter, c.inFlight = none →
    let begun (ch : Channel) : Prop := c.begin.inFlight = some ⟨ch, false⟩
    let place (i : Idx6) : Nat := (i.toNat + 5 - c.lastServed.toNat) % 6
    (c.due.battery = true → begun .battery) ∧
    (c.due.battery = false → c.due.current = true → begun .current) ∧
    (∀ i, c.due.battery = false → c.due.current = false → c.due.sensor.get i = true →
      (∀ j, c.due.sensor.get j = true → place i ≤ place j) → begun (.sensor i) ∧ c.begin.lastServed = i) ∧
    (c.due = ⟨false, false, Six.all false⟩ → c.begin = c))

/-- R44 to R51, R56: a battery sample brings the thresholds that stand into use (R46; log entry 22), updates the filter, the supply state, the recovery hold, S and the ceilings, and a
current reading the foldback factor and the ceilings. The CRITICAL entry apart, they change nothing else but the POWER causes; an
applied duty above its new ceiling is cut (R37) and the gain follows (R122). -/
def Obligations.ConversionsUpdateSupply : Prop :=
  ∀ (raw : BitVec 12) (f : InFlight) (s : State), s.calm = true → s.conv.inFlight = some f →
    let u := s.supply
    let recomputed (t : State) (scale factor : Nat) : State :=
      let product := scale * factor / 1000
      { t with
        motor := s.motor.map fun p : Port =>
          let c := min p.config.dutyLimit product
          { p with ceiling := c, duty := max (-(c : Int)) (min c p.duty) }
        sound := { s.sound with ceiling := product, gain := s.sound.volume * product / 1000 } }
    let powered (t : State) (causes : PowerCauses) : State :=
      { t with supply := { t.supply with causes := causes }, attn := { s.attn with power := min 255 (s.attn.power + 1) } }
    let idle : Converter := { s.conv with inFlight := none }
    (f.channel = .battery →
      let v := raw.toNat * 12000 / 4095
      let vf : Nat := if u.seeded then ((u.vf : Int) + ((v : Int) - u.vf).tdiv 8).toNat else v
      let mode : SupplyMode := match u.mode with
        | .pending | .normal => if vf ≤ u.vCritical then .critical else if vf < u.vLow then .low else .normal
        | .low => if vf ≤ u.vCritical then .critical else if u.vLow ≤ vf then .normal else .low
        | .critical => if u.vRestore ≤ vf then .recovery else .critical
        | .recovery => if vf ≤ u.vCritical then .critical else .recovery
      let hold : Timer := match u.mode with
        | .critical => if mode = .recovery then some s.clock else u.hold
        | .recovery =>
          if mode = .recovery then
            (if vf < u.vRestore then none else match u.hold with | some t => some t | none => some s.clock)
          else none
        | _ => u.hold
      let scale : Nat :=
        if mode = u.mode ∧ mode ≠ .low then u.scale
        else match mode with
          | .normal => 1000
          | .low => (max 500 (min 1000
              (500 + (500 * ((vf : Int) - u.vCritical)).tdiv ((u.vLow : Int) - u.vCritical)))).toNat
          | _ => 0
      let base : State := { s with
        conv := idle, supply := { u with
          lastV := v, vf := vf, seeded := true, lowInUse := u.vLow, criticalInUse := u.vCritical
          mode := mode, hold := hold, scale := scale } }
      (mode = u.mode → exec (.conversionComplete raw) s = .next
        (if mode = .low ∧ scale ≠ u.scale then recomputed base scale u.foldback else base).settle) ∧
      (mode ≠ u.mode → mode ≠ .critical → exec (.conversionComplete raw) s = .next
        (powered (recomputed base scale u.foldback) { u.causes with level := true }).settle)) ∧
    (f.channel = .current →
      let total := raw.toNat * 8000 / 4095
      let factor := if u.limit < total then max 200 (u.foldback - 100)
        else if total < u.limit * 9 / 10 then min 1000 (u.foldback + 25) else u.foldback
      let base : State := { s with conv := idle, supply := { u with itotal := total, foldback := factor } }
      exec (.conversionComplete raw) s = .next
        (if factor = u.foldback then base
        else if u.foldback = 1000 ∨ factor = 1000 then
          powered (recomputed base u.scale factor) { u.causes with foldback := true }
        else recomputed base u.scale factor).settle) ∧
    ((∃ i, f.channel = .sensor i) → f.dropped = true →
      exec (.conversionComplete raw) s = .next { s with conv := idle.begin })

/-- R47 to R49, R51 to R54, R56: a battery sample that takes the supply into CRITICAL stops every port with outcome POWER and puts it into
SHUTDOWN, stops the sound engine with outcome POWER, and sets the causes CRITICAL and LEVEL; the expiry of the recovery hold takes
the supply to NORMAL or LOW by the V_low and V_critical that the latest filter update used, its ceilings set, every SHUTDOWN port to BRAKED, with
cause RESTORED. That the expiry takes those two, and not the thresholds a POWER_SETUP has set since, is the model's reading of R46 (log
entry 22). How often POWER is raised and that a stopped hold does nothing are the model's choice (log entries 14 and 3). -/
def Obligations.CriticalEntryAndReturn : Prop :=
  (∀ (raw : BitVec 12) (s : State), s.calm = true → s.conv.inFlight = some ⟨.battery, false⟩ →
    let u := s.supply
    let v := raw.toNat * 12000 / 4095
    let vf : Nat := if u.seeded then ((u.vf : Int) + ((v : Int) - u.vf).tdiv 8).toNat else v
    u.mode ≠ .critical → vf ≤ u.vCritical →
    let a : State := { s with
      motor := s.motor.map fun p : Port => { p with ceiling := 0, duty := 0 }
      sound := { s.sound with ceiling := 0, gain := 0 } }
    ∃ t, StopsPorts a t (Six.all true) (fun p => p.stoppedBy .power .shutdown s.uptime) true ∧
      let w := t.soundStop .power
      exec (.conversionComplete raw) s = .next { w with
        conv := { s.conv with inFlight := none }
        supply := { u with
          lastV := v, vf := vf, seeded := true, lowInUse := u.vLow, criticalInUse := u.vCritical, mode := .critical, scale := 0
          hold := if u.mode = SupplyMode.recovery then none else u.hold
          causes := { u.causes with critical := true, level := true } }
        attn := { w.attn with power := min 255 (min 255 (s.attn.power + 1) + 1) } }.settle) ∧
  (∀ s : State, s.calm = true →
    let u := s.supply
    let mode : SupplyMode := if u.lowInUse ≤ u.vf then .normal else .low
    let scale : Nat := if u.lowInUse ≤ u.vf then 1000 else
      (max 500 (min 1000 (500 + (500 * ((u.vf : Int) - u.criticalInUse)).tdiv ((u.lowInUse : Int) - u.criticalInUse)))).toNat
    let product := scale * u.foldback / 1000
    (u.mode = .recovery → u.hold ≠ none → exec .recoveryHoldExpiry s = .next { s with
      supply := { u with mode := mode, hold := none, scale := scale, causes := { u.causes with restored := true } }
      motor := s.motor.map fun p : Port =>
        let c := min p.config.dutyLimit product
        if p.act = Activity.shutdown then
          { p with ceiling := c, act := .rest .braked, stallTimer := 0, vp := 0, integral := 0, duty := 0 }
        else { p with ceiling := c, duty := max (-(c : Int)) (min c p.duty) }
      sound := { s.sound with ceiling := product, gain := s.sound.volume * product / 1000 }
      attn := { s.attn with power := min 255 (s.attn.power + 1) } }.settle) ∧
    ((u.mode ≠ .recovery ∨ u.hold = none) → exec .recoveryHoldExpiry s = .next s))

/-- R14, R57, R73, R97, R109, R158, R168, R170: the queries change nothing but the reply queue, and answer their layouts, byte for byte:
PORT_QUERY 75 bytes, POWER_QUERY 24, SENSOR_READ 26, LINK_STATUS 24, SOUND_SETUP with QUERY 22, and SMART_PROFILE 11, or 15 and five and
a name for every mode. PORT_QUERY, SENSOR_READ and SMART_PROFILE of no port are refused BAD_PORT, SENSOR_READ and SMART_PROFILE from the tablet
outside the read mask NOT_PERMITTED (R3, R73, R97). POWER_QUERY's cause flags are those that stand; which they are between a reset and the first battery sample is
log entry 21. -/
def Obligations.QueriesChangeNothing : Prop :=
  ∀ (l : LineId) (tag : Byte) (s : State), s.ready l = true →
    let a := s.arrived l
    let n1 (n : Nat) : List Byte := [BitVec.ofNat 8 n]
    let n2 (n : Nat) : List Byte := le16 (BitVec.ofNat 16 n)
    let n4 (n : Nat) : List Byte := le32 (BitVec.ofNat 32 n)
    let z2 (z : Int) : List Byte := le16 (BitVec.ofInt 16 z)
    let z4 (z : Int) : List Byte := le32 (BitVec.ofInt 32 z)
    let flag (b : Bool) : List Byte := [if b then 1 else 0]
    (∀ port : Byte, 6 ≤ port.toNat → (l = .host ∨ s.link.queryAllowed = true) →
      exec (.portQuery l tag port) s = .next (a.replied l tag (.portQuery port) .badPort []).settle) ∧
    (∀ port : Byte, (port.toNat = 0 ∨ 6 < port.toNat) →
      exec (.sensorRead l tag port) s = .next (a.replied l tag (.sensorRead port) .badPort []).settle ∧
      exec (.smartProfile l tag port) s = .next (a.replied l tag (.smartProfile port) .badPort []).settle) ∧
    (∀ i : Idx6, l = .tablet → s.link.readMask.get i = false → let port : Byte := BitVec.ofNat 8 (i.toNat + 1)
      exec (.smartProfile l tag port) s = .next (a.replied l tag (.smartProfile port) .notPermitted []).settle) ∧
    (∀ m : Idx6, (l = .host ∨ s.link.queryAllowed = true) → let port : Byte := BitVec.ofNat 8 m.toNat
      let p := s.port m
      let c := p.config
      let running : List Byte := match p.act with
        | .running r => [1] ++ n1 r.move.motion.code ++ le16 r.move.tag ++ n4 r.elapsed
        | _ => [0, 0, 0, 0, 0, 0, 0, 0]
      let data : List Byte :=
        n1 c.motorPolarity.code ++ n1 c.encoderPolarity.code ++ n2 c.maxSpeed ++ n2 c.accel ++ n2 c.kp ++ n1 c.ki ++
          n2 c.kf ++ n2 c.dutyLimit ++ n2 c.stallDuty ++ n2 c.stallSpeed ++ n2 c.stallTime ++ n1 c.tolerance ++
          n2 c.holdSpeed ++ n1 c.failAction.code ++ flag p.pendingConfig.isSome ++
        n1 p.owner.code ++ n1 p.act.code ++ n1 p.act.phaseCode ++ n1 p.act.waitCode ++
        z4 p.position ++ z2 p.vp ++ z4 p.vm ++ z2 p.duty ++ n2 p.ceiling ++ n2 p.stallTimer ++ n2 p.encErrors ++
        running ++
        n1 p.queue.length ++
        ((List.range 8).map fun k => match p.queue[k]? with | some mv => le16 mv.tag | none => [0, 0]).flatten ++
        flag (match p.act with | .running r => r.ready | _ => false) ++
        n1 p.outcomes.length ++ n1 p.dropped ++ n1 p.discarded
      data.length = 75 ∧ exec (.portQuery l tag port) s = .next (a.replied l tag (.portQuery port) .ok data).settle) ∧
    ((l = .host ∨ s.link.queryAllowed = true) →
      let u := s.supply
      let data : List Byte :=
        n1 u.mode.code ++ n2 u.vf ++ n2 u.lastV ++ n2 u.itotal ++ n2 u.scale ++ n2 u.foldback ++
          n2 (u.scale * u.foldback / 1000) ++ n2 (match u.hold with | some t => min 500 (s.clock - t) | none => 0) ++
          n2 u.vLow ++ n2 u.vCritical ++ n2 u.vRestore ++ n2 u.limit ++ n1 u.causes.bits
      data.length = 24 ∧ exec (.powerQuery l tag) s = .next (a.replied l tag .powerQuery .ok data).settle) ∧
    (∀ i : Idx6, let port : Byte := BitVec.ofNat 8 (i.toNat + 1)
      let r := (s.sensorAt i).record
      exec (.sensorRead l tag port) s = .next
        (if l = .host ∨ s.link.readMask.get i = true then
          a.replied l tag (.sensorRead port) .ok
            (n1 r.mode.code ++ n1 r.status.code ++ le16 r.sequence ++ le32 r.timestamp ++ n1 r.count ++ n1 r.decimals ++
              z4 r.values.v0 ++ z4 r.values.v1 ++ z4 r.values.v2 ++ z4 r.values.v3)
        else a.replied l tag (.sensorRead port) .notPermitted []).settle) ∧
    (let k := a.link
      let data : List Byte :=
        n1 k.state.code ++ n4 k.rate ++ flag k.k40Ready ++ flag k.radioReady ++ n1 k.strikes ++ n2 k.overflows ++
          n2 k.checkErrors ++ n1 k.relay.length ++ n2 (k.relay.map List.length).sum ++ n1 k.transmit.length ++
          n2 (k.transmit.map List.length).sum ++ n1 (if k.quietUnit = 250 then 1 else 0) ++ n1 k.quietSteps ++
          n1 k.strikeLimit ++ n1 (Idx6.all.map fun i => if k.readMask.get i then 2 ^ i.toNat else 0).sum ++
          flag k.setupAllowed ++ flag k.queryAllowed
      data.length = 24 ∧ exec (.linkStatus l tag) s = .next (a.replied l tag .linkStatus .ok data).settle) ∧
    (∀ (volume : Byte) (threshold : Half), let r := Request.soundSetup 0 volume threshold
      let e := s.sound
      let playing (p : Playing) : List Byte :=
        (1 : Byte) :: BitVec.ofNat 8 (match p.ctx with | .tone _ => 0 | .stream _ => 1) :: le16 p.tag
      let player (p : Playing) : Nat := match p.ctx with | .tone _ => 1 | .stream c => if c.starved then 3 else 2
      let front : List Byte := match e.player with
        | .idle => [0, 0, 0, 0, 0, 0]
        | .playing p => n1 (player p) ++ [0] ++ playing p
        | .immediate _ none => [4, 0, 0, 0, 0, 0]
        | .immediate _ (some p) => [4] ++ n1 (player p) ++ playing p
      let data : List Byte := front ++
        n1 e.queue.length ++ n2 e.ring.length ++ n1 e.marks.length ++ n1 e.volume ++ n2 e.threshold ++ n2 e.ceiling ++
        n1 e.gain ++ n2 e.underruns ++ n1 e.outcomes.length ++ n1 e.dropped ++ n1 e.discarded
      data.length = 21 ∧ exec (.soundSetupQuery l tag volume threshold) s = .next
        (if e.owner = issuerOf l then a.replied l tag r .ok (0 :: data)
        else a.replied l tag r .notOwner []).settle) ∧
    (∀ i : Idx6, (l = .host ∨ s.link.readMask.get i = true) → let port : Byte := BitVec.ofNat 8 (i.toNat + 1)
      let c := (s.sensorAt i).smart
      let summary : List Byte :=
        n1 (s.sensorAt i).mode.code ++ flag c.running ++ n1 c.lineState.code ++ n4 c.rate ++
          n1 (match c.selected with | some k => k | none => 0xFF) ++ n2 c.errors ++ n1 (32 - (c.cmdFifo.map List.length).sum)
      summary.length = 11 ∧
        (((s.sensorAt i).work ≠ .smart ∨ c.running = false ∨ c.lineState = .listen ∨ c.lineState = .announcing) →
          exec (.smartProfile l tag port) s = .next
            (a.replied l tag (.smartProfile port) .wrongState summary).settle) ∧
        (∀ p : Profile, (s.sensorAt i).work = .smart → c.running = true → c.lineState ≠ .listen → c.lineState ≠ .announcing →
          c.profile = some p → p.isWhole = true →
          let modes : List Byte := le16 p.kind ++ n1 p.modeCount ++ n1 p.maxRate ++
            ((List.range p.modeCount).map fun k => match p.modes.find? fun m => m.index == k with
              | some m => n1 k ++ n1 m.count ++ n1 m.format.code ++ n1 m.decimals ++ n1 m.name.length ++ m.name
              | none => []).flatten
          exec (.smartProfile l tag port) s = .next
            (a.replied l tag (.smartProfile port) .ok (summary ++ modes)).settle))

/-! ### Sensor ports and smart lines (chapters 4 and 5) -/

/-- R58 to R65, R68, R71, R75, R76, R80, R83: an accepted SENSOR_SETUP is a mode entry: the old work ended, supply, work, policy and record of
the new mode as its rule gives, the cause MODE raised; the clamped flag where a period or an interval was clamped. A floating
input reads a free value (log entry 10). Refusals, in their order: BAD_PORT, NOT_PERMITTED, and BAD_PARAM for a field of R61's that the mode
or the policy uses and that is out of its range. R58, R65, R72, R77, R82: what the port's supply and pins then are, in every mode.
The rates kept outside SMART mode are log entry 11. -/
def Obligations.SensorSetupEntersMode : Prop :=
  (∀ (l : LineId) (tag : Byte) (r : SensorSetupRaw) (s : State), s.ready l = true →
    (∀ port : Byte, (port.toNat = 0 ∨ 6 < port.toNat) →
      exec (.sensorSetup l tag port r) s = .next ((s.arrived l).replied l tag (.sensorSetup port r) .badPort []).settle) ∧
    (∀ i : Idx6, let port : Byte := BitVec.ofNat 8 (i.toNat + 1)
      let permitted : Prop := l = .host ∨ (s.link.setupAllowed = true ∧ s.link.readMask.get i = true)
      (¬ permitted → exec (.sensorSetup l tag port r) s = .next
        ((s.arrived l).replied l tag (.sensorSetup port r) .notPermitted []).settle) ∧
      (permitted → ¬ r.fieldsFit → exec (.sensorSetup l tag port r) s = .next
        ((s.arrived l).replied l tag (.sensorSetup port r) .badParam []).settle) ∧
      ∀ (policy : Policy) (clamped : Bool), permitted →
        ((r.policy = 0 ∧ policy = .none ∧ clamped = false) ∨ (r.policy = 1 ∧ policy = .every ∧ clamped = false) ∨
          (r.policy = 2 ∧ r.delta.toNat ≤ 2147483647 ∧ policy = .change r.delta.toNat none ∧ clamped = false) ∨
          (r.policy = 3 ∧ policy = .interval (max 10 (min 10000 r.interval.toNat)) (some s.clock) ∧
            clamped = decide (r.interval.toNat < 10 ∨ 10000 < r.interval.toNat))) →
        let p := s.sensorAt i
        let a := s.arrived l
        let stopped (maxRate preferred : Nat) (running : Bool) : Smart :=
          { Smart.reset with maxRate := maxRate, preferred := preferred, running := running }
        let entered (work : SensorWork) (on : Bool) (smart : Smart) (rec_ : Reading) (due : Bool) (free : Nat) : State :=
          { a with
            sensor := s.sensor.set i { p with
              work := work, supplyOn := on, smart := smart, policy := policy, causes := { p.causes with mode := true }
              record := { rec_ with sequence := p.record.sequence + 1, timestamp := s.uptime, decimals := 0 } }
            conv := { s.conv with
              due := { s.conv.due with sensor := s.conv.due.sensor.set i due }
              inFlight := match s.conv.inFlight with
                | some f => some (if f.channel = Channel.sensor i then { f with dropped := true } else f)
                | none => none }
            freeIdx := s.freeIdx + free
            attn := { a.attn with sensor := a.attn.sensor.set i (min 255 (s.attn.sensor.get i + 1)) } }
        let answers (t : State) (clampedPeriod : Bool) : Prop :=
          exec (.sensorSetup l tag port r) s = .next
            (t.replied l tag (.sensorSetup port r) .ok [if clampedPeriod || clamped then 1 else 0]).settle
        let keep := stopped p.smart.maxRate p.smart.preferred false
        let read (d : Drive) (pull : Pull) (used : Nat) : Bool × Nat := match d, pull with
          | .driven level, _ => (level, used)
          | .nothing, .up => (true, used)
          | .nothing, .down => (false, used)
          | .nothing, .none => (Config.freeLevel (s.freeIdx + used), used + 1)
        (r.mode = 0 → answers (entered .off false keep ⟨.off, .none, 0, 0, 0, ⟨0, 0, 0, 0⟩, 0⟩ false 0) false) ∧
        (r.mode = 1 → r.averaging.toNat ∈ [1, 2, 4, 8] →
          answers (entered (.analog ⟨max 5 (min 1000 r.samplePeriod.toNat), r.averaging.toNat, [], s.clock⟩) true keep
            ⟨.analog, .stale, 0, 0, 3, ⟨0, 0, 0, 0⟩, 0⟩ true 0)
            (decide (r.samplePeriod.toNat < 5 ∨ 1000 < r.samplePeriod.toNat))) ∧
        (∀ (pullA pullB : Pull) (dirA dirB : Direction) (edgeA edgeB : Edge), r.mode = 2 →
          pullOf r.pullA = some pullA → pullOf r.pullB = some pullB → directionOf r.directionA = some dirA →
          directionOf r.directionB = some dirB → edgeOf r.edgeA = some edgeA → edgeOf r.edgeB = some edgeB →
          r.debounceA.toNat ≤ 50 → r.debounceB.toNat ≤ 50 →
          let level (dir : Direction) (d : Drive) (pull : Pull) (used : Nat) : Bool × Nat := match dir with
            | .input => read d pull used
            | .outputLow => (false, used)
            | .outputHigh => (true, used)
          let x := level dirA p.driveA pullA 0
          let y := level dirB p.driveB pullB x.2
          answers (entered (.digital ⟨pullA, dirA, r.debounceA.toNat, edgeA, x.1, none, 0⟩
            ⟨pullB, dirB, r.debounceB.toNat, edgeB, y.1, none, 0⟩) true keep
            ⟨.digital, .fresh, 0, 0, 4, ⟨if x.1 then 1 else 0, if y.1 then 1 else 0, 0, 0⟩, 0⟩ false y.2) false) ∧
        (∀ (pullA pullB : Pull) (falling gated : Bool), r.mode = 3 → pullOf r.pullA = some pullA →
          pullOf r.pullB = some pullB → r.countingEdge = (if falling then 1 else 0) → r.gate = (if gated then 1 else 0) →
          let x := read p.driveA pullA 0
          let y := read p.driveB pullB x.2
          answers (entered (.counter ⟨pullA, pullB, falling, gated, x.1 == falling, r.preset, 0, none, y.1⟩) true keep
            ⟨.counter, .fresh, 0, 0, 3, ⟨r.preset.toInt, 0, if y.1 then 1 else 0, 0⟩, 0⟩ false y.2) false) ∧
        (r.mode = 4 → r.maxRate.toNat ≤ 3 → r.preferred.toNat ≤ 7 →
          answers (entered .smart true (stopped r.maxRate.toNat r.preferred.toNat true)
            ⟨.smart, .stale, 0, 0, 0, ⟨0, 0, 0, 0⟩, 0⟩ false 0) false))) ∧
  ∀ (i : Idx6) (s : State), s.inReset = false →
    let p := s.sensorAt i
    let pin := s.pinRole i
    let digital (q : DigitalPin) : PinRole := match q.direction with
      | .input => .input q.pull
      | .outputLow => if p.record.status = .fault then .highImpedance else .output false
      | .outputHigh => if p.record.status = .fault then .highImpedance else .output true
    s.supplyPin i = p.supplyOn ∧
      (p.work = .off → s.pin1Role i = .highImpedance ∧ pin .a = .highImpedance ∧ pin .b = .highImpedance) ∧
      (∀ w, p.work = .analog w → s.pin1Role i = .sampled ∧ pin .a = .input .none ∧ pin .b = .input .none) ∧
      (∀ a b, p.work = .digital a b → s.pin1Role i = .highImpedance ∧ pin .a = digital a ∧ pin .b = digital b) ∧
      (∀ w, p.work = .counter w → s.pin1Role i = .highImpedance ∧ pin .a = .input w.pullA ∧ pin .b = .input w.pullB) ∧
      (p.work = .smart → s.pin1Role i = .highImpedance ∧ pin .a = .smartReceive ∧
        (p.smart.running = false → pin .b = .highImpedance) ∧
        (p.smart.running = true → p.smart.tx = none → pin .b = .output true) ∧
        (∀ r, p.smart.running = true → p.smart.tx = some r → pin .b = .smartSends r p.smart.rate))

/-- R44, R58, R60, R64: a conversion completed for an ANALOG port enters its window; value0 is the mean of the window in mV, value1 and
value2 the levels of pins A and B, and the record is a FRESH value set on which the report policy acts. Without a drive a pin
reads a free value (log entry 10). -/
def Obligations.AnalogResultIsAveraged : Prop :=
  ∀ (i : Idx6) (raw : BitVec 12) (w : AnalogWork) (s : State), s.calm = true →
    s.conv.inFlight = some ⟨.sensor i, false⟩ → (s.sensorAt i).work = .analog w →
    let p := s.sensorAt i
    let window := (raw.toNat :: w.window).take w.averaging
    let mean := window.sum / window.length
    let x : Bool × Nat := match p.driveA with | .driven b => (b, 0) | .nothing => (Config.freeLevel s.freeIdx, 1)
    let y : Bool × Nat := match p.driveB with
      | .driven b => (b, x.2) | .nothing => (Config.freeLevel (s.freeIdx + x.2), x.2 + 1)
    let t : State := { s with
      conv := { s.conv with inFlight := none }
      freeIdx := s.freeIdx + y.2
      sensor := s.sensor.set i { p with
        work := .analog { w with window := window }
        record := ⟨.analog, .fresh, p.record.sequence + 1, s.uptime, 3,
          ⟨(mean * 5000 / 4095 : Nat), if x.1 then 1 else 0, if y.1 then 1 else 0, 0⟩, 0⟩ } }
    exec (.conversionComplete raw) s = .next (t.samplePolicy i).settle

/-- R65 to R67, R72: a change of an input pin's level away from the debounced level starts its debounce timer, one back stops it, and at
the expiry, or at once with a debounce time of 0, the debounced level changes: a value set of both levels and counts, the pin's
count rising by 1 where the change matches its edge setting. An output pin, and a held port, only has the level noted.
That a level is noted where the mode does not use it, and that a stopped timer does nothing, are the model's choice
(log entries 18 and 3). -/
def Obligations.DigitalPinsAreDebounced : Prop :=
  ∀ (i : Idx6) (pin : PinId) (a b : DigitalPin) (s : State), s.calm = true → (s.sensorAt i).work = .digital a b →
    let p := s.sensorAt i
    let q := match pin with | .a => a | .b => b
    let work (q' : DigitalPin) : SensorWork := match pin with | .a => .digital q' b | .b => .digital a q'
    let driven (level : Bool) : SensorPort := match pin with
      | .a => { p with driveA := .driven level } | .b => { p with driveB := .driven level }
    let changed (from_ : SensorPort) (level : Bool) : State :=
      let q' : DigitalPin := { q with
        level := level, timer := none
        count := if (q.edge = .rise ∧ level = true) ∨ (q.edge = .fall ∧ level = false) ∨ q.edge = .both then q.count + 1
          else q.count }
      let a' := match pin with | .a => q' | .b => a
      let b' := match pin with | .a => b | .b => q'
      let set : State := { s with sensor := s.sensor.set i { from_ with
        work := .digital a' b'
        record := ⟨.digital, .fresh, p.record.sequence + 1, s.uptime, 4,
          ⟨if a'.level then 1 else 0, if b'.level then 1 else 0, a'.count.toInt, b'.count.toInt⟩, 0⟩ } }
      set.samplePolicy i
    (∀ level : Bool, (match pin with | .a => p.driveA | .b => p.driveB) ≠ .driven level →
      q.direction = .input → p.record.status ≠ .fault →
      (level = q.level → exec (.digitalPinChange i pin level) s =
        .next { s with sensor := s.sensor.set i { driven level with work := work { q with timer := none } } }) ∧
      (level ≠ q.level → q.debounce ≠ 0 → exec (.digitalPinChange i pin level) s =
        .next { s with sensor := s.sensor.set i { driven level with work := work { q with timer := some s.clock } } }) ∧
      (level ≠ q.level → q.debounce = 0 → exec (.digitalPinChange i pin level) s =
        .next (changed (driven level) level).settle)) ∧
    (∀ level : Bool, (q.direction ≠ .input ∨ p.record.status = .fault) → exec (.digitalPinChange i pin level) s =
      .next { s with sensor := s.sensor.set i (driven level) }) ∧
    (q.timer ≠ none → exec (.debounceExpiry i pin) s = .next (changed p (!q.level)).settle) ∧
    (q.timer = none → exec (.debounceExpiry i pin) s = .next s)

/-- R68 to R70, R72: in COUNTER mode the change of pin A to the level that the counting edge leaves arms the counter, a counting edge of an
armed counter whose gate allows is counted, with the time since the last one as the period, and every change of pin B is a value
set with the new gate level. Other changes, and those of a held port, only have the level noted.
The time within the millisecond comes with the command (log entry 5); that a level is noted where nothing counts
it is log entry 18. -/
def Obligations.CounterCountsEdges : Prop :=
  ∀ (i : Idx6) (w : CounterWork) (level : Bool) (us : Nat) (s : State), s.calm = true →
    (s.sensorAt i).work = .counter w →
    let p := s.sensorAt i
    let now := 1000 * s.clock + us
    let onA (q : SensorPort) : State := { s with sensor := s.sensor.set i { q with driveA := .driven level } }
    let onB (q : SensorPort) : State := { s with sensor := s.sensor.set i { q with driveB := .driven level } }
    let set (w' : CounterWork) : SensorPort := { p with
      work := .counter w'
      record := ⟨.counter, .fresh, p.record.sequence + 1, s.uptime, 3,
        ⟨w'.count.toInt, w'.period, if w'.gateLevel then 1 else 0, 0⟩, 0⟩ }
    (p.record.status ≠ .fault → p.driveA ≠ .driven level →
      (level = w.falling → exec (.counterPinAChange i level us) s =
        .next (onA { p with work := .counter { w with armed := true } })) ∧
      (level ≠ w.falling → w.armed = true → (w.gated = false ∨ w.gateLevel = true) →
        exec (.counterPinAChange i level us) s =
          .next ((onA (set { w with
            count := w.count + 1
            period := match w.lastEdge with | some t => min 10000000 (now - t) | none => w.period
            lastEdge := some now })).samplePolicy i).settle) ∧
      (level ≠ w.falling → (w.armed = false ∨ (w.gated = true ∧ w.gateLevel = false)) →
        exec (.counterPinAChange i level us) s = .next (onA p))) ∧
    (p.record.status ≠ .fault → level ≠ w.gateLevel → exec (.counterPinBChange i level) s =
      .next ((onB (set { w with gateLevel := level })).samplePolicy i).settle) ∧
    (p.record.status ≠ .fault → level = w.gateLevel → exec (.counterPinBChange i level) s = .next (onB p)) ∧
    (p.record.status = .fault → exec (.counterPinAChange i level us) s = .next (onA p) ∧
      exec (.counterPinBChange i level) s = .next (onB p))

/-- R72, R75, R76: an overload cuts the supply, sets FAULT and stops the port's work and policy; the report policies raise REPORT: EVERY
at each sampling value set, CHANGE at a FRESH one that differs from the reference by the delta, INTERVAL at its timer's expiry while the
record is FRESH.
The expiry of a stopped timer, and an overload where no supply is on, do nothing (log entry 3). -/
def Obligations.OverloadAndReportPolicies : Prop :=
  ∀ (i : Idx6) (s : State),
    let p := s.sensorAt i
    let raised (q : SensorPort) : State := { s with
      sensor := s.sensor.set i q
      attn := { s.attn with sensor := s.attn.sensor.set i (min 255 (s.attn.sensor.get i + 1)) } }
    let reported (policy : Policy) : State := raised { p with policy := policy, causes := { p.causes with report := true } }
    let v := p.record.values.v0
    (s.calm = true → p.mode ≠ .off → p.supplyOn = true → exec (.sensorSupplyOverload i) s = .next
      { raised { p with
          work := match p.work with
            | .digital a b => .digital { a with timer := none } { b with timer := none }
            | w => w
          supplyOn := false
          record := { p.record with status := .fault }
          policy := match p.policy with | .interval n _ => .interval n none | x => x
          causes := { p.causes with fault := true }
          smart := { Smart.reset with
            maxRate := p.smart.maxRate, preferred := p.smart.preferred, errors := p.smart.errors } } with
        conv := { s.conv with
          due := { s.conv.due with sensor := s.conv.due.sensor.set i false }
          inFlight := match s.conv.inFlight with
            | some f => some (if f.channel = Channel.sensor i then { f with dropped := true } else f)
            | none => none } }.settle) ∧
    (s.calm = true → (p.mode = .off ∨ p.supplyOn = false) → exec (.sensorSupplyOverload i) s = .next s) ∧
    (∀ n t, s.calm = true → p.policy = .interval n (some t) → exec (.intervalExpiry i) s = .next
      (if p.record.status = .fresh then reported (.interval n (some (t + n)))
      else { s with sensor := s.sensor.set i { p with policy := .interval n (some (t + n)) } }).settle) ∧
    (s.calm = true → (∀ n t, p.policy ≠ .interval n (some t)) → exec (.intervalExpiry i) s = .next s) ∧
    (p.policy = .every → s.samplePolicy i = reported .every) ∧
    (∀ d ref, p.policy = .change d ref →
      ((p.record.status = .fresh ∧ (ref = none ∨ ∃ x, ref = some x ∧ (d : Int) ≤ |v - x|)) →
        s.samplePolicy i = reported (.change d (some v))) ∧
      (¬ (p.record.status = .fresh ∧ (ref = none ∨ ∃ x, ref = some x ∧ (d : Int) ≤ |v - x|)) → s.samplePolicy i = s)) ∧
    ((p.policy = .none ∨ ∃ n t, p.policy = .interval n t) → s.samplePolicy i = s)

/-- R61, R82, R94 to R96: SMART_SELECT takes a STREAMING line to SWITCHING with a SELECT record to send, and SMART_WRITE places a COMMAND
record in the command FIFO; an idle transmitter begins what waits at once. Their refusals follow the rules' order, BAD_PORT first. -/
def Obligations.SmartRequestsAct : Prop :=
  (∀ (l : LineId) (tag port mode count : Byte) (bytes : List Byte) (s : State), s.ready l = true →
    bytes.length = count.toNat → bytes.length ≤ 236 → (port.toNat = 0 ∨ 6 < port.toNat) →
    exec (.smartSelect l tag port mode) s = .next
      ((s.arrived l).replied l tag (.smartSelect port mode) .badPort []).settle ∧
    exec (.smartWrite l tag port count bytes) s = .next
      ((s.arrived l).replied l tag (.smartWrite port count bytes) .badPort []).settle) ∧
  ∀ (l : LineId) (tag : Byte) (i : Idx6) (mode count : Byte) (bytes : List Byte) (s : State), s.ready l = true →
    bytes.length = count.toNat → bytes.length ≤ 236 →
    let port : Byte := BitVec.ofNat 8 (i.toNat + 1)
    let p := s.sensorAt i
    let c := p.smart
    let a := s.arrived l
    let permitted : Prop := l = .host ∨ (s.link.setupAllowed = true ∧ s.link.readMask.get i = true)
    let select := Request.smartSelect port mode
    let write := Request.smartWrite port count bytes
    let selects (t : State) (x : Status) : Prop :=
      exec (.smartSelect l tag port mode) s = .next (t.replied l tag select x []).settle
    let writes (t : State) (x : Status) (data : List Byte) : Prop :=
      exec (.smartWrite l tag port count bytes) s = .next (t.replied l tag write x data).settle
    let changed (q : SensorPort) : State := { a with sensor := s.sensor.set i q }
    let live : Prop := p.work = .smart ∧ c.running = true
    let room := 32 - (c.cmdFifo.map List.length).sum
    let record := count :: (bytes ++ [0xFF ^^^ count ^^^ bytes.foldl (· ^^^ ·) 0])
    let selectRecord : List Byte := [0xC1, mode, 0xFF ^^^ 0xC1 ^^^ mode]
    (¬ permitted → selects a .notPermitted ∧ writes a .notPermitted []) ∧
    (permitted →
      (¬ live → selects a .wrongState) ∧
      (live → (c.lineState = .starting ∨ c.lineState = .switching) → selects a .busy) ∧
      (live → (c.lineState = .listen ∨ c.lineState = .announcing ∨ c.lineState = .accepting) → selects a .wrongState) ∧
      (∀ profile, live → c.lineState = .streaming → c.profile = some profile →
        (profile.modeCount ≤ mode.toNat → selects a .badParam) ∧
        (mode.toNat < profile.modeCount →
          let c' : Smart := { c with lineState := .switching, selected := some mode.toNat, lossTimer := some s.clock }
          selects (changed { p with
            record := { p.record with status := .stale }
            smart := match c.tx with
              | some _ => { c' with slot := some selectRecord }
              | none => { c' with slot := none, tx := some selectRecord } }) .ok)) ∧
      ((count = 0 ∨ 24 < count.toNat) → writes a .badParam []) ∧
      (1 ≤ count.toNat → count.toNat ≤ 24 → (¬ live ∨ c.lineState ≠ .streaming) → writes a .wrongState []) ∧
      (1 ≤ count.toNat → count.toNat ≤ 24 → live → c.lineState = .streaming → room < count.toNat + 2 →
        writes a .queueFull []) ∧
      (1 ≤ count.toNat → count.toNat ≤ 24 → live → c.lineState = .streaming → count.toNat + 2 ≤ room →
        (∀ r, c.tx = some r →
          writes (changed { p with smart := { c with cmdFifo := c.cmdFifo ++ [record] } }) .ok
            [BitVec.ofNat 8 (room - (count.toNat + 2))]) ∧
        (c.tx = none → c.slot = none → c.cmdFifo = [] →
          writes (changed { p with smart := { c with tx := some record } }) .ok
            [BitVec.ofNat 8 (32 - (count.toNat + 2))])))

/-- R78 to R81, R84 to R90, R95: a character on a running smart line, as the parser and the line state take it: a record is assembled by
its header's length; a flagged character, or one after a loss, a bad check or a class that the sensor does not send is counted; ANNOUNCE, MODE_INFO and
ANNOUNCE_END build the profile, and a DATA record of the selected mode is a FRESH value set, the first after STARTING raising
CONNECT and the first after SWITCHING MODE. In these states and in STREAMING a DATA record whose index is at or beyond the mode count, or whose
length is not its mode's, is counted, and one of another mode is ignored: no value set, and the loss timer runs on. A record that the line
state has no use for is ignored and not counted.
A character is parsed as it arrives (log entry 8). -/
def Obligations.SmartCharactersAreParsed : Prop :=
  ∀ (i : Idx6) (char : Byte) (framing : Bool) (s : State), s.calm = true →
    let p := s.sensorAt i
    let c := p.smart
    let done (c' : Smart) : State := { s with sensor := s.sensor.set i { p with smart := c' } }
    let after (t : State) : Prop := exec (.smartCharacterReceived i char framing) s = .next t.settle
    (c.running = false → after s) ∧
    (c.running = true → c.rxFifo = [] →
      let held := (match c.parser with | some cs => cs | none => []) ++ [char]
      let header := held.headD 0
      let n := header.toNat % 32
      let cls := header.toNat / 32
      let body := (held.drop 1).take n
      let idle : Smart := { c with parser := none, pauseTimer := none, lostMark := false }
      let counted : Smart :=
        let k := { idle with errors := min 65535 (c.errors + 1) }
        if c.lineState = .announcing then { k with profile := none, announceTimer := none, lineState := .listen, rate := 2400 }
        else k
      let failed : Smart := { idle with profile := none, announceTimer := none, lineState := .listen, rate := 2400 }
      let good : Prop := held.foldl (· ^^^ ·) 0 = 0xFF
      let live : Prop := c.lineState = .starting ∨ c.lineState = .streaming ∨ c.lineState = .switching
      ((framing = true ∨ c.lostMark = true) → after (done counted)) ∧
      (framing = false → c.lostMark = false → held.length < n + 2 →
        after (done { c with parser := some held, pauseTimer := some s.clock })) ∧
      (framing = false → c.lostMark = false → held.length = n + 2 →
        (¬ good → after (done counted)) ∧
        (good → (cls = 0 ∨ 5 ≤ cls) → after (done counted)) ∧
        (good → 1 ≤ cls → cls ≤ 4 →
          (match c.lineState with
            | .listen => cls ≠ 1
            | .announcing => cls = 4
            | .accepting => True
            | .starting | .streaming | .switching => cls ≠ 4) → after (done idle)) ∧
        (good → cls = 1 → (c.lineState = .listen ∨ c.lineState = .announcing) →
          after (done (if n = 4 ∧ 1 ≤ (rd8 body 2).toNat ∧ (rd8 body 2).toNat ≤ 8 ∧ (rd8 body 3).toNat ≤ 3 then
            { idle with
              profile := some ⟨rd16 body 0, (rd8 body 2).toNat, (rd8 body 3).toNat, []⟩
              lineState := .announcing, announceTimer := some s.clock }
          else counted))) ∧
        (∀ profile, good → cls = 2 → c.lineState = .announcing → c.profile = some profile →
          let index := (rd8 body 0).toNat
          let shaped : Prop := 5 ≤ n ∧ n = 5 + (rd8 body 4).toNat ∧ (rd8 body 4).toNat ≤ 11 ∧
            1 ≤ (rd8 body 1).toNat ∧ (rd8 body 1).toNat ≤ 4 ∧ (rd8 body 2).toNat ≤ 2 ∧ (rd8 body 3).toNat ≤ 4
          after (done (if ¬ shaped then counted
            else if profile.modeCount ≤ index ∨ ∃ m ∈ profile.modes, m.index = index then failed
            else { idle with profile := some { profile with modes := profile.modes ++
              [⟨index, (rd8 body 1).toNat,
                if (rd8 body 2).toNat = 0 then .int8 else if (rd8 body 2).toNat = 1 then .int16 else .int32,
                (rd8 body 3).toNat, body.drop 5⟩] } }))) ∧
        (∀ profile, good → cls = 3 → c.lineState = .announcing → c.profile = some profile →
          let rate : Byte := BitVec.ofNat 8 (min profile.maxRate c.maxRate)
          let accept : List Byte := [0xA1, rate, 0xFF ^^^ 0xA1 ^^^ rate]
          after (done (if n ≠ 0 then counted
            else if ∃ k ∈ List.range profile.modeCount, ∀ m ∈ profile.modes, m.index ≠ k then failed
            else { idle with
              announceTimer := none, lineState := .accepting
              slot := if c.tx = none then none else some accept
              tx := if c.tx = none then some accept else c.tx }))) ∧
        (∀ profile, good → cls = 4 → live → c.profile = some profile →
          (profile.modeCount ≤ (rd8 body 0).toNat ∨
            ∀ m, profile.mode (rd8 body 0).toNat = some m → n ≠ 1 + m.count * m.format.size) → after (done counted)) ∧
        (∀ profile m, good → cls = 4 → live → c.profile = some profile → profile.mode (rd8 body 0).toNat = some m →
          (rd8 body 0).toNat < profile.modeCount → n = 1 + m.count * m.format.size →
          c.selected ≠ some (rd8 body 0).toNat → after (done idle)) ∧
        (∀ profile m, good → cls = 4 → live →
          c.profile = some profile → profile.mode (rd8 body 0).toNat = some m →
          (rd8 body 0).toNat < profile.modeCount →
          n = 1 + m.count * m.format.size → c.selected = some (rd8 body 0).toNat →
          let value (k : Nat) : Int := if m.count ≤ k then 0 else match m.format with
            | .int8 => (rd8 body (1 + k)).toInt
            | .int16 => (rd16 body (1 + 2 * k)).toInt
            | .int32 => (rd32 body (1 + 4 * k)).toInt
          let set : State := { s with sensor := s.sensor.set i { p with
            smart := { idle with lineState := .streaming, lossTimer := some s.clock }
            record := ⟨.smart, .fresh, p.record.sequence + 1, s.uptime, m.count,
              ⟨value 0, value 1, value 2, value 3⟩, m.decimals⟩ } }
          p.work = .smart →
          after (match c.lineState with
            | .starting => (set.samplePolicy i).raiseSensor i .connect
            | .switching => (set.samplePolicy i).raiseSensor i .mode
            | _ => set.samplePolicy i))))

/-- R80, R82, R84, R87 to R89, R91, R92: the expiries and ends of a smart line: the pause limit counts a discard, the announce limit fails the
handshake, the switch delay takes the line to STARTING at the agreed rate, the nudge timer has a NUDGE sent, the loss timer makes the
reading STALE and raises LOST, and the end of a record lets the transmitter begin what waits; a timer that is stopped, or a transmitter that
sends nothing, does nothing.
A stopped timer does nothing (log entry 3); the staleness of R92 is the loss timer's (log entry 12). -/
def Obligations.SmartTimersExpire : Prop :=
  ∀ (i : Idx6) (s : State), s.calm = true →
    let p := s.sensorAt i
    let c := p.smart
    let done (q : SensorPort) : State := { s with sensor := s.sensor.set i q }
    let nudge : List Byte := [0xE0, 0x1F]
    (∀ cs t, c.pauseTimer = some t → c.parser = some cs → exec (.pauseExpiry i) s = .next (done { p with smart :=
      let k := { c with errors := min 65535 (c.errors + 1), parser := none, pauseTimer := none }
      if c.lineState = .announcing then { k with profile := none, announceTimer := none, lineState := .listen, rate := 2400 }
      else k })) ∧
    ((c.pauseTimer = none ∨ c.parser = none) → exec (.pauseExpiry i) s = .next s) ∧
    (c.announceTimer ≠ none → exec (.announceLimitExpiry i) s = .next (done { p with smart :=
      { c with profile := none, announceTimer := none, lineState := .listen, rate := 2400 } })) ∧
    (c.announceTimer = none → exec (.announceLimitExpiry i) s = .next s) ∧
    (∀ profile, c.switchTimer ≠ none → c.running = true → c.tx = none → c.profile = some profile →
      let index := if c.preferred < profile.modeCount then c.preferred else 0
      let b : Byte := BitVec.ofNat 8 index
      let code := min profile.maxRate c.maxRate
      exec (.switchDelayExpiry i) s = .next (done { p with smart := { c with
        rate := if code = 0 then 9600 else if code = 1 then 19200 else if code = 2 then 57600 else 115200
        rxFifo := [], lostMark := false, parser := none, pauseTimer := none, switchTimer := none, lineState := .starting
        selected := some index, slot := none, tx := some [0xC1, b, 0xFF ^^^ 0xC1 ^^^ b]
        nudgeTimer := some s.clock, lossTimer := some s.clock } })) ∧
    (c.switchTimer = none → exec (.switchDelayExpiry i) s = .next s) ∧
    (∀ t, c.nudgeTimer = some t → c.running = true →
      (c.tx ≠ none → exec (.nudgeTimerExpiry i) s = .next (done { p with smart :=
        { c with nudge := true, nudgeTimer := some (t + 100) } })) ∧
      (c.tx = none → c.slot = none → c.cmdFifo = [] → exec (.nudgeTimerExpiry i) s = .next (done { p with smart :=
        { c with nudge := false, tx := some nudge, nudgeTimer := some (t + 100) } }))) ∧
    (c.nudgeTimer = none → exec (.nudgeTimerExpiry i) s = .next s) ∧
    (c.lossTimer ≠ none → exec (.lossTimerExpiry i) s = .next { done { p with
        record := { p.record with status := .stale }
        causes := { p.causes with lost := true }
        smart := { Smart.reset with
          running := c.running, maxRate := c.maxRate, preferred := c.preferred, errors := c.errors } } with
      attn := { s.attn with sensor := s.attn.sensor.set i (min 255 (s.attn.sensor.get i + 1)) } }.settle) ∧
    (c.lossTimer = none → exec (.lossTimerExpiry i) s = .next s) ∧
    (∀ r, c.tx = some r → c.running = true →
      let timed : Smart := { c with
        switchTimer := if (rd8 r 0).toNat / 32 = 5 ∧ c.lineState = .accepting then some s.clock else c.switchTimer }
      exec (.smartRecordSent i) s = .next (done { p with smart := match c.slot, c.cmdFifo with
        | some x, _ => { timed with tx := some x, slot := none }
        | none, x :: rest => { timed with tx := some x, cmdFifo := rest }
        | none, [] => if c.nudge then { timed with tx := some nudge, nudge := false } else { timed with tx := none } })) ∧
    (c.tx = none → exec (.smartRecordSent i) s = .next s)

/-! ### The sound engine (chapter 7) -/

/-- R108 to R111, R113, R115 to R117, R120, R122, R123: SOUND_SETUP with APPLY, CLIP, SOUND_DATA and IMMEDIATE_TONE on the engine they are
taken on, with their refusals in their order: NOT_OWNER, POWER_HOLD, BAD_PARAM by their fields, and by the engine's state. -/
def Obligations.SoundRequestsAct : Prop :=
  ∀ (l : LineId) (tag : Byte) (s : State), s.ready l = true →
    let a := s.arrived l
    let e := s.sound
    let owned : Prop := e.owner = issuerOf l
    let sounding (x : Sound) : State := { a with sound := x }
    (∀ (volume : Byte) (threshold : Half), let r := Request.soundSetup 1 volume threshold
      let v := min 100 volume.toNat
      let x : Sound := { e with volume := v, threshold := threshold.toNat, gain := v * e.ceiling / 1000 }
      exec (.soundSetupApply l tag volume threshold) s = .next
        (if ¬ owned then a.replied l tag r .notOwner []
        else if threshold.toNat < 256 ∨ 3840 < threshold.toNat then a.replied l tag r .badParam []
        else (sounding x).replied l tag r .ok ([if 100 < volume.toNat then 1 else 0] ++ soundStatus x)).settle) ∧
    (∀ (c : ClipRaw) (kind : ClipKind), let r := Request.clip c
      ((c.kind = 0 ∧ ∃ w, waveformOf c.waveform = some w ∧
          kind = .tone (max 50 (min 10000 c.frequency.toNat)) (max 1 (min 10000 c.duration.toNat)) w) ∨
        (c.kind = 1 ∧ (c.rate.toNat = 8000 ∨ c.rate.toNat = 16000) ∧ ∃ f, formatOf c.format = some f ∧
          kind = .stream f c.rate.toNat (if c.sampleCount = 0 then none else some c.sampleCount.toNat))) →
      let clamped : Byte := if c.kind = 0 ∧ (c.frequency.toNat < 50 ∨ 10000 < c.frequency.toNat ∨ c.duration.toNat < 1 ∨
        10000 < c.duration.toNat) then 1 else 0
      let clip : Clip := ⟨kind, c.tag, issuerOf l⟩
      (¬ owned → exec (.clip l tag c) s = .next (a.replied l tag r .notOwner []).settle) ∧
      (owned → s.powerHeld = true → exec (.clip l tag c) s = .next (a.replied l tag r .powerHold []).settle) ∧
      (owned → s.powerHeld = false → 4 ≤ e.queue.length →
        exec (.clip l tag c) s = .next (a.replied l tag r .queueFull []).settle) ∧
      (owned → s.powerHeld = false → e.queue.length < 4 → e.player ≠ .idle →
        exec (.clip l tag c) s = .next ((sounding { e with queue := e.queue ++ [clip] }).replied l tag r .ok
          [clamped, BitVec.ofNat 8 (e.queue.length + 1), BitVec.ofNat 8 e.player.code]).settle) ∧
      (owned → s.powerHeld = false → e.queue = [] → e.player = .idle →
        (∀ f d w, kind = .tone f d w → exec (.clip l tag c) s = .next
          ((sounding { e with player := .playing ⟨c.tag, issuerOf l,
            .tone ⟨0, BitVec.ofNat 32 (f * 4294967296 / 32000), d * 32, w⟩⟩ }).replied l tag r .ok [clamped, 0, 1]).settle) ∧
        (∀ f rate n, kind = .stream f rate n →
          let x : Sound := { e with player := .playing ⟨c.tag, issuerOf l, .stream ⟨f, rate, n, 0, 0, 0, false⟩⟩ }
          exec (.clip l tag c) s = .next
            ((if e.ring.length ≤ e.threshold then
              { sounding { x with refill := true } with attn := { a.attn with sound := min 255 (a.attn.sound + 1) } }
            else sounding x).replied l tag r .ok [clamped, 0, 2]).settle))) ∧
    (∀ c : ClipRaw, owned → ¬ c.fieldsFit → exec (.clip l tag c) s = .next
      (a.replied l tag (.clip c) (if s.powerHeld then .powerHold else .badParam) []).settle) ∧
    (∀ (count endFlag : Byte) (bytes : List Byte), bytes.length = count.toNat → bytes.length ≤ 236 →
      let r := Request.soundData count endFlag bytes
      let ring := e.ring ++ bytes
      let marks := if endFlag = 1 then e.marks ++ [ring.length] else e.marks
      exec (.soundData l tag count endFlag bytes) s = .next
        (if ¬ owned then a.replied l tag r .notOwner []
        else if s.powerHeld then a.replied l tag r .powerHold []
        else if count = 0 ∨ 224 < count.toNat ∨ 2 ≤ endFlag.toNat then a.replied l tag r .badParam []
        else if 4096 < ring.length then a.replied l tag r .ringFull []
        else if endFlag = 1 ∧ 4 ≤ e.marks.length then a.replied l tag r .queueFull []
        else (sounding { e with ring := ring, marks := marks }).replied l tag r .ok
          (le16 (BitVec.ofNat 16 ring.length) ++ le16 (BitVec.ofNat 16 (4096 - ring.length)) ++
            [BitVec.ofNat 8 marks.length])).settle) ∧
    (∀ (frequency duration : Half), let r := Request.immediateTone frequency duration
      let f := max 50 (min 10000 frequency.toNat)
      let d := max 1 (min 2000 duration.toNat)
      let tone : ToneGen := ⟨0, BitVec.ofNat 32 (f * 4294967296 / 32000), d * 32, .square⟩
      let suspended (x : Option Playing) : State :=
        (sounding { e with player := .immediate tone x }).replied l tag r .ok
          [if f = frequency.toNat ∧ d = duration.toNat then 0 else 1]
      exec (.immediateTone l tag frequency duration) s = .next
        (if ¬ owned then a.replied l tag r .notOwner []
        else if s.powerHeld then a.replied l tag r .powerHold []
        else match e.player with
          | .idle => suspended none
          | .playing p => suspended (some p)
          | .immediate _ _ => a.replied l tag r .busy []).settle)

/-- R125, R126, R127: SOUND_STOP ends the playing or suspended clip with outcome STOPPED and an immediate tone with no record, discards and
counts every waiting clip, empties the ring and its marks and leaves the player IDLE; the raise is made only if a clip ended or
was discarded. -/
def Obligations.SoundStopEndsEverything : Prop :=
  ∀ (l : LineId) (tag : Byte) (s : State), s.ready l = true →
    let a := s.arrived l
    let e := s.sound
    let clip : Option Playing := match e.player with
      | .idle => none
      | .playing p => some p
      | .immediate _ x => x
    let stopped : Sound := { e with
      queue := [], player := .idle, ring := [], marks := []
      discarded := min 255 (e.discarded + e.queue.length)
      outcomes := match clip with
        | some p => (if e.outcomes.length < 4 then e.outcomes else e.outcomes.tail) ++ [⟨p.tag, p.issuer, .stopped, s.uptime⟩]
        | none => e.outcomes
      dropped := if clip.isSome ∧ 4 ≤ e.outcomes.length then min 255 (e.dropped + 1) else e.dropped }
    exec (.soundStop l tag) s = .next
      (if e.owner = issuerOf l then
        { a with
          sound := stopped
          attn := if clip.isSome ∨ e.queue ≠ [] then { a.attn with sound := min 255 (a.attn.sound + 1) } else a.attn
          }.replied l tag .soundStop .ok [BitVec.ofNat 8 e.queue.length, if clip.isSome then 1 else 0]
      else a.replied l tag .soundStop .notOwner []).settle

/-- R112 to R115, R117 to R122, R124: the output sample event by the player's state: the sample of a tone, of an immediate tone or of a
stream times the gain, and what it leaves; a fetch consumes ring bytes, and may cross the refill threshold; with too few bytes the
clip starves, and a mark at the read point, its sample count, or the end of a tone ends the clip DONE. R111, R114, R118, R124: whatever plays,
`Plays` gives the event whole: a waiting clip starts at the event that ends the last one and may end at it in its turn, a LINEAR16 clip's odd
byte before its mark is discarded, and what an immediate tone suspended goes on at the event that ends the tone.
A saturated underrun count that does not change raises nothing (log entry 14). -/
def Obligations.OutputSampleIsMade : Prop :=
  (∀ s : State, s.calm = true → ∃ t x, Plays s t x ∧
    exec .outputSampleEvent s = .next
      ({ t with sound := { t.sound with out := (x * (s.sound.gain : Int)).tdiv 100 } } : State).settle) ∧
  ∀ s : State, s.calm = true →
    let e := s.sound
    let out (sample : Int) : Int := (sample * (e.gain : Int)).tdiv 100
    let event := exec .outputSampleEvent s
    let played (x : Sound) (sample : Int) : State := { s with sound := { x with out := out sample } }
    let raised (x : Sound) (sample : Int) : State :=
      { played x sample with attn := { s.attn with sound := min 255 (s.attn.sound + 1) } }
    let ended (p : Playing) (x : Sound) : State := raised { x with
      player := .idle
      outcomes := (if e.outcomes.length < 4 then e.outcomes else e.outcomes.tail) ++ [⟨p.tag, p.issuer, .done, s.uptime⟩]
      dropped := if e.outcomes.length < 4 then e.dropped else min 255 (e.dropped + 1) } 0
    let toneSample (g : ToneGen) : Int :=
      if g.waveform = .square then (if g.phase.toNat < 2147483648 then 20000 else -20000)
      else sineEntry (g.phase.toNat / 16777216)
    let on (g : ToneGen) : ToneGen := { g with phase := g.phase + g.step, remaining := g.remaining - 1 }
    (e.player = .idle → e.queue = [] → event = .next (played e 0)) ∧
    (∀ g x, e.player = .immediate g x → g.remaining ≠ 0 →
      event = .next (played { e with player := .immediate (on g) x } (toneSample g))) ∧
    (∀ g, e.player = .immediate g none → g.remaining = 0 → e.queue = [] →
      event = .next (played { e with player := .idle } 0)) ∧
    (∀ g h p, e.player = .immediate g (some p) → g.remaining = 0 → p.ctx = .tone h → h.remaining ≠ 0 →
      event = .next (played { e with player := .playing { p with ctx := .tone (on h) } } (toneSample h))) ∧
    (∀ p g, e.player = .playing p → p.ctx = .tone g → g.remaining ≠ 0 →
      event = .next (played { e with player := .playing { p with ctx := .tone (on g) } } (toneSample g))) ∧
    (∀ p g, e.player = .playing p → p.ctx = .tone g → g.remaining = 0 → e.queue = [] → event = .next (ended p e).settle) ∧
    (∀ p c, e.player = .playing p → p.ctx = .stream c →
      let size := if c.format = .linear16 then 2 else 1
      let counted := c.samples = some c.consumed
      let marked := e.marks.head? = some 0
      let odd := c.format = .linear16 ∧ e.marks.head? = some 1
      (c.hold ≠ 0 → event = .next
        (played { e with player := .playing { p with ctx := .stream { c with hold := c.hold - 1 } } } c.current)) ∧
      (c.hold = 0 → e.queue = [] → marked → event = .next (ended p { e with marks := e.marks.tail }).settle) ∧
      (c.hold = 0 → e.queue = [] → counted → ¬ marked → event = .next (ended p e).settle) ∧
      (c.hold = 0 → ¬ counted → ¬ marked → ¬ odd → e.ring.length < size →
        let x : Sound := { e with
          player := .playing { p with ctx := .stream { c with starved := true } }
          underruns := if c.starved then e.underruns else min 65535 (e.underruns + 1) }
        event = .next (if x.underruns = e.underruns then played x 0 else raised x 0).settle) ∧
      (c.hold = 0 → ¬ counted → ¬ marked → ¬ odd → size ≤ e.ring.length →
        let b := rd8 e.ring 0
        let t := b.toNat % 16
        let segment := b.toNat / 16 % 8
        let magnitude : Nat := if segment = 0 then 2 * t else (32 + 2 * t) * 2 ^ (segment - 1)
        let sample : Int := match c.format with
          | .linear8 => ((b.toNat : Int) - 128) * 256
          | .linear16 => (rd16 e.ring 0).toInt
          | .companded8 => if b.toNat < 128 then (magnitude * 8 : Nat) else -(magnitude * 8 : Nat)
        let crosses := e.threshold < e.ring.length ∧ e.ring.length - size ≤ e.threshold
        let x : Sound := { e with
          ring := e.ring.drop size
          marks := e.marks.map fun d => d - size
          refill := if crosses then true else e.refill
          player := .playing { p with ctx := .stream { c with
            current := sample, hold := (if c.rate = 8000 then 4 else 2) - 1, consumed := min 4294967295 (c.consumed + 1)
            starved := false } } }
        event = .next (if crosses then raised x sample else played x sample).settle))

/-! ### What every step keeps -/

/-- R1, R5, R18, R24, R25, R34, R37: the ranges of every motor port's configuration, queue, counts and values are kept by every step. -/
def Obligations.StepKeepsPortRanges : Prop :=
  ∀ s t : State, step s = .next t →
    (∀ m, (s.port m).configsInRanges = true ∧ (s.port m).fillsInLimits = true ∧ (s.port m).valuesInRanges = true) →
    ∀ m, (t.port m).configsInRanges = true ∧ (t.port m).fillsInLimits = true ∧ (t.port m).valuesInRanges = true

/-- R2, R7, R8, R52, R54: what each port state drives, the issuers of every record, and SHUTDOWN exactly in CRITICAL and RECOVERY, are kept by
every step. -/
def Obligations.StepKeepsPortStates : Prop :=
  ∀ s t : State, step s = .next t →
    (s.shutdownFits = true ∧ ∀ m, (s.port m).stateFits = true ∧ (s.port m).issuersFit = true) →
    t.shutdownFits = true ∧ ∀ m, (t.port m).stateFits = true ∧ (t.port m).issuersFit = true

/-- R46, R48 to R54, R108, R115, R122, R127: thresholds in order, S and F in their ranges, every stored ceiling the product P under its limit,
and the sound engine's fills, issuers and gain, are kept by every step. The V_low and V_critical in use are log entry 22. -/
def Obligations.StepKeepsSupplyAndSound : Prop :=
  ∀ s t : State, step s = .next t →
    (s.supply.fits && s.ceilingsFit && s.sound.fits && s.sound.issuersFit && s.soundHeldFits) = true →
    (t.supply.fits && t.ceilingsFit && t.sound.fits && t.sound.issuersFit && t.soundHeldFits) = true

/-- R42, R44, R59, R60, R72, R78, R83 to R88, R93, R96: a sensor port's record, supply, controller and channel fit its mode, and are kept so by
every step. -/
def Obligations.StepKeepsSensorPorts : Prop :=
  ∀ s t : State, step s = .next t → (∀ i, s.sensorFits i = true) → ∀ i, t.sensorFits i = true

/-- R132, R133, R138, R145 to R147, R149, R151, R154 to R156, R161: the limits of every FIFO, queue and count of the lines, of the payload
queues and of the attention table, and K40_READY low at the fills that deassert it, are kept by every step. -/
def Obligations.StepKeepsLines : Prop :=
  ∀ s t : State, step s = .next t →
    (s.linesFit && s.linkFits && s.attnFits && s.k40ReadyFits) = true →
    (t.linesFit && t.linkFits && t.attnFits && t.k40ReadyFits) = true

/-- Right after reset every one of these invariants holds, and the state once settled has nothing left to do and takes a request
from either line. -/
def Obligations.ResetStateIsSound : Prop :=
  (∀ m, (State.reset.port m).configsInRanges = true ∧ (State.reset.port m).fillsInLimits = true ∧
    (State.reset.port m).valuesInRanges = true ∧ (State.reset.port m).stateFits = true ∧
    (State.reset.port m).issuersFit = true) ∧
  State.reset.shutdownFits = true ∧ State.reset.supply.fits = true ∧ State.reset.ceilingsFit = true ∧
  State.reset.sound.fits = true ∧ State.reset.sound.issuersFit = true ∧ State.reset.soundHeldFits = true ∧
  (∀ i, State.reset.sensorFits i = true) ∧ State.reset.linesFit = true ∧ State.reset.linkFits = true ∧
  State.reset.attnFits = true ∧ State.reset.k40ReadyFits = true ∧
  State.reset.settle.ready .host = true ∧ State.reset.settle.ready .tablet = true
end

