-- ==== Sys2Proof/Laws/State.lean ====
section
/-! SUPPORT. What each named update does to each field of the state, true by unfolding, so that no later proof unfolds a
record update. -/

namespace Sys2Proof.Machine

/-! ### Six -/

@[simp] theorem Six.get_set_same {α : Type} (v : Six α) (i : Idx6) (a : α) : (v.set i a).get i = a := by
  cases i <;> rfl

theorem Six.get_set {α : Type} (v : Six α) (i j : Idx6) (a : α) :
    (v.set i a).get j = if j = i then a else v.get j := by
  cases i <;> cases j <;> rfl

@[simp] theorem Six.get_set_ne {α : Type} (v : Six α) {i j : Idx6} (a : α) (h : j ≠ i) :
    (v.set i a).get j = v.get j := by
  rw [Six.get_set, if_neg h]

@[simp] theorem Six.get_all {α : Type} (a : α) (i : Idx6) : (Six.all a).get i = a := by cases i <;> rfl

@[simp] theorem Six.get_map {α β : Type} (f : α → β) (v : Six α) (i : Idx6) : (v.map f).get i = f (v.get i) := by
  cases i <;> rfl

@[simp] theorem Six.get_ofFn {α : Type} (f : Idx6 → α) (i : Idx6) : (Six.ofFn f).get i = f i := by cases i <;> rfl

/-- Two records of six are equal when they agree at every index. -/
theorem Six.ext_get {α : Type} {v w : Six α} (h : ∀ i, v.get i = w.get i) : v = w := by
  have h0 := h .i0; have h1 := h .i1; have h2 := h .i2; have h3 := h .i3; have h4 := h .i4; have h5 := h .i5
  cases v; cases w; simp_all [Six.get]

@[simp] theorem Six.set_get_self {α : Type} (v : Six α) (i : Idx6) : v.set i (v.get i) = v := by cases i <;> rfl

@[simp] theorem Six.set_set {α : Type} (v : Six α) (i : Idx6) (a b : α) : (v.set i a).set i b = v.set i b := by
  cases i <;> rfl

/-! ### The updates of the state, field by field -/

@[simp] theorem State.modPort_motor (s : State) (m : Idx6) (f : Port → Port) :
    (s.modPort m f).motor = s.motor.set m (f (s.motor.get m)) := rfl
@[simp] theorem State.modPort_groups (s : State) (m : Idx6) (f : Port → Port) :
    (s.modPort m f).groups = s.groups := rfl
@[simp] theorem State.modPort_conv (s : State) (m : Idx6) (f : Port → Port) :
    (s.modPort m f).conv = s.conv := rfl
@[simp] theorem State.modPort_supply (s : State) (m : Idx6) (f : Port → Port) :
    (s.modPort m f).supply = s.supply := rfl
@[simp] theorem State.modPort_sensor (s : State) (m : Idx6) (f : Port → Port) :
    (s.modPort m f).sensor = s.sensor := rfl
@[simp] theorem State.modPort_sound (s : State) (m : Idx6) (f : Port → Port) :
    (s.modPort m f).sound = s.sound := rfl
@[simp] theorem State.modPort_host (s : State) (m : Idx6) (f : Port → Port) :
    (s.modPort m f).host = s.host := rfl
@[simp] theorem State.modPort_tablet (s : State) (m : Idx6) (f : Port → Port) :
    (s.modPort m f).tablet = s.tablet := rfl
@[simp] theorem State.modPort_hostUnit (s : State) (m : Idx6) (f : Port → Port) :
    (s.modPort m f).hostUnit = s.hostUnit := rfl
@[simp] theorem State.modPort_link (s : State) (m : Idx6) (f : Port → Port) :
    (s.modPort m f).link = s.link := rfl
@[simp] theorem State.modPort_attn (s : State) (m : Idx6) (f : Port → Port) :
    (s.modPort m f).attn = s.attn := rfl
@[simp] theorem State.modPort_clock (s : State) (m : Idx6) (f : Port → Port) :
    (s.modPort m f).clock = s.clock := rfl
@[simp] theorem State.modPort_softReset (s : State) (m : Idx6) (f : Port → Port) :
    (s.modPort m f).softReset = s.softReset := rfl
@[simp] theorem State.modPort_porActive (s : State) (m : Idx6) (f : Port → Port) :
    (s.modPort m f).porActive = s.porActive := rfl
@[simp] theorem State.modPort_resetnLow (s : State) (m : Idx6) (f : Port → Port) :
    (s.modPort m f).resetnLow = s.resetnLow := rfl
@[simp] theorem State.modPort_freeIdx (s : State) (m : Idx6) (f : Port → Port) :
    (s.modPort m f).freeIdx = s.freeIdx := rfl
@[simp] theorem State.modPort_pending (s : State) (m : Idx6) (f : Port → Port) :
    (s.modPort m f).pending = s.pending := rfl

@[simp] theorem State.modSensor_motor (s : State) (i : Idx6) (f : SensorPort → SensorPort) :
    (s.modSensor i f).motor = s.motor := rfl
@[simp] theorem State.modSensor_groups (s : State) (i : Idx6) (f : SensorPort → SensorPort) :
    (s.modSensor i f).groups = s.groups := rfl
@[simp] theorem State.modSensor_conv (s : State) (i : Idx6) (f : SensorPort → SensorPort) :
    (s.modSensor i f).conv = s.conv := rfl
@[simp] theorem State.modSensor_supply (s : State) (i : Idx6) (f : SensorPort → SensorPort) :
    (s.modSensor i f).supply = s.supply := rfl
@[simp] theorem State.modSensor_sensor (s : State) (i : Idx6) (f : SensorPort → SensorPort) :
    (s.modSensor i f).sensor = s.sensor.set i (f (s.sensor.get i)) := rfl
@[simp] theorem State.modSensor_sound (s : State) (i : Idx6) (f : SensorPort → SensorPort) :
    (s.modSensor i f).sound = s.sound := rfl
@[simp] theorem State.modSensor_host (s : State) (i : Idx6) (f : SensorPort → SensorPort) :
    (s.modSensor i f).host = s.host := rfl
@[simp] theorem State.modSensor_tablet (s : State) (i : Idx6) (f : SensorPort → SensorPort) :
    (s.modSensor i f).tablet = s.tablet := rfl
@[simp] theorem State.modSensor_hostUnit (s : State) (i : Idx6) (f : SensorPort → SensorPort) :
    (s.modSensor i f).hostUnit = s.hostUnit := rfl
@[simp] theorem State.modSensor_link (s : State) (i : Idx6) (f : SensorPort → SensorPort) :
    (s.modSensor i f).link = s.link := rfl
@[simp] theorem State.modSensor_attn (s : State) (i : Idx6) (f : SensorPort → SensorPort) :
    (s.modSensor i f).attn = s.attn := rfl
@[simp] theorem State.modSensor_clock (s : State) (i : Idx6) (f : SensorPort → SensorPort) :
    (s.modSensor i f).clock = s.clock := rfl
@[simp] theorem State.modSensor_softReset (s : State) (i : Idx6) (f : SensorPort → SensorPort) :
    (s.modSensor i f).softReset = s.softReset := rfl
@[simp] theorem State.modSensor_porActive (s : State) (i : Idx6) (f : SensorPort → SensorPort) :
    (s.modSensor i f).porActive = s.porActive := rfl
@[simp] theorem State.modSensor_resetnLow (s : State) (i : Idx6) (f : SensorPort → SensorPort) :
    (s.modSensor i f).resetnLow = s.resetnLow := rfl
@[simp] theorem State.modSensor_freeIdx (s : State) (i : Idx6) (f : SensorPort → SensorPort) :
    (s.modSensor i f).freeIdx = s.freeIdx := rfl
@[simp] theorem State.modSensor_pending (s : State) (i : Idx6) (f : SensorPort → SensorPort) :
    (s.modSensor i f).pending = s.pending := rfl

@[simp] theorem State.modSound_motor (s : State) (f : Sound → Sound) :
    (s.modSound f).motor = s.motor := rfl
@[simp] theorem State.modSound_groups (s : State) (f : Sound → Sound) :
    (s.modSound f).groups = s.groups := rfl
@[simp] theorem State.modSound_conv (s : State) (f : Sound → Sound) :
    (s.modSound f).conv = s.conv := rfl
@[simp] theorem State.modSound_supply (s : State) (f : Sound → Sound) :
    (s.modSound f).supply = s.supply := rfl
@[simp] theorem State.modSound_sensor (s : State) (f : Sound → Sound) :
    (s.modSound f).sensor = s.sensor := rfl
@[simp] theorem State.modSound_sound (s : State) (f : Sound → Sound) :
    (s.modSound f).sound = f s.sound := rfl
@[simp] theorem State.modSound_host (s : State) (f : Sound → Sound) :
    (s.modSound f).host = s.host := rfl
@[simp] theorem State.modSound_tablet (s : State) (f : Sound → Sound) :
    (s.modSound f).tablet = s.tablet := rfl
@[simp] theorem State.modSound_hostUnit (s : State) (f : Sound → Sound) :
    (s.modSound f).hostUnit = s.hostUnit := rfl
@[simp] theorem State.modSound_link (s : State) (f : Sound → Sound) :
    (s.modSound f).link = s.link := rfl
@[simp] theorem State.modSound_attn (s : State) (f : Sound → Sound) :
    (s.modSound f).attn = s.attn := rfl
@[simp] theorem State.modSound_clock (s : State) (f : Sound → Sound) :
    (s.modSound f).clock = s.clock := rfl
@[simp] theorem State.modSound_softReset (s : State) (f : Sound → Sound) :
    (s.modSound f).softReset = s.softReset := rfl
@[simp] theorem State.modSound_porActive (s : State) (f : Sound → Sound) :
    (s.modSound f).porActive = s.porActive := rfl
@[simp] theorem State.modSound_resetnLow (s : State) (f : Sound → Sound) :
    (s.modSound f).resetnLow = s.resetnLow := rfl
@[simp] theorem State.modSound_freeIdx (s : State) (f : Sound → Sound) :
    (s.modSound f).freeIdx = s.freeIdx := rfl
@[simp] theorem State.modSound_pending (s : State) (f : Sound → Sound) :
    (s.modSound f).pending = s.pending := rfl

@[simp] theorem State.modSupply_motor (s : State) (f : Supply → Supply) :
    (s.modSupply f).motor = s.motor := rfl
@[simp] theorem State.modSupply_groups (s : State) (f : Supply → Supply) :
    (s.modSupply f).groups = s.groups := rfl
@[simp] theorem State.modSupply_conv (s : State) (f : Supply → Supply) :
    (s.modSupply f).conv = s.conv := rfl
@[simp] theorem State.modSupply_supply (s : State) (f : Supply → Supply) :
    (s.modSupply f).supply = f s.supply := rfl
@[simp] theorem State.modSupply_sensor (s : State) (f : Supply → Supply) :
    (s.modSupply f).sensor = s.sensor := rfl
@[simp] theorem State.modSupply_sound (s : State) (f : Supply → Supply) :
    (s.modSupply f).sound = s.sound := rfl
@[simp] theorem State.modSupply_host (s : State) (f : Supply → Supply) :
    (s.modSupply f).host = s.host := rfl
@[simp] theorem State.modSupply_tablet (s : State) (f : Supply → Supply) :
    (s.modSupply f).tablet = s.tablet := rfl
@[simp] theorem State.modSupply_hostUnit (s : State) (f : Supply → Supply) :
    (s.modSupply f).hostUnit = s.hostUnit := rfl
@[simp] theorem State.modSupply_link (s : State) (f : Supply → Supply) :
    (s.modSupply f).link = s.link := rfl
@[simp] theorem State.modSupply_attn (s : State) (f : Supply → Supply) :
    (s.modSupply f).attn = s.attn := rfl
@[simp] theorem State.modSupply_clock (s : State) (f : Supply → Supply) :
    (s.modSupply f).clock = s.clock := rfl
@[simp] theorem State.modSupply_softReset (s : State) (f : Supply → Supply) :
    (s.modSupply f).softReset = s.softReset := rfl
@[simp] theorem State.modSupply_porActive (s : State) (f : Supply → Supply) :
    (s.modSupply f).porActive = s.porActive := rfl
@[simp] theorem State.modSupply_resetnLow (s : State) (f : Supply → Supply) :
    (s.modSupply f).resetnLow = s.resetnLow := rfl
@[simp] theorem State.modSupply_freeIdx (s : State) (f : Supply → Supply) :
    (s.modSupply f).freeIdx = s.freeIdx := rfl
@[simp] theorem State.modSupply_pending (s : State) (f : Supply → Supply) :
    (s.modSupply f).pending = s.pending := rfl

@[simp] theorem State.modConv_motor (s : State) (f : Converter → Converter) :
    (s.modConv f).motor = s.motor := rfl
@[simp] theorem State.modConv_groups (s : State) (f : Converter → Converter) :
    (s.modConv f).groups = s.groups := rfl
@[simp] theorem State.modConv_conv (s : State) (f : Converter → Converter) :
    (s.modConv f).conv = f s.conv := rfl
@[simp] theorem State.modConv_supply (s : State) (f : Converter → Converter) :
    (s.modConv f).supply = s.supply := rfl
@[simp] theorem State.modConv_sensor (s : State) (f : Converter → Converter) :
    (s.modConv f).sensor = s.sensor := rfl
@[simp] theorem State.modConv_sound (s : State) (f : Converter → Converter) :
    (s.modConv f).sound = s.sound := rfl
@[simp] theorem State.modConv_host (s : State) (f : Converter → Converter) :
    (s.modConv f).host = s.host := rfl
@[simp] theorem State.modConv_tablet (s : State) (f : Converter → Converter) :
    (s.modConv f).tablet = s.tablet := rfl
@[simp] theorem State.modConv_hostUnit (s : State) (f : Converter → Converter) :
    (s.modConv f).hostUnit = s.hostUnit := rfl
@[simp] theorem State.modConv_link (s : State) (f : Converter → Converter) :
    (s.modConv f).link = s.link := rfl
@[simp] theorem State.modConv_attn (s : State) (f : Converter → Converter) :
    (s.modConv f).attn = s.attn := rfl
@[simp] theorem State.modConv_clock (s : State) (f : Converter → Converter) :
    (s.modConv f).clock = s.clock := rfl
@[simp] theorem State.modConv_softReset (s : State) (f : Converter → Converter) :
    (s.modConv f).softReset = s.softReset := rfl
@[simp] theorem State.modConv_porActive (s : State) (f : Converter → Converter) :
    (s.modConv f).porActive = s.porActive := rfl
@[simp] theorem State.modConv_resetnLow (s : State) (f : Converter → Converter) :
    (s.modConv f).resetnLow = s.resetnLow := rfl
@[simp] theorem State.modConv_freeIdx (s : State) (f : Converter → Converter) :
    (s.modConv f).freeIdx = s.freeIdx := rfl
@[simp] theorem State.modConv_pending (s : State) (f : Converter → Converter) :
    (s.modConv f).pending = s.pending := rfl

@[simp] theorem State.modLink_motor (s : State) (f : Link → Link) :
    (s.modLink f).motor = s.motor := rfl
@[simp] theorem State.modLink_groups (s : State) (f : Link → Link) :
    (s.modLink f).groups = s.groups := rfl
@[simp] theorem State.modLink_conv (s : State) (f : Link → Link) :
    (s.modLink f).conv = s.conv := rfl
@[simp] theorem State.modLink_supply (s : State) (f : Link → Link) :
    (s.modLink f).supply = s.supply := rfl
@[simp] theorem State.modLink_sensor (s : State) (f : Link → Link) :
    (s.modLink f).sensor = s.sensor := rfl
@[simp] theorem State.modLink_sound (s : State) (f : Link → Link) :
    (s.modLink f).sound = s.sound := rfl
@[simp] theorem State.modLink_host (s : State) (f : Link → Link) :
    (s.modLink f).host = s.host := rfl
@[simp] theorem State.modLink_tablet (s : State) (f : Link → Link) :
    (s.modLink f).tablet = s.tablet := rfl
@[simp] theorem State.modLink_hostUnit (s : State) (f : Link → Link) :
    (s.modLink f).hostUnit = s.hostUnit := rfl
@[simp] theorem State.modLink_link (s : State) (f : Link → Link) :
    (s.modLink f).link = f s.link := rfl
@[simp] theorem State.modLink_attn (s : State) (f : Link → Link) :
    (s.modLink f).attn = s.attn := rfl
@[simp] theorem State.modLink_clock (s : State) (f : Link → Link) :
    (s.modLink f).clock = s.clock := rfl
@[simp] theorem State.modLink_softReset (s : State) (f : Link → Link) :
    (s.modLink f).softReset = s.softReset := rfl
@[simp] theorem State.modLink_porActive (s : State) (f : Link → Link) :
    (s.modLink f).porActive = s.porActive := rfl
@[simp] theorem State.modLink_resetnLow (s : State) (f : Link → Link) :
    (s.modLink f).resetnLow = s.resetnLow := rfl
@[simp] theorem State.modLink_freeIdx (s : State) (f : Link → Link) :
    (s.modLink f).freeIdx = s.freeIdx := rfl
@[simp] theorem State.modLink_pending (s : State) (f : Link → Link) :
    (s.modLink f).pending = s.pending := rfl

@[simp] theorem State.modHostUnit_motor (s : State) (f : HostUnit → HostUnit) :
    (s.modHostUnit f).motor = s.motor := rfl
@[simp] theorem State.modHostUnit_groups (s : State) (f : HostUnit → HostUnit) :
    (s.modHostUnit f).groups = s.groups := rfl
@[simp] theorem State.modHostUnit_conv (s : State) (f : HostUnit → HostUnit) :
    (s.modHostUnit f).conv = s.conv := rfl
@[simp] theorem State.modHostUnit_supply (s : State) (f : HostUnit → HostUnit) :
    (s.modHostUnit f).supply = s.supply := rfl
@[simp] theorem State.modHostUnit_sensor (s : State) (f : HostUnit → HostUnit) :
    (s.modHostUnit f).sensor = s.sensor := rfl
@[simp] theorem State.modHostUnit_sound (s : State) (f : HostUnit → HostUnit) :
    (s.modHostUnit f).sound = s.sound := rfl
@[simp] theorem State.modHostUnit_host (s : State) (f : HostUnit → HostUnit) :
    (s.modHostUnit f).host = s.host := rfl
@[simp] theorem State.modHostUnit_tablet (s : State) (f : HostUnit → HostUnit) :
    (s.modHostUnit f).tablet = s.tablet := rfl
@[simp] theorem State.modHostUnit_hostUnit (s : State) (f : HostUnit → HostUnit) :
    (s.modHostUnit f).hostUnit = f s.hostUnit := rfl
@[simp] theorem State.modHostUnit_link (s : State) (f : HostUnit → HostUnit) :
    (s.modHostUnit f).link = s.link := rfl
@[simp] theorem State.modHostUnit_attn (s : State) (f : HostUnit → HostUnit) :
    (s.modHostUnit f).attn = s.attn := rfl
@[simp] theorem State.modHostUnit_clock (s : State) (f : HostUnit → HostUnit) :
    (s.modHostUnit f).clock = s.clock := rfl
@[simp] theorem State.modHostUnit_softReset (s : State) (f : HostUnit → HostUnit) :
    (s.modHostUnit f).softReset = s.softReset := rfl
@[simp] theorem State.modHostUnit_porActive (s : State) (f : HostUnit → HostUnit) :
    (s.modHostUnit f).porActive = s.porActive := rfl
@[simp] theorem State.modHostUnit_resetnLow (s : State) (f : HostUnit → HostUnit) :
    (s.modHostUnit f).resetnLow = s.resetnLow := rfl
@[simp] theorem State.modHostUnit_freeIdx (s : State) (f : HostUnit → HostUnit) :
    (s.modHostUnit f).freeIdx = s.freeIdx := rfl
@[simp] theorem State.modHostUnit_pending (s : State) (f : HostUnit → HostUnit) :
    (s.modHostUnit f).pending = s.pending := rfl

@[simp] theorem State.raise_motor (s : State) (src : Source) :
    (s.raise src).motor = s.motor := rfl
@[simp] theorem State.raise_groups (s : State) (src : Source) :
    (s.raise src).groups = s.groups := rfl
@[simp] theorem State.raise_conv (s : State) (src : Source) :
    (s.raise src).conv = s.conv := rfl
@[simp] theorem State.raise_supply (s : State) (src : Source) :
    (s.raise src).supply = s.supply := rfl
@[simp] theorem State.raise_sensor (s : State) (src : Source) :
    (s.raise src).sensor = s.sensor := rfl
@[simp] theorem State.raise_sound (s : State) (src : Source) :
    (s.raise src).sound = s.sound := rfl
@[simp] theorem State.raise_host (s : State) (src : Source) :
    (s.raise src).host = s.host := rfl
@[simp] theorem State.raise_tablet (s : State) (src : Source) :
    (s.raise src).tablet = s.tablet := rfl
@[simp] theorem State.raise_hostUnit (s : State) (src : Source) :
    (s.raise src).hostUnit = s.hostUnit := rfl
@[simp] theorem State.raise_link (s : State) (src : Source) :
    (s.raise src).link = s.link := rfl
@[simp] theorem State.raise_attn (s : State) (src : Source) :
    (s.raise src).attn = s.attn.setCount src (satAdd 255 (s.attn.count src) 1) := rfl
@[simp] theorem State.raise_clock (s : State) (src : Source) :
    (s.raise src).clock = s.clock := rfl
@[simp] theorem State.raise_softReset (s : State) (src : Source) :
    (s.raise src).softReset = s.softReset := rfl
@[simp] theorem State.raise_porActive (s : State) (src : Source) :
    (s.raise src).porActive = s.porActive := rfl
@[simp] theorem State.raise_resetnLow (s : State) (src : Source) :
    (s.raise src).resetnLow = s.resetnLow := rfl
@[simp] theorem State.raise_freeIdx (s : State) (src : Source) :
    (s.raise src).freeIdx = s.freeIdx := rfl
@[simp] theorem State.raise_pending (s : State) (src : Source) :
    (s.raise src).pending = s.pending := rfl

@[simp] theorem State.raisePower_motor (s : State) (c : PowerCause) :
    (s.raisePower c).motor = s.motor := rfl
@[simp] theorem State.raisePower_groups (s : State) (c : PowerCause) :
    (s.raisePower c).groups = s.groups := rfl
@[simp] theorem State.raisePower_conv (s : State) (c : PowerCause) :
    (s.raisePower c).conv = s.conv := rfl
@[simp] theorem State.raisePower_supply (s : State) (c : PowerCause) :
    (s.raisePower c).supply = { s.supply with causes := s.supply.causes.set c } := rfl
@[simp] theorem State.raisePower_sensor (s : State) (c : PowerCause) :
    (s.raisePower c).sensor = s.sensor := rfl
@[simp] theorem State.raisePower_sound (s : State) (c : PowerCause) :
    (s.raisePower c).sound = s.sound := rfl
@[simp] theorem State.raisePower_host (s : State) (c : PowerCause) :
    (s.raisePower c).host = s.host := rfl
@[simp] theorem State.raisePower_tablet (s : State) (c : PowerCause) :
    (s.raisePower c).tablet = s.tablet := rfl
@[simp] theorem State.raisePower_hostUnit (s : State) (c : PowerCause) :
    (s.raisePower c).hostUnit = s.hostUnit := rfl
@[simp] theorem State.raisePower_link (s : State) (c : PowerCause) :
    (s.raisePower c).link = s.link := rfl
@[simp] theorem State.raisePower_attn (s : State) (c : PowerCause) :
    (s.raisePower c).attn = s.attn.setCount .power (satAdd 255 (s.attn.count .power) 1) := rfl
@[simp] theorem State.raisePower_clock (s : State) (c : PowerCause) :
    (s.raisePower c).clock = s.clock := rfl
@[simp] theorem State.raisePower_softReset (s : State) (c : PowerCause) :
    (s.raisePower c).softReset = s.softReset := rfl
@[simp] theorem State.raisePower_porActive (s : State) (c : PowerCause) :
    (s.raisePower c).porActive = s.porActive := rfl
@[simp] theorem State.raisePower_resetnLow (s : State) (c : PowerCause) :
    (s.raisePower c).resetnLow = s.resetnLow := rfl
@[simp] theorem State.raisePower_freeIdx (s : State) (c : PowerCause) :
    (s.raisePower c).freeIdx = s.freeIdx := rfl
@[simp] theorem State.raisePower_pending (s : State) (c : PowerCause) :
    (s.raisePower c).pending = s.pending := rfl

@[simp] theorem State.raiseSensor_motor (s : State) (i : Idx6) (c : SensorCause) :
    (s.raiseSensor i c).motor = s.motor := rfl
@[simp] theorem State.raiseSensor_groups (s : State) (i : Idx6) (c : SensorCause) :
    (s.raiseSensor i c).groups = s.groups := rfl
@[simp] theorem State.raiseSensor_conv (s : State) (i : Idx6) (c : SensorCause) :
    (s.raiseSensor i c).conv = s.conv := rfl
@[simp] theorem State.raiseSensor_supply (s : State) (i : Idx6) (c : SensorCause) :
    (s.raiseSensor i c).supply = s.supply := rfl
@[simp] theorem State.raiseSensor_sensor (s : State) (i : Idx6) (c : SensorCause) :
    (s.raiseSensor i c).sensor = s.sensor.set i { s.sensor.get i with causes := (s.sensor.get i).causes.set c } := rfl
@[simp] theorem State.raiseSensor_sound (s : State) (i : Idx6) (c : SensorCause) :
    (s.raiseSensor i c).sound = s.sound := rfl
@[simp] theorem State.raiseSensor_host (s : State) (i : Idx6) (c : SensorCause) :
    (s.raiseSensor i c).host = s.host := rfl
@[simp] theorem State.raiseSensor_tablet (s : State) (i : Idx6) (c : SensorCause) :
    (s.raiseSensor i c).tablet = s.tablet := rfl
@[simp] theorem State.raiseSensor_hostUnit (s : State) (i : Idx6) (c : SensorCause) :
    (s.raiseSensor i c).hostUnit = s.hostUnit := rfl
@[simp] theorem State.raiseSensor_link (s : State) (i : Idx6) (c : SensorCause) :
    (s.raiseSensor i c).link = s.link := rfl
@[simp] theorem State.raiseSensor_attn (s : State) (i : Idx6) (c : SensorCause) :
    (s.raiseSensor i c).attn = s.attn.setCount (.sensor i) (satAdd 255 (s.attn.count (.sensor i)) 1) := rfl
@[simp] theorem State.raiseSensor_clock (s : State) (i : Idx6) (c : SensorCause) :
    (s.raiseSensor i c).clock = s.clock := rfl
@[simp] theorem State.raiseSensor_softReset (s : State) (i : Idx6) (c : SensorCause) :
    (s.raiseSensor i c).softReset = s.softReset := rfl
@[simp] theorem State.raiseSensor_porActive (s : State) (i : Idx6) (c : SensorCause) :
    (s.raiseSensor i c).porActive = s.porActive := rfl
@[simp] theorem State.raiseSensor_resetnLow (s : State) (i : Idx6) (c : SensorCause) :
    (s.raiseSensor i c).resetnLow = s.resetnLow := rfl
@[simp] theorem State.raiseSensor_freeIdx (s : State) (i : Idx6) (c : SensorCause) :
    (s.raiseSensor i c).freeIdx = s.freeIdx := rfl
@[simp] theorem State.raiseSensor_pending (s : State) (i : Idx6) (c : SensorCause) :
    (s.raiseSensor i c).pending = s.pending := rfl

@[simp] theorem State.raiseIf_motor (s : State) (b : Bool) (src : Source) :
    (s.raiseIf b src).motor = s.motor := by cases b <;> rfl
@[simp] theorem State.raiseIf_groups (s : State) (b : Bool) (src : Source) :
    (s.raiseIf b src).groups = s.groups := by cases b <;> rfl
@[simp] theorem State.raiseIf_conv (s : State) (b : Bool) (src : Source) :
    (s.raiseIf b src).conv = s.conv := by cases b <;> rfl
@[simp] theorem State.raiseIf_supply (s : State) (b : Bool) (src : Source) :
    (s.raiseIf b src).supply = s.supply := by cases b <;> rfl
@[simp] theorem State.raiseIf_sensor (s : State) (b : Bool) (src : Source) :
    (s.raiseIf b src).sensor = s.sensor := by cases b <;> rfl
@[simp] theorem State.raiseIf_sound (s : State) (b : Bool) (src : Source) :
    (s.raiseIf b src).sound = s.sound := by cases b <;> rfl
@[simp] theorem State.raiseIf_host (s : State) (b : Bool) (src : Source) :
    (s.raiseIf b src).host = s.host := by cases b <;> rfl
@[simp] theorem State.raiseIf_tablet (s : State) (b : Bool) (src : Source) :
    (s.raiseIf b src).tablet = s.tablet := by cases b <;> rfl
@[simp] theorem State.raiseIf_hostUnit (s : State) (b : Bool) (src : Source) :
    (s.raiseIf b src).hostUnit = s.hostUnit := by cases b <;> rfl
@[simp] theorem State.raiseIf_link (s : State) (b : Bool) (src : Source) :
    (s.raiseIf b src).link = s.link := by cases b <;> rfl
@[simp] theorem State.raiseIf_clock (s : State) (b : Bool) (src : Source) :
    (s.raiseIf b src).clock = s.clock := by cases b <;> rfl
@[simp] theorem State.raiseIf_softReset (s : State) (b : Bool) (src : Source) :
    (s.raiseIf b src).softReset = s.softReset := by cases b <;> rfl
@[simp] theorem State.raiseIf_porActive (s : State) (b : Bool) (src : Source) :
    (s.raiseIf b src).porActive = s.porActive := by cases b <;> rfl
@[simp] theorem State.raiseIf_resetnLow (s : State) (b : Bool) (src : Source) :
    (s.raiseIf b src).resetnLow = s.resetnLow := by cases b <;> rfl
@[simp] theorem State.raiseIf_freeIdx (s : State) (b : Bool) (src : Source) :
    (s.raiseIf b src).freeIdx = s.freeIdx := by cases b <;> rfl
@[simp] theorem State.raiseIf_pending (s : State) (b : Bool) (src : Source) :
    (s.raiseIf b src).pending = s.pending := by cases b <;> rfl

@[simp] theorem State.modLine_motor (s : State) (l : LineId) (f : LineUnit → LineUnit) :
    (s.modLine l f).motor = s.motor := by cases l <;> rfl
@[simp] theorem State.modLine_groups (s : State) (l : LineId) (f : LineUnit → LineUnit) :
    (s.modLine l f).groups = s.groups := by cases l <;> rfl
@[simp] theorem State.modLine_conv (s : State) (l : LineId) (f : LineUnit → LineUnit) :
    (s.modLine l f).conv = s.conv := by cases l <;> rfl
@[simp] theorem State.modLine_supply (s : State) (l : LineId) (f : LineUnit → LineUnit) :
    (s.modLine l f).supply = s.supply := by cases l <;> rfl
@[simp] theorem State.modLine_sensor (s : State) (l : LineId) (f : LineUnit → LineUnit) :
    (s.modLine l f).sensor = s.sensor := by cases l <;> rfl
@[simp] theorem State.modLine_sound (s : State) (l : LineId) (f : LineUnit → LineUnit) :
    (s.modLine l f).sound = s.sound := by cases l <;> rfl
@[simp] theorem State.modLine_hostUnit (s : State) (l : LineId) (f : LineUnit → LineUnit) :
    (s.modLine l f).hostUnit = s.hostUnit := by cases l <;> rfl
@[simp] theorem State.modLine_link (s : State) (l : LineId) (f : LineUnit → LineUnit) :
    (s.modLine l f).link = s.link := by cases l <;> rfl
@[simp] theorem State.modLine_attn (s : State) (l : LineId) (f : LineUnit → LineUnit) :
    (s.modLine l f).attn = s.attn := by cases l <;> rfl
@[simp] theorem State.modLine_clock (s : State) (l : LineId) (f : LineUnit → LineUnit) :
    (s.modLine l f).clock = s.clock := by cases l <;> rfl
@[simp] theorem State.modLine_softReset (s : State) (l : LineId) (f : LineUnit → LineUnit) :
    (s.modLine l f).softReset = s.softReset := by cases l <;> rfl
@[simp] theorem State.modLine_porActive (s : State) (l : LineId) (f : LineUnit → LineUnit) :
    (s.modLine l f).porActive = s.porActive := by cases l <;> rfl
@[simp] theorem State.modLine_resetnLow (s : State) (l : LineId) (f : LineUnit → LineUnit) :
    (s.modLine l f).resetnLow = s.resetnLow := by cases l <;> rfl
@[simp] theorem State.modLine_freeIdx (s : State) (l : LineId) (f : LineUnit → LineUnit) :
    (s.modLine l f).freeIdx = s.freeIdx := by cases l <;> rfl
@[simp] theorem State.modLine_pending (s : State) (l : LineId) (f : LineUnit → LineUnit) :
    (s.modLine l f).pending = s.pending := by cases l <;> rfl

@[simp] theorem State.modLine_lineAt_same (s : State) (l : LineId) (f : LineUnit → LineUnit) :
    (s.modLine l f).lineAt l = f (s.lineAt l) := by cases l <;> rfl
@[simp] theorem State.modLine_lineAt_ne (s : State) {l k : LineId} (f : LineUnit → LineUnit) (h : k ≠ l) :
    (s.modLine l f).lineAt k = s.lineAt k := by cases l <;> cases k <;> first | rfl | contradiction

@[simp] theorem State.lineAt_host (s : State) : s.lineAt .host = s.host := rfl
@[simp] theorem State.lineAt_tablet (s : State) : s.lineAt .tablet = s.tablet := rfl

@[simp] theorem State.modLine_host_host (s : State) (f : LineUnit → LineUnit) : (s.modLine .host f).host = f s.host := rfl
@[simp] theorem State.modLine_host_tablet (s : State) (f : LineUnit → LineUnit) : (s.modLine .host f).tablet = s.tablet := rfl
@[simp] theorem State.modLine_tablet_host (s : State) (f : LineUnit → LineUnit) : (s.modLine .tablet f).host = s.host := rfl
@[simp] theorem State.modLine_tablet_tablet (s : State) (f : LineUnit → LineUnit) :
    (s.modLine .tablet f).tablet = f s.tablet := rfl

/-! ### One port, one sensor port -/

theorem State.modPort_port (s : State) (m k : Idx6) (f : Port → Port) :
    (s.modPort m f).port k = if k = m then f (s.port m) else s.port k := by
  simp only [State.port, State.modPort_motor, Six.get_set]
@[simp] theorem State.modPort_port_same (s : State) (m : Idx6) (f : Port → Port) :
    (s.modPort m f).port m = f (s.port m) := by rw [State.modPort_port, if_pos rfl]
@[simp] theorem State.modPort_port_ne (s : State) {m k : Idx6} (f : Port → Port) (h : k ≠ m) :
    (s.modPort m f).port k = s.port k := by rw [State.modPort_port, if_neg h]

theorem State.modSensor_sensorAt (s : State) (i k : Idx6) (f : SensorPort → SensorPort) :
    (s.modSensor i f).sensorAt k = if k = i then f (s.sensorAt i) else s.sensorAt k := by
  simp only [State.sensorAt, State.modSensor_sensor, Six.get_set]
@[simp] theorem State.modSensor_sensorAt_same (s : State) (i : Idx6) (f : SensorPort → SensorPort) :
    (s.modSensor i f).sensorAt i = f (s.sensorAt i) := by rw [State.modSensor_sensorAt, if_pos rfl]
@[simp] theorem State.modSensor_sensorAt_ne (s : State) {i k : Idx6} (f : SensorPort → SensorPort) (h : k ≠ i) :
    (s.modSensor i f).sensorAt k = s.sensorAt k := by rw [State.modSensor_sensorAt, if_neg h]

/-! ### The attention table -/

@[simp] theorem Attention.setCount_same (a : Attention) (src : Source) (n : Nat) : (a.setCount src n).count src = n := by
  cases src <;> simp [Attention.setCount, Attention.count]
@[simp] theorem Attention.setCount_ne (a : Attention) {src other : Source} (n : Nat) (h : other ≠ src) :
    (a.setCount src n).count other = a.count other := by
  cases src <;> cases other <;> simp_all [Attention.setCount, Attention.count]
@[simp] theorem Attention.setCount_mask (a : Attention) (src : Source) (n : Nat) : (a.setCount src n).mask = a.mask := by
  cases src <;> rfl

end Sys2Proof.Machine
end

