-- ==== Sys2Proof/Laws/Answer.lean ====
section
/-! SUPPORT. Reading a request's list of checks: what it takes for one to pass. -/

namespace Sys2Proof.Machine

@[simp] theorem Check.bind_ok {α β : Type} (x : Check α) (f : α → Check β) (b : β) :
    (x >>= f) = .ok b ↔ ∃ a, x = .ok a ∧ f a = .ok b := by
  cases x with
  | ok a => exact ⟨fun h => ⟨a, rfl, h⟩, fun ⟨_, h, hf⟩ => by cases h; exact hf⟩
  | error e => exact ⟨fun h => (by cases h), fun ⟨_, h, _⟩ => (by cases h)⟩

@[simp] theorem Check.pure_ok {α : Type} (a b : α) : (pure a : Check α) = .ok b ↔ a = b :=
  ⟨fun h => by cases h; rfl, fun h => by rw [h]; rfl⟩

@[simp] theorem need_ok (c : Bool) (st : Status) (u : Unit) : need c st = .ok u ↔ c = true := by
  cases c <;> simp [need]

@[simp] theorem require_ok {α : Type} (o : Option α) (st : Status) (a : α) : require o st = .ok a ↔ o = some a := by
  cases o <;> simp [require]

@[simp] theorem Check.map_ok {α β : Type} (x : Check α) (f : α → β) (b : β) :
    Except.map f x = .ok b ↔ ∃ a, x = .ok a ∧ f a = b := by
  cases x with
  | ok a => simp [Except.map]
  | error e => simp [Except.map]

@[simp] theorem Check.bind_of_ok {α β : Type} (a : α) (f : α → Check β) : ((.ok a : Check α) >>= f) = f a := rfl
@[simp] theorem Check.bind_of_error {α β : Type} (e : Refused) (f : α → Check β) :
    ((.error e : Check α) >>= f) = .error e := rfl
@[simp] theorem need_true (st : Status) : need true st = .ok () := rfl
@[simp] theorem need_false (st : Status) : need false st = .error ⟨st, []⟩ := rfl
@[simp] theorem require_some {α : Type} (a : α) (st : Status) : require (some a) st = .ok a := rfl
@[simp] theorem require_none {α : Type} (st : Status) : require (none : Option α) st = .error ⟨st, []⟩ := rfl

/-- A numeric field that passes keeps its value and lies in its range. -/
@[simp] theorem inRange_ok (lo hi n m : Nat) : inRange lo hi n = .ok m ↔ (lo ≤ n ∧ n ≤ hi) ∧ m = n := by
  unfold inRange need
  by_cases h : (decide (lo ≤ n) && decide (n ≤ hi)) = true
  · simp only [h]
    simp only [Bool.and_eq_true, decide_eq_true_eq] at h
    constructor
    · intro e; cases e; exact ⟨h, rfl⟩
    · rintro ⟨_, rfl⟩; rfl
  · simp only [h]
    simp only [Bool.and_eq_true, decide_eq_true_eq] at h
    constructor
    · intro e; cases e
    · rintro ⟨h2, _⟩; exact absurd h2 h

end Sys2Proof.Machine
end

