-- ==== Sys2Proof/Laws/Drive.lean ====
section
/-! SUPPORT. What one event that clears the queues of several ports does, said once (R13, R16, R17, R22, R52): each port
changes for itself, so the sweep over the six ports is one change of each. -/

namespace Sys2Proof.Machine

/-- One port changed and its MOTOR attention raised on a condition, written as one update. -/
theorem modPort_raiseIf (s : State) (m : Idx6) (f : Port → Port) (b : Bool) :
    (s.modPort m f).raiseIf b (.motor m) = { s with
      motor := s.motor.set m (f (s.motor.get m))
      attn := { s.attn with
        motor := s.attn.motor.set m (if b then min 255 (s.attn.motor.get m + 1) else s.attn.motor.get m) } } := by
  cases b
  · cases m <;> rfl
  · rfl

theorem Six.ofFn_get {α : Type} (v : Six α) : Six.ofFn v.get = v := rfl

theorem foldl_ports_list (s : State) (F : State → Idx6 → State) (f : Idx6 → Port → Port) (b : Idx6 → Port → Bool)
    (h : ∀ t m, t.clock = s.clock → F t m = (t.modPort m (f m)).raiseIf (b m (t.port m)) (.motor m))
    (l : List Idx6) (hl : l.Nodup) (t : State) (ht : t.clock = s.clock) :
    l.foldl F t = { t with
      motor := Six.ofFn fun m => if m ∈ l then f m (t.motor.get m) else t.motor.get m
      attn := { t.attn with
        motor := Six.ofFn fun m =>
          if m ∈ l ∧ b m (t.motor.get m) = true then min 255 (t.attn.motor.get m + 1) else t.attn.motor.get m } } := by
  induction l generalizing t with
  | nil => simp [Six.ofFn_get]
  | cons m l ih =>
    rw [List.foldl_cons, h t m ht, modPort_raiseIf]
    refine (ih (List.nodup_cons.mp hl).2 _ ?_).trans ?_
    · exact ht
    have hm := (List.nodup_cons.mp hl).1
    congr 1
    · congr 1
      funext q
      dsimp only
      rw [Six.get_set]
      by_cases hq : q = m
      · subst hq; simp [hm]
      · simp [hq]
    · refine congrArg (fun w : Six Nat => ({ t.attn with motor := w } : Attention)) (Six.ext_get fun q => ?_)
      simp only [Six.get_ofFn, Six.get_set]
      by_cases hq : q = m
      · subst hq
        cases hb : b q (t.motor.get q) <;> simp [hm, State.port, hb]
      · simp [hq]

/-- A sweep over the six ports, each step changing only its own port and its own attention entry, changes each port and
each entry once. -/
theorem foldl_ports (s : State) (F : State → Idx6 → State) (f : Idx6 → Port → Port) (b : Idx6 → Port → Bool)
    (h : ∀ t m, t.clock = s.clock → F t m = (t.modPort m (f m)).raiseIf (b m (t.port m)) (.motor m)) :
    Idx6.all.foldl F s = { s with
      motor := Six.ofFn fun m => f m (s.port m)
      attn := { s.attn with
        motor := Six.ofFn fun m =>
          if b m (s.port m) then min 255 (s.attn.motor.get m + 1) else s.attn.motor.get m } } := by
  have ha : ∀ m, m ∈ Idx6.all := by intro m; cases m <;> decide
  rw [foldl_ports_list s F f b h Idx6.all (by decide) s rfl]
  simp only [ha, if_true, true_and]
  rfl

/-- A port with its running move ended where there is an ending, its queue discarded, and waiting for its group no longer:
what `clearPort` hands to the rest that follows. -/
def Port.cleared (p : Port) (ending : Option OutcomeCode) (uptime : Word) : Port :=
  ((match ending with | some x => p.endRunning x uptime | none => p).discardQueue).leaveWait

theorem clearPort_eq (s : State) (m : Idx6) (ending : Option OutcomeCode) (after : Port → Port) :
    s.clearPort m ending after =
      (s.modPort m fun p => after (p.cleared ending s.uptime)).raiseIf
        ((ending.isSome && (s.port m).isRunning) ||
          satAdd 255 (s.port m).discarded (s.port m).queue.length != (s.port m).discarded) (.motor m) := by
  cases ending with
  | none => rfl
  | some x =>
    have hd : (((s.port m).endRunning x s.uptime).discardQueue).discarded =
        satAdd 255 (s.port m).discarded (s.port m).queue.length := by
      cases ha : (s.port m).act <;> simp [Port.endRunning, ha, Port.discardQueue, Port.addOutcome]
    unfold State.clearPort Port.cleared
    simp only [hd]
    rfl

theorem modPort_self (s : State) (m : Idx6) : s.modPort m (fun p => p) = s := by cases m <;> rfl

theorem modPort_congr {s : State} {m : Idx6} {f g : Port → Port} (h : f (s.port m) = g (s.port m)) :
    s.modPort m f = s.modPort m g := by
  have h' : f (s.motor.get m) = g (s.motor.get m) := h
  unfold State.modPort; rw [h']

theorem breakHead_eq (s : State) (m : Idx6) :
    s.breakHead m =
      (s.modPort m fun p => p.brokenHead s.uptime).raiseIf (!(s.port m).queue.isEmpty) (.motor m) := by
  unfold State.breakHead
  cases hq : (s.port m).queue with
  | nil =>
    have hb : (s.port m).brokenHead s.uptime = s.port m := by simp [Port.brokenHead, hq]
    have : (s.modPort m fun p => p.brokenHead s.uptime) = s :=
      (modPort_congr (f := fun p => p.brokenHead s.uptime) (g := fun p => p) hb).trans (modPort_self s m)
    simp [this, State.raiseIf]
  | cons mv rest =>
    have hb : (s.port m).brokenHead s.uptime =
        ({ s.port m with queue := rest, replacing := false }.leaveWait).addOutcome mv .groupBroken s.uptime := by
      unfold Port.brokenHead
      rw [hq]
      cases ha : (s.port m).act <;>
        (by_cases hl : (s.port m).outcomes.length < 4 <;>
          simp [Port.leaveWait, ha, Port.addOutcome, pushOutcome, Activity.notWaiting, hl, satAdd])
    rw [modPort_congr (f := fun p => p.brokenHead s.uptime)
      (g := fun p => ({ p with queue := rest, replacing := false }.leaveWait).addOutcome mv .groupBroken s.uptime) hb]
    simp [State.raiseIf]

/-- Everything one event that clears the queues of the ports `who` can do: each of them is cleared and put where `after`
puts it, each group wait that a discarded head broke loses its own head, each port on which a record was made or the
discard count changed has one raise, and nothing else changes. -/
theorem clearPorts_stops (s : State) (who : Six Bool) (ending : Option OutcomeCode) (after f : Port → Port)
    (ha : ∀ m, who.get m = true → after ((s.port m).cleared ending s.uptime) = f (s.port m))
    (hf : ∀ m, who.get m = true →
      (f (s.port m)).discarded = satAdd 255 (s.port m).discarded (s.port m).queue.length) :
    StopsPorts s (s.clearPorts who ending after) who f ending.isSome := by
  have h1 := foldl_ports s (fun t m => if who.get m then t.clearPort m ending after else t)
    (fun m p => if who.get m then after (p.cleared ending s.uptime) else p)
    (fun m p => who.get m && ((ending.isSome && p.isRunning) || satAdd 255 p.discarded p.queue.length != p.discarded))
    (by
      intro t m hc
      have hu : t.uptime = s.uptime := by unfold State.uptime; rw [hc]
      cases hw : who.get m
      · simp [State.raiseIf, modPort_self]
      · simp [clearPort_eq, hu])
  generalize hm : Idx6.all.foldl (fun t m => if who.get m then t.clearPort m ending after else t) s = mid at h1
  have hgo : ∀ q, s.losesHead who q = true → who.get q = false ∧ (s.port q).queue.isEmpty = false := by
    intro q hq
    simp only [State.losesHead, Bool.and_eq_true, Bool.not_eq_true', State.readyFor, bne_iff_ne, ne_eq] at hq
    refine ⟨hq.1.1, ?_⟩
    have hg := hq.1.2.2
    cases hqu : (s.port q).queue with
    | nil => simp [Port.headGroup, hqu] at hg
    | cons _ _ => rfl
  have h2 := foldl_ports mid (fun t q =>
      if s.losesHead who q then t.breakHead q else t)
    (fun q p => if s.losesHead who q then p.brokenHead s.uptime else p)
    (fun q p => s.losesHead who q && !p.queue.isEmpty)
    (by
      intro t m hc
      have hu : t.uptime = s.uptime := by unfold State.uptime; rw [hc, h1]
      cases hw : s.losesHead who m
      · simp [State.raiseIf, modPort_self]
      · simp [breakHead_eq, hu])
  have hcp : s.clearPorts who ending after = Idx6.all.foldl (fun t q =>
      if s.losesHead who q then t.breakHead q else t) mid := by
    unfold State.clearPorts; rw [hm]; rfl
  have mport : ∀ m, mid.port m = if who.get m then after ((s.port m).cleared ending s.uptime) else s.port m := by
    intro m; rw [h1]; cases m <;> rfl
  have mattn : ∀ m, mid.attn.motor.get m =
      if (who.get m && ((ending.isSome && (s.port m).isRunning) ||
        satAdd 255 (s.port m).discarded (s.port m).queue.length != (s.port m).discarded)) = true
      then min 255 (s.attn.motor.get m + 1) else s.attn.motor.get m := by
    intro m; rw [h1]; cases m <;> rfl
  rw [hcp, h2]
  refine ⟨?_, ?_, ?_⟩
  · intro m
    have e : ({ mid with
        motor := Six.ofFn fun m => if s.losesHead who m then (mid.port m).brokenHead s.uptime else mid.port m
        attn := { mid.attn with
          motor := Six.ofFn fun m =>
            if (s.losesHead who m && !(mid.port m).queue.isEmpty) = true then min 255 (mid.attn.motor.get m + 1)
            else mid.attn.motor.get m } } : State).port m =
        if s.losesHead who m then (mid.port m).brokenHead s.uptime else mid.port m := by cases m <;> rfl
    rw [e, mport]
    cases hw : who.get m
    · simp
    · have : s.losesHead who m = false := by
        cases hl : s.losesHead who m
        · rfl
        · exact absurd (hgo m hl).1 (by simp [hw])
      simp [this, ha m hw]
  · intro m
    have e : ({ mid with
        motor := Six.ofFn fun m => if s.losesHead who m then (mid.port m).brokenHead s.uptime else mid.port m
        attn := { mid.attn with
          motor := Six.ofFn fun m =>
            if (s.losesHead who m && !(mid.port m).queue.isEmpty) = true then min 255 (mid.attn.motor.get m + 1)
            else mid.attn.motor.get m } } : State).attn.count (.motor m) =
        if (s.losesHead who m && !(mid.port m).queue.isEmpty) = true then min 255 (mid.attn.motor.get m + 1)
          else mid.attn.motor.get m := by cases m <;> rfl
    rw [e, mattn, mport]
    have c : s.attn.count (.motor m) = s.attn.motor.get m := rfl
    rw [c]
    cases hw : who.get m
    · cases hl : s.losesHead who m
      · simp
      · simp [(hgo m hl).2]
    · have : s.losesHead who m = false := by
        cases hl : s.losesHead who m
        · rfl
        · exact absurd (hgo m hl).1 (by simp [hw])
      simp [this, hf m hw]
  · rw [h1]

end Sys2Proof.Machine
end

