-- ==== Sys2Proof/Laws/Lines.lean ====
section
/-! SUPPORT. What taking a request and beginning a frame can do to the two lines. -/

namespace Sys2Proof.Machine

/-- Two states with the same lines, break, RADIO_READY, reset conditions, clock and waiting commands. -/
structure SameLines (s t : State) : Prop where
  host : t.host = s.host
  tablet : t.tablet = s.tablet
  brk : t.link.breakTimer = s.link.breakTimer
  radio : t.link.radioReady = s.link.radioReady
  por : t.porActive = s.porActive
  pin : t.resetnLow = s.resetnLow
  clock : t.clock = s.clock
  pending : t.pending = s.pending

theorem SameLines.refl (s : State) : SameLines s s := ⟨rfl, rfl, rfl, rfl, rfl, rfl, rfl, rfl⟩

theorem SameLines.trans {s t u : State} (h : SameLines s t) (k : SameLines t u) : SameLines s u :=
  ⟨k.host.trans h.host, k.tablet.trans h.tablet, k.brk.trans h.brk, k.radio.trans h.radio, k.por.trans h.por,
    k.pin.trans h.pin, k.clock.trans h.clock, k.pending.trans h.pending⟩

/-! ### The shared operations -/

theorem sameLines_modPort (s : State) (m : Idx6) (f : Port → Port) : SameLines s (s.modPort m f) := ⟨rfl, rfl, rfl, rfl, rfl, rfl, rfl, rfl⟩
theorem sameLines_modSensor (s : State) (i : Idx6) (f : SensorPort → SensorPort) : SameLines s (s.modSensor i f) := ⟨rfl, rfl, rfl, rfl, rfl, rfl, rfl, rfl⟩
theorem sameLines_modSmart (s : State) (i : Idx6) (f : Smart → Smart) : SameLines s (s.modSmart i f) := ⟨rfl, rfl, rfl, rfl, rfl, rfl, rfl, rfl⟩
theorem sameLines_modSound (s : State) (f : Sound → Sound) : SameLines s (s.modSound f) := ⟨rfl, rfl, rfl, rfl, rfl, rfl, rfl, rfl⟩
theorem sameLines_modSupply (s : State) (f : Supply → Supply) : SameLines s (s.modSupply f) := ⟨rfl, rfl, rfl, rfl, rfl, rfl, rfl, rfl⟩
theorem sameLines_modConv (s : State) (f : Converter → Converter) : SameLines s (s.modConv f) := ⟨rfl, rfl, rfl, rfl, rfl, rfl, rfl, rfl⟩
theorem sameLines_modHostUnit (s : State) (f : HostUnit → HostUnit) : SameLines s (s.modHostUnit f) := ⟨rfl, rfl, rfl, rfl, rfl, rfl, rfl, rfl⟩
theorem sameLines_raise (s : State) (src : Source) : SameLines s (s.raise src) := ⟨rfl, rfl, rfl, rfl, rfl, rfl, rfl, rfl⟩
theorem sameLines_raiseSensor (s : State) (i : Idx6) (c : SensorCause) : SameLines s (s.raiseSensor i c) := ⟨rfl, rfl, rfl, rfl, rfl, rfl, rfl, rfl⟩
theorem sameLines_raiseIf (s : State) (b : Bool) (src : Source) : SameLines s (s.raiseIf b src) := by
  cases b <;> exact ⟨rfl, rfl, rfl, rfl, rfl, rfl, rfl, rfl⟩
theorem sameLines_modLink (s : State) (f : Link → Link) (hb : (f s.link).breakTimer = s.link.breakTimer)
    (hr : (f s.link).radioReady = s.link.radioReady) : SameLines s (s.modLink f) :=
  ⟨rfl, rfl, hb, hr, rfl, rfl, rfl, rfl⟩
theorem sameLines_evalReady (s : State) : SameLines s s.evalReady := by
  unfold State.evalReady; split
  · exact ⟨rfl, rfl, rfl, rfl, rfl, rfl, rfl, rfl⟩
  · split <;> exact ⟨rfl, rfl, rfl, rfl, rfl, rfl, rfl, rfl⟩
theorem sameLines_valueSet (s : State) (i : Idx6) (st : ReadingStatus) (n : Nat) (v : Values) (d : Nat) :
    SameLines s (s.valueSet i st n v d) := ⟨rfl, rfl, rfl, rfl, rfl, rfl, rfl, rfl⟩

theorem SameLines.then_raiseIf {s t : State} (h : SameLines s t) (b : Bool) (src : Source) :
    SameLines s (t.raiseIf b src) := h.trans (sameLines_raiseIf t b src)

/-- A fold whose every step keeps the lines keeps them. -/
theorem sameLines_foldl {α : Type} (f : State → α → State) (h : ∀ s a, SameLines s (f s a)) (l : List α) (s : State) :
    SameLines s (l.foldl f s) := by
  induction l generalizing s with
  | nil => exact ⟨rfl, rfl, rfl, rfl, rfl, rfl, rfl, rfl⟩
  | cons a l ih => exact (h s a).trans (ih _)

theorem sameLines_clearPort (s : State) (m : Idx6) (x : Option OutcomeCode) (f : Port → Port) :
    SameLines s (s.clearPort m x f) := by
  unfold State.clearPort
  exact (sameLines_modPort _ _ _).trans (sameLines_raiseIf _ _ _)

theorem sameLines_breakHead (s : State) (m : Idx6) : SameLines s (s.breakHead m) := by
  unfold State.breakHead; split <;> exact ⟨rfl, rfl, rfl, rfl, rfl, rfl, rfl, rfl⟩

theorem sameLines_breakGroups (s before : State) (who : Six Bool) : SameLines s (s.breakGroups before who) := by
  unfold State.breakGroups
  refine sameLines_foldl _ (fun t q => ?_) _ _
  dsimp only; split
  · exact sameLines_breakHead _ _
  · exact ⟨rfl, rfl, rfl, rfl, rfl, rfl, rfl, rfl⟩

theorem sameLines_clearPorts (s : State) (who : Six Bool) (x : Option OutcomeCode) (f : Port → Port) :
    SameLines s (s.clearPorts who x f) := by
  unfold State.clearPorts
  refine (sameLines_foldl _ (fun t m => ?_) _ _).trans (sameLines_breakGroups _ _ _)
  split
  · exact sameLines_clearPort _ _ _ _
  · exact ⟨rfl, rfl, rfl, rfl, rfl, rfl, rfl, rfl⟩

theorem sameLines_soundStop (s : State) (x : OutcomeCode) : SameLines s (s.soundStop x) :=
  (sameLines_modSound s _).then_raiseIf _ _

theorem sameLines_readPin (s : State) (d : Drive) (p : Pull) : SameLines s (s.readPin d p).2 := by
  unfold State.readPin State.takeFree; split <;> exact ⟨rfl, rfl, rfl, rfl, rfl, rfl, rfl, rfl⟩

theorem sameLines_enterPin (s : State) (d : Drive) (p : Pull) (dir : Direction) (n : Nat) (e : Edge) :
    SameLines s (s.enterPin d p dir n e).2 := by
  unfold State.enterPin; split
  · exact sameLines_readPin _ _ _
  · exact ⟨rfl, rfl, rfl, rfl, rfl, rfl, rfl, rfl⟩
  · exact ⟨rfl, rfl, rfl, rfl, rfl, rfl, rfl, rfl⟩

theorem sameLines_endWork (s : State) (i : Idx6) : SameLines s (s.endWork i) := ⟨rfl, rfl, rfl, rfl, rfl, rfl, rfl, rfl⟩

theorem sameLines_enterMode (s : State) (i : Idx6) (m : ModeSetup) : SameLines s (s.enterMode i m) := by
  unfold State.enterMode; split
  · exact ⟨rfl, rfl, rfl, rfl, rfl, rfl, rfl, rfl⟩
  · exact ⟨rfl, rfl, rfl, rfl, rfl, rfl, rfl, rfl⟩
  · exact ((sameLines_enterPin s _ _ _ _ _).trans (sameLines_enterPin _ _ _ _ _ _)).trans ⟨rfl, rfl, rfl, rfl, rfl, rfl, rfl, rfl⟩
  · exact ((sameLines_readPin s _ _).trans (sameLines_readPin _ _ _)).trans ⟨rfl, rfl, rfl, rfl, rfl, rfl, rfl, rfl⟩
  · exact ⟨rfl, rfl, rfl, rfl, rfl, rfl, rfl, rfl⟩

theorem sameLines_modeEntry (s : State) (i : Idx6) (m : ModeSetup) (p : Policy) : SameLines s (s.modeEntry i m p) := by
  unfold State.modeEntry
  exact ((sameLines_endWork s i).trans (sameLines_enterMode _ i m)).trans ⟨rfl, rfl, rfl, rfl, rfl, rfl, rfl, rfl⟩

theorem sameLines_refill (s : State) : SameLines s s.refill := ⟨rfl, rfl, rfl, rfl, rfl, rfl, rfl, rfl⟩

theorem sameLines_startClip (s : State) : SameLines s s.startClip := by
  unfold State.startClip; split
  · exact ⟨rfl, rfl, rfl, rfl, rfl, rfl, rfl, rfl⟩
  · dsimp only; split <;> exact ⟨rfl, rfl, rfl, rfl, rfl, rfl, rfl, rfl⟩

theorem sameLines_setLinkState (s : State) (x : LinkState) : SameLines s (s.setLinkState x) := by
  unfold State.setLinkState
  exact (sameLines_modLink s _ rfl rfl).trans (sameLines_raiseIf _ _ _)

theorem sameLines_clearReported (s : State) (src : Source) : SameLines s (s.clearReported src) := by
  cases src <;> exact ⟨rfl, rfl, rfl, rfl, rfl, rfl, rfl, rfl⟩

/-! ### The requests: all but LINK_SETUP and LINK_RESET keep both lines -/

theorem sameLines_setMotorOwners (s : State) (o : Six Owner) : SameLines s (s.setMotorOwners o) := by
  unfold State.setMotorOwners State.failStop
  exact (sameLines_clearPorts s _ _ _).trans ⟨rfl, rfl, rfl, rfl, rfl, rfl, rfl, rfl⟩

theorem sameLines_setSoundOwner (s : State) (o : Owner) : SameLines s (s.setSoundOwner o) := by
  unfold State.setSoundOwner; split
  · exact ⟨rfl, rfl, rfl, rfl, rfl, rfl, rfl, rfl⟩
  · exact (sameLines_soundStop s _).trans ⟨rfl, rfl, rfl, rfl, rfl, rfl, rfl, rfl⟩

theorem sameLines_take {r : Request} {l : LineId} {s t : State} {d : List Byte} (h : takeByRule r l s = .ok (t, d))
    (h1 : ∀ x, r ≠ .linkSetup x) (h2 : r ≠ .linkReset) : SameLines s t := by
  cases r <;> simp only [takeByRule] at h
  case identify => cases h; exact ⟨rfl, rfl, rfl, rfl, rfl, rfl, rfl, rfl⟩
  case reset => cases h; exact ⟨rfl, rfl, rfl, rfl, rfl, rfl, rfl, rfl⟩
  case setWatch p => unfold takeSetWatch at h; dsimp only at h; split at h <;> cases h <;> exact ⟨rfl, rfl, rfl, rfl, rfl, rfl, rfl, rfl⟩
  case setMask => cases h; exact ⟨rfl, rfl, rfl, rfl, rfl, rfl, rfl, rfl⟩
  case allStop => cases h; exact (sameLines_clearPorts s _ _ _).trans (sameLines_soundStop _ _)
  case portSetup =>
    simp only [takePortSetup, Check.bind_ok, need_ok, require_ok, Check.pure_ok, Prod.exists, Prod.mk.injEq] at h
    obtain ⟨_, _, _, _, _, _, _, rfl, _⟩ := h; exact ⟨rfl, rfl, rfl, rfl, rfl, rfl, rfl, rfl⟩
  case setOwners =>
    simp only [takeSetOwners, Check.bind_ok, require_ok, Check.pure_ok, Prod.mk.injEq] at h
    obtain ⟨_, _, _, _, rfl, _⟩ := h; exact (sameLines_setMotorOwners _ _).trans (sameLines_setSoundOwner _ _)
  case move =>
    simp only [takeMove, Check.bind_ok, need_ok, require_ok, Check.pure_ok, Prod.exists, Prod.mk.injEq] at h
    obtain ⟨_, _, _, _, _, _, _, _, _, _, _, rfl, _⟩ := h; exact ⟨rfl, rfl, rfl, rfl, rfl, rfl, rfl, rfl⟩
  case moveNow =>
    simp only [takeMoveNow, Check.bind_ok, need_ok, require_ok, Check.pure_ok, Prod.exists, Prod.mk.injEq] at h
    obtain ⟨_, _, _, _, _, _, _, _, _, rfl, _⟩ := h; exact sameLines_clearPorts _ _ _ _
  case queueClear =>
    simp only [takeQueueClear, Check.bind_ok, need_ok, require_ok] at h
    obtain ⟨_, _, _, _, _, _, h⟩ := h
    split at h <;> cases h <;> exact sameLines_clearPorts _ _ _ _
  case preset =>
    simp only [takePreset, Check.bind_ok, need_ok, require_ok, Check.pure_ok, Prod.mk.injEq] at h
    obtain ⟨_, _, _, _, _, _, _, _, rfl, _⟩ := h; exact ⟨rfl, rfl, rfl, rfl, rfl, rfl, rfl, rfl⟩
  case portQuery =>
    simp only [takePortQuery, Check.bind_ok, require_ok, Check.pure_ok, Prod.mk.injEq] at h
    obtain ⟨_, _, rfl, _⟩ := h; exact ⟨rfl, rfl, rfl, rfl, rfl, rfl, rfl, rfl⟩
  case groupDefine =>
    simp only [takeGroupDefine, Check.bind_ok, need_ok, require_ok, Check.pure_ok, Prod.mk.injEq] at h
    obtain ⟨_, _, _, _, _, _, _, _, _, _, rfl, _⟩ := h; exact ⟨rfl, rfl, rfl, rfl, rfl, rfl, rfl, rfl⟩
  case sensorSetup =>
    simp only [takeSensorSetup, Check.bind_ok, Check.pure_ok, Prod.exists, Prod.mk.injEq] at h
    obtain ⟨_, _, _, _, _, _, _, _, rfl, _⟩ := h; exact sameLines_modeEntry _ _ _ _
  case sensorRead =>
    simp only [takeSensorRead, Check.bind_ok, Check.pure_ok, Prod.mk.injEq] at h
    obtain ⟨_, _, rfl, _⟩ := h; exact ⟨rfl, rfl, rfl, rfl, rfl, rfl, rfl, rfl⟩
  case smartSelect =>
    simp only [takeSmartSelect, Check.bind_ok, need_ok, Check.pure_ok, Prod.mk.injEq] at h
    obtain ⟨_, _, _, _, _, _, _, _, _, _, rfl, _⟩ := h; exact ⟨rfl, rfl, rfl, rfl, rfl, rfl, rfl, rfl⟩
  case smartWrite =>
    simp only [takeSmartWrite, Check.bind_ok, need_ok, Check.pure_ok, Prod.mk.injEq] at h
    obtain ⟨_, _, _, _, _, _, _, _, rfl, _⟩ := h; exact ⟨rfl, rfl, rfl, rfl, rfl, rfl, rfl, rfl⟩
  case smartProfile =>
    simp only [takeSmartProfile, Check.bind_ok] at h
    obtain ⟨_, _, h⟩ := h
    split at h
    · split at h
      · cases h; exact ⟨rfl, rfl, rfl, rfl, rfl, rfl, rfl, rfl⟩
      · cases h
    · cases h
  case soundSetup =>
    simp only [takeSoundSetup, Check.bind_ok, need_ok, require_ok] at h
    obtain ⟨_, _, _, _, h⟩ := h
    split at h
    · simp only [Check.bind_ok, need_ok, Check.pure_ok, Prod.mk.injEq] at h
      obtain ⟨_, _, rfl, _⟩ := h; exact ⟨rfl, rfl, rfl, rfl, rfl, rfl, rfl, rfl⟩
    · cases h; exact ⟨rfl, rfl, rfl, rfl, rfl, rfl, rfl, rfl⟩
  case clip =>
    simp only [takeClip, Check.bind_ok, need_ok, Check.pure_ok, Prod.exists, Prod.mk.injEq] at h
    obtain ⟨_, _, _, _, _, _, _, _, _, rfl, _⟩ := h
    split
    · exact (sameLines_modSound s _).trans (sameLines_startClip _)
    · exact ⟨rfl, rfl, rfl, rfl, rfl, rfl, rfl, rfl⟩
  case soundData =>
    simp only [takeSoundData, Check.bind_ok, need_ok, require_ok, Check.pure_ok, Prod.mk.injEq] at h
    obtain ⟨_, _, _, _, _, _, _, _, _, _, _, _, rfl, _⟩ := h; exact ⟨rfl, rfl, rfl, rfl, rfl, rfl, rfl, rfl⟩
  case immediateTone =>
    simp only [takeImmediateTone, Check.bind_ok, need_ok, Check.pure_ok, Prod.mk.injEq] at h
    obtain ⟨_, _, _, _, _, _, rfl, _⟩ := h; exact ⟨rfl, rfl, rfl, rfl, rfl, rfl, rfl, rfl⟩
  case soundStop =>
    simp only [takeSoundStop, Check.bind_ok, need_ok, Check.pure_ok, Prod.mk.injEq] at h
    obtain ⟨_, _, rfl, _⟩ := h; exact sameLines_soundStop _ _
  case powerSetup =>
    simp only [takePowerSetup, Check.bind_ok, inRange_ok, need_ok, Check.pure_ok, Prod.mk.injEq] at h
    obtain ⟨_, _, _, _, _, _, _, _, _, _, rfl, _⟩ := h; exact ⟨rfl, rfl, rfl, rfl, rfl, rfl, rfl, rfl⟩
  case powerQuery => cases h; exact ⟨rfl, rfl, rfl, rfl, rfl, rfl, rfl, rfl⟩
  case linkSetup x => exact absurd rfl (h1 x)
  case tabletSend =>
    simp only [takeTabletSend, Check.bind_ok, need_ok, Check.pure_ok, Prod.mk.injEq] at h
    obtain ⟨_, _, rfl, _⟩ := h; exact ⟨rfl, rfl, rfl, rfl, rfl, rfl, rfl, rfl⟩
  case linkStatus => cases h; exact ⟨rfl, rfl, rfl, rfl, rfl, rfl, rfl, rfl⟩
  case linkReset => exact absurd rfl h2
  case relayUp =>
    simp only [takeRelayUp, Check.bind_ok, need_ok, Check.pure_ok, Prod.mk.injEq] at h
    obtain ⟨_, _, rfl, _⟩ := h
    exact (sameLines_modLink s _ rfl rfl).trans (sameLines_evalReady _)

end Sys2Proof.Machine
end

