-- ==== Sys2Proof/Laws/Settle.lean ====
section
/-! SUPPORT. The work the lines do by themselves comes to an end: every taking and every beginning uses up some of the work
there is, so `settle` leaves nothing to do, and does nothing where nothing is left. -/

namespace Sys2Proof.Machine

/-! ### Nothing to do, nothing done -/

theorem takeRequest_of_not {s : State} {l : LineId} (h : s.mayTake l = false) : s.takeRequest l = s := by
  unfold State.takeRequest; split
  · simp [h]
  · rfl

theorem beginFrame_of_not {s : State} {l : LineId} (h : s.canBegin l = false) : s.beginFrame l = s := by
  unfold State.beginFrame; unfold State.canBegin at h
  split
  · rename_i hm
    rw [hm, Bool.true_and] at h
    cases hc : s.choice l with
    | none => rfl
    | some c => rw [hc] at h; cases h
  · rfl

theorem serveOnce_of_quiet {s : State} (h : s.linesQuiet = true) : s.serveOnce = s := by
  simp only [State.linesQuiet, Bool.and_eq_true, Bool.not_eq_true'] at h
  obtain ⟨⟨⟨h1, h2⟩, h3⟩, h4⟩ := h
  unfold State.serveOnce
  rw [takeRequest_of_not h1, takeRequest_of_not h2, beginFrame_of_not h3, beginFrame_of_not h4]

theorem serve_of_quiet {s : State} (h : s.linesQuiet = true) (n : Nat) : s.serve n = s := by
  induction n with
  | zero => rfl
  | succ n ih => rw [State.serve, serveOnce_of_quiet h, ih]

theorem begin_of_quiet {c : Converter} (h : c.isQuiet = true) : c.begin = c := by
  unfold Converter.begin; unfold Converter.isQuiet at h
  split
  · simp_all
  · rfl

theorem settle_of_quiet {s : State} (h : s.isQuiet = true) : s.settle = s := by
  simp only [State.isQuiet, Bool.and_eq_true] at h
  unfold State.settle State.modConv
  rw [serve_of_quiet h.1, begin_of_quiet h.2]

/-! ### The work there is -/

/-- The work there is: requests that wait, and transmitters that are free to begin a frame. -/
def State.work (s : State) : Nat :=
  s.host.fifo.length + s.tablet.fifo.length + s.host.tx.isNone.toNat +
    (s.tablet.tx.isNone && s.link.breakTimer.isNone).toNat

theorem work_le_fuel (s : State) : s.work ≤ s.serveFuel := by
  unfold State.work State.serveFuel
  have h1 := Bool.toNat_le s.host.tx.isNone
  have h2 := Bool.toNat_le (s.tablet.tx.isNone && s.link.breakTimer.isNone)
  omega

theorem work_of_sameLines {s t : State} (h : SameLines s t) : t.work = s.work := by
  unfold State.work; rw [h.host, h.tablet, h.brk]

theorem evalReady_work (s : State) : s.evalReady.work = s.work := work_of_sameLines (sameLines_evalReady s)

theorem fifoChanged_work (s : State) (l : LineId) : (s.fifoChanged l).work = s.work := by
  cases l
  · rfl
  · exact evalReady_work s

theorem addReply_work (s : State) (l : LineId) (b : List Byte) : (s.addReply l b).work = s.work := by cases l <;> rfl

/-- No request adds work: LINK_SETUP and LINK_RESET change the tablet line, the others change neither. -/
theorem take_work {r : Request} {l : LineId} {s t : State} {d : List Byte} (h : takeByRule r l s = .ok (t, d)) :
    t.work ≤ s.work := by
  by_cases h1 : ∃ x, r = .linkSetup x
  · obtain ⟨x, rfl⟩ := h1
    simp only [takeByRule, takeLinkSetup, Check.bind_ok, require_ok, inRange_ok, Check.pure_ok, Prod.mk.injEq] at h
    obtain ⟨_, _, _, _, _, _, _, _, _, _, _, _, _, _, rfl, _⟩ := h
    split <;> exact Nat.le_refl _
  · by_cases h2 : r = .linkReset
    · subst h2
      simp only [takeByRule, takeLinkReset, Except.ok.injEq, Prod.mk.injEq] at h
      obtain ⟨rfl, _⟩ := h
      rw [evalReady_work]
      have hl := sameLines_setLinkState (s.modLine .tablet LineUnit.linkReset) .down
      simp only [State.work, State.modLink_host, State.modLink_tablet, State.modLink_link, hl.host, hl.tablet,
        State.modLine_tablet_host, State.modLine_tablet_tablet, LineUnit.linkReset]
      simp
      omega
    · exact Nat.le_of_eq (work_of_sameLines (sameLines_take h (fun x hx => h1 ⟨x, hx⟩) h2))

theorem takeBody_work (s : State) (l : LineId) (b : List Byte) : (s.takeBody l b).work ≤ s.work := by
  unfold State.takeBody
  split
  · rename_i h
    rw [addReply_work]
    unfold State.answer at h
    split at h
    · cases h
    · cases h
    · simp only [Check.bind_ok] at h
      obtain ⟨_, _, h⟩ := h
      exact take_work h
  · rw [addReply_work]

theorem takeRequest_work {s : State} {l : LineId} (h : s.mayTake l = true) : (s.takeRequest l).work < s.work := by
  have hne : (s.lineAt l).fifo.isEmpty = false := by
    simp only [State.mayTake, Bool.and_eq_true, Bool.not_eq_true'] at h; exact h.1.1
  unfold State.takeRequest
  split
  · rename_i body rest hb
    rw [if_pos h]
    refine Nat.lt_of_le_of_lt (takeBody_work _ _ _) ?_
    rw [fifoChanged_work]
    cases l <;> simp only [State.lineAt] at hb <;> simp [State.work, State.modLine, hb]
  · rename_i hb; rw [hb] at hne; cases hne

theorem takeRequest_work_le (s : State) (l : LineId) : (s.takeRequest l).work ≤ s.work := by
  cases h : s.mayTake l with
  | true => exact Nat.le_of_lt (takeRequest_work h)
  | false => rw [takeRequest_of_not h]

/-- A frame put in transmission on an idle line uses up that line's transmitter. -/
theorem startTx_work {s : State} {l : LineId} (cls : FrameClass) (b : List Byte) (h : s.mayBegin l = true) :
    (s.startTx l cls b).work < s.work := by
  cases l <;> simp [State.mayBegin] at h <;>
    simp [State.startTx, State.work, State.modLine, h]

theorem setMarker_work (s : State) (l : LineId) (t : Turn) : (s.setMarker l t).work = s.work := by cases l <;> rfl

theorem mayBegin_of_sameLines {s t : State} (h : SameLines s t) (l : LineId) : t.mayBegin l = s.mayBegin l := by
  cases l <;> simp only [State.mayBegin, State.lineAt, h.host, h.tablet, h.brk, h.radio]

theorem beginFrame_work {s : State} {l : LineId} (h : s.canBegin l = true) : (s.beginFrame l).work < s.work := by
  simp only [State.canBegin, Bool.and_eq_true] at h
  obtain ⟨hm, hc⟩ := h
  unfold State.beginFrame
  rw [if_pos hm]
  unfold State.choice at hc ⊢
  cases hr : (s.lineAt l).replies with
  | cons b rest =>
    simp only [hr, List.isEmpty_cons, Bool.not_false, if_true, State.beginReply]
    have hm2 : (s.modLine l fun u => { u with replies := rest }).mayBegin l = true := by
      rw [← hm]; cases l <;> rfl
    refine Nat.lt_of_lt_of_eq (startTx_work .reply b hm2) ?_
    cases l <;> rfl
  | nil =>
    simp only [hr, List.isEmpty_nil, Bool.not_true, Bool.false_eq_true, if_false] at hc ⊢
    have att : (s.waitingSource l).isSome = true → (s.beginAttention l).work < s.work := by
      intro hw
      obtain ⟨src, hs⟩ := Option.isSome_iff_exists.mp hw
      simp only [State.beginAttention, hs]
      have hl : SameLines s (State.clearReported { s with attn := s.attn.setCount src 0 } src) :=
        SameLines.trans (t := { s with attn := s.attn.setCount src 0 }) ⟨rfl, rfl, rfl, rfl, rfl, rfl, rfl, rfl⟩
          (sameLines_clearReported _ _)
      rw [setMarker_work, ← work_of_sameLines hl]
      exact startTx_work _ _ ((mayBegin_of_sameLines hl l).trans hm)
    have rel : (s.relayQueue l).isEmpty = false → (s.beginRelay l).work < s.work := by
      intro hq
      cases hq2 : s.relayQueue l with
      | nil => rw [hq2] at hq; cases hq
      | cons p rest =>
        cases l
        · simp only [State.beginRelay, hq2]
          have hl : SameLines s (s.modLink fun k => { k with relay := rest }).evalReady :=
            (sameLines_modLink s _ rfl rfl).trans (sameLines_evalReady _)
          rw [setMarker_work, ← work_of_sameLines hl]
          exact startTx_work _ _ ((mayBegin_of_sameLines hl .host).trans hm)
        · simp only [State.beginRelay, hq2]
          have hl : SameLines s (s.modLink fun k => { k with transmit := rest }) := sameLines_modLink s _ rfl rfl
          rw [setMarker_work, ← work_of_sameLines hl]
          exact startTx_work _ _ ((mayBegin_of_sameLines hl .tablet).trans hm)
    cases hw : (s.waitingSource l).isSome <;> cases hq : (s.relayQueue l).isEmpty <;>
      simp only [hw, hq, Bool.not_true, Bool.not_false] at hc ⊢
    · exact rel hq
    · cases hc
    · cases (s.lineAt l).marker
      · exact att hw
      · exact rel hq
    · exact att hw

theorem beginFrame_work_le (s : State) (l : LineId) : (s.beginFrame l).work ≤ s.work := by
  cases h : s.canBegin l with
  | true => exact Nat.le_of_lt (beginFrame_work h)
  | false => rw [beginFrame_of_not h]

/-- A round either uses up work, or there was nothing to do. -/
theorem serveOnce_work (s : State) : s.serveOnce.work < s.work ∨ s.linesQuiet = true := by
  cases h1 : s.mayTake .host with
  | true =>
    left; unfold State.serveOnce
    exact Nat.lt_of_le_of_lt ((beginFrame_work_le _ _).trans ((beginFrame_work_le _ _).trans
      (takeRequest_work_le _ _))) (takeRequest_work h1)
  | false =>
    unfold State.serveOnce; rw [takeRequest_of_not h1]
    cases h2 : s.mayTake .tablet with
    | true =>
      left
      exact Nat.lt_of_le_of_lt ((beginFrame_work_le _ _).trans (beginFrame_work_le _ _)) (takeRequest_work h2)
    | false =>
      rw [takeRequest_of_not h2]
      cases h3 : s.canBegin .host with
      | true => left; exact Nat.lt_of_le_of_lt (beginFrame_work_le _ _) (beginFrame_work h3)
      | false =>
        rw [beginFrame_of_not h3]
        cases h4 : s.canBegin .tablet with
        | true => left; exact beginFrame_work h4
        | false => right; simp [State.linesQuiet, h1, h2, h3, h4]

/-- Enough rounds leave nothing to do. -/
theorem serve_quiet (n : Nat) (s : State) (h : s.work ≤ n) : (s.serve n).linesQuiet = true := by
  induction n generalizing s with
  | zero =>
    rcases serveOnce_work s with hw | hq
    · omega
    · exact hq
  | succ n ih =>
    rcases serveOnce_work s with hw | hq
    · exact ih _ (by omega)
    · rw [serve_of_quiet hq]; exact hq

/-- Further rounds change nothing. -/
theorem serve_enough (n m : Nat) (s : State) (hn : s.work ≤ n) (hm : s.work ≤ m) : s.serve n = s.serve m := by
  induction n generalizing s m with
  | zero =>
    rcases serveOnce_work s with hw | hq
    · omega
    · rw [serve_of_quiet hq, serve_of_quiet hq]
  | succ n ih =>
    rcases serveOnce_work s with hw | hq
    · cases m with
      | zero => omega
      | succ m => exact ih m _ (by omega) (by omega)
    · rw [serve_of_quiet hq, serve_of_quiet hq]

theorem linesQuiet_modConv (s : State) (f : Converter → Converter) : (s.modConv f).linesQuiet = s.linesQuiet := rfl

theorem begin_quiet (c : Converter) : c.begin.isQuiet = true := by
  unfold Converter.begin
  split
  · rfl
  · rename_i h
    unfold Converter.isQuiet
    cases hf : c.inFlight with
    | some f => rfl
    | none =>
      cases hn : c.next with
      | none => rfl
      | some ch => exact absurd hn (h ch hf)

/-- `settle` leaves nothing to do at once. -/
theorem settle_quiet (s : State) : s.settle.isQuiet = true := by
  unfold State.settle State.isQuiet
  rw [linesQuiet_modConv, serve_quiet _ _ (work_le_fuel s), State.modConv_conv, begin_quiet]
  rfl

/-- Settling twice is settling once. -/
theorem settle_settle (s : State) : s.settle.settle = s.settle := settle_of_quiet (settle_quiet s)

/-- A command that comes where nothing is left to do first has its effect, and what follows at once is done. -/
theorem command_calm {s : State} (h : s.calm = true) (effect : State → State) : s.command effect = (effect s).settle := by
  unfold State.calm at h
  simp only [Bool.and_eq_true, Bool.not_eq_true'] at h
  unfold State.command
  simp [h.2, settle_of_quiet h.1]

end Sys2Proof.Machine
end

