-- ==== Sys2Proof/Laws/Requests.lean ====
section
/-! SUPPORT. A request that arrives where it can be taken is taken, and nothing comes between. -/

namespace Sys2Proof.Machine

/-- What LINK_RESET leaves of the lines; every other request keeps both FIFOs and both reply queues (R133, R154). -/
theorem take_fifo {r : Request} {l : LineId} {s t : State} {d : List Byte} (h : takeByRule r l s = .ok (t, d)) :
    t.host.fifo = s.host.fifo ∧ t.host.replies = s.host.replies ∧
      (t.tablet.fifo = s.tablet.fifo ∨ t.tablet.fifo = []) := by
  by_cases h1 : ∃ x, r = .linkSetup x
  · obtain ⟨x, rfl⟩ := h1
    simp only [takeByRule, takeLinkSetup, Check.bind_ok, require_ok, inRange_ok, Check.pure_ok, Prod.mk.injEq] at h
    obtain ⟨_, _, _, _, _, _, _, _, _, _, _, _, _, _, rfl, _⟩ := h
    split <;> exact ⟨rfl, rfl, .inl rfl⟩
  · by_cases h2 : r = .linkReset
    · subst h2
      simp only [takeByRule, takeLinkReset, Except.ok.injEq, Prod.mk.injEq] at h
      obtain ⟨rfl, _⟩ := h
      have hl := sameLines_setLinkState (s.modLine .tablet LineUnit.linkReset) .down
      have he := sameLines_evalReady (((s.modLine .tablet LineUnit.linkReset).setLinkState .down).modLink fun k =>
        { k with relay := [], transmit := [], strikes := 0, overflows := 0, checkErrors := 0, quietTimer := none,
                 breakTimer := some s.clock })
      rw [he.host, he.tablet]
      simp only [State.modLink_host, State.modLink_tablet, hl.host, hl.tablet]
      exact ⟨rfl, rfl, .inr rfl⟩
    · have hl := sameLines_take h (fun x hx => h1 ⟨x, hx⟩) h2
      rw [hl.host, hl.tablet]; exact ⟨rfl, rfl, .inl rfl⟩

theorem addReply_fifo (s : State) (l k : LineId) (b : List Byte) : ((s.addReply l b).lineAt k).fifo = (s.lineAt k).fifo := by
  cases l <;> cases k <;> rfl

theorem takeBody_fifo (s : State) (l : LineId) (b : List Byte) :
    (s.takeBody l b).host.fifo = s.host.fifo ∧
      ((s.takeBody l b).tablet.fifo = s.tablet.fifo ∨ (s.takeBody l b).tablet.fifo = []) ∧
      (l = .tablet → (s.takeBody l b).host.replies = s.host.replies) := by
  unfold State.takeBody
  split
  · rename_i s1 data h
    have hf : s1.host.fifo = s.host.fifo ∧ s1.host.replies = s.host.replies ∧
        (s1.tablet.fifo = s.tablet.fifo ∨ s1.tablet.fifo = []) := by
      unfold State.answer at h
      split at h
      · cases h
      · cases h
      · simp only [Check.bind_ok] at h
        obtain ⟨_, _, h⟩ := h
        exact take_fifo h
    obtain ⟨h1, h2, h3⟩ := hf
    cases l <;> simp [State.addReply, h1, h2, h3]
  · cases l <;> simp [State.addReply]

theorem serve_cons (n : Nat) (s : State) : s.serve (n + 1) = s.serveOnce.serve n := rfl

/-- Two states with the same first round settle alike. -/
theorem settle_of_serveOnce {s t : State} (h : s.serveOnce = t.serveOnce) : s.settle = t.settle := by
  have key : ∀ n m : Nat, s.work ≤ n → t.work ≤ m → s.serve n = t.serve m := by
    intro n m hn hm
    have h1 : s.serve n = s.serve (max n m + 1) := serve_enough _ _ _ hn (by omega)
    have h2 : t.serve m = t.serve (max n m + 1) := serve_enough _ _ _ hm (by omega)
    rw [h1, h2, serve_cons, serve_cons, h]
  unfold State.settle
  rw [key _ _ (work_le_fuel s) (work_le_fuel t)]

theorem watchFrame_sameLines (s : State) : SameLines s s.watchFrame := ⟨rfl, rfl, rfl, rfl, rfl, rfl, rfl, rfl⟩

theorem linkFrame_sameLines (s : State) : SameLines s s.linkFrame := by
  unfold State.linkFrame
  exact (sameLines_setLinkState s _).trans (sameLines_modLink _ _ rfl rfl)

theorem setLinkState_softReset (s : State) (x : LinkState) : (s.setLinkState x).softReset = s.softReset := by
  unfold State.setLinkState; rw [State.raiseIf_softReset]; rfl

theorem evalReady_softReset (s : State) : s.evalReady.softReset = s.softReset := by
  unfold State.evalReady; split
  · rfl
  · split <;> rfl

theorem arrived_sameLines (s : State) (l : LineId) : SameLines s (s.arrived l) := by
  cases l
  · exact watchFrame_sameLines s
  · exact (linkFrame_sameLines s).trans (sameLines_evalReady _)

theorem arrived_softReset (s : State) (l : LineId) : (s.arrived l).softReset = s.softReset := by
  cases l
  · rfl
  · unfold State.arrived State.linkFrame
    rw [evalReady_softReset, State.modLink_softReset, setLinkState_softReset]

theorem mayTake_congr {s t : State} {l : LineId} (h1 : (t.lineAt l).fifo = (s.lineAt l).fifo)
    (h2 : (t.lineAt l).replies = (s.lineAt l).replies) (h3 : t.softReset = s.softReset) :
    t.mayTake l = s.mayTake l := by
  unfold State.mayTake; rw [h1, h2, h3]

/-- The tablet FIFO entered and left again: K40_READY stands as evaluated for the FIFO empty (R147). -/
theorem evalReady_through (s : State) (body : List Byte) (h : s.tablet.fifo = []) :
    (((s.modLine .tablet fun u => { u with fifo := u.fifo ++ [body] }).evalReady).modLine .tablet
      fun u => { u with fifo := [] }).evalReady = s.evalReady := by
  have hs : ∀ f : Link → Link, (((s.modLine .tablet fun u => { u with fifo := u.fifo ++ [body] }).modLink f).modLine .tablet
      fun u => { u with fifo := [] }) = s.modLink f := by
    intro f
    obtain ⟨motor, groups, conv, supply, sensor, sound, host, tablet⟩ := s
    obtain ⟨held, rxTimer, fifo⟩ := tablet
    cases h; rfl
  have hs0 : ((s.modLine .tablet fun u => { u with fifo := u.fifo ++ [body] }).modLine .tablet
      fun u => { u with fifo := [] }) = s := hs id
  have d1 : (s.modLine .tablet fun u => { u with fifo := u.fifo ++ [body] }).readyDrops = s.readyDrops := by
    simp [State.readyDrops, State.modLine, h]
  have r1 : (s.modLine .tablet fun u => { u with fifo := u.fifo ++ [body] }).readyRises = s.readyRises := by
    simp [State.readyRises, State.modLine, h]
  unfold State.evalReady
  rw [d1, r1]
  cases hd : s.readyDrops
  · cases hr : s.readyRises
    · simp [hs0, hd, hr]
    · have hd2 : ∀ b, (s.modLink fun k => { k with k40Ready := b }).readyDrops = s.readyDrops := fun _ => rfl
      have hr2 : ∀ b, (s.modLink fun k => { k with k40Ready := b }).readyRises = s.readyRises := fun _ => rfl
      simp [hs, hd2, hr2, hd, hr]; rfl
  · have hd2 : ∀ b, (s.modLink fun k => { k with k40Ready := b }).readyDrops = s.readyDrops := fun _ => rfl
    simp [hs, hd2, hd]; rfl

theorem ready_parts {s : State} {l : LineId} (h : s.ready l = true) :
    s.isQuiet = true ∧ s.inReset = false ∧ s.softReset = none ∧ (s.lineAt l).fifo = [] ∧
      (s.lineAt l).replies.length < 4 := by
  simp only [State.ready, Bool.and_eq_true, Bool.not_eq_true', Option.isNone_iff_eq_none, List.isEmpty_iff,
    decide_eq_true_eq] at h
  exact ⟨h.1.1.1.1, h.1.1.1.2, h.1.1.2, h.1.2, h.2⟩

/-- The taking of a request that arrives where it can be taken. -/
theorem takeRequest_arrival {s : State} {l : LineId} (h : s.ready l = true) (body : List Byte) :
    (s.frameArrives l body).takeRequest l = (s.arrived l).takeBody l body := by
  obtain ⟨_, _, hs, hf, hr⟩ := ready_parts h
  cases l
  · have e : s.frameArrives .host body = s.watchFrame.modLine .host fun u => { u with fifo := [body] } := by
      have hf2 : s.watchFrame.host.fifo = [] := hf
      simp only [State.frameArrives, State.enterFifo, State.lineAt_host, hf2, List.length_nil]
      simp [State.fifoChanged, State.modLine, hf2]
    have e2 : (s.watchFrame.modLine .host fun u => { u with fifo := [body] }).mayTake .host = true := by
      have : s.watchFrame.softReset = none := hs
      have hr2 : s.watchFrame.host.replies.length < 4 := hr
      simp [State.mayTake, hr2, this]
    rw [e]
    unfold State.takeRequest
    simp only [State.modLine_lineAt_same, e2, if_true]
    congr 1
    obtain ⟨motor, groups, conv, supply, sensor, sound, host, tablet⟩ := s
    obtain ⟨held, rxTimer, fifo⟩ := host
    cases hf; rfl
  · have hl := linkFrame_sameLines s
    have hf2 : s.linkFrame.tablet.fifo = [] := by rw [hl.tablet]; exact hf
    have hr2 : s.linkFrame.tablet.replies.length < 4 := by rw [hl.tablet]; exact hr
    have hs2 : s.linkFrame.softReset = none := by
      unfold State.linkFrame; rw [State.modLink_softReset, setLinkState_softReset]; exact hs
    have e : s.frameArrives .tablet body =
        (s.linkFrame.modLine .tablet fun u => { u with fifo := u.fifo ++ [body] }).evalReady := by
      simp only [State.frameArrives, State.enterFifo, State.lineAt_tablet, hf2, List.length_nil]
      simp [State.fifoChanged]
    have he := sameLines_evalReady (s.linkFrame.modLine .tablet fun u => { u with fifo := u.fifo ++ [body] })
    have e2 : (s.frameArrives .tablet body).mayTake .tablet = true := by
      rw [e]
      simp [State.mayTake, he.tablet, evalReady_softReset, hr2, hs2, hf2]
    have e3 : ((s.frameArrives .tablet body).lineAt .tablet).fifo = [body] := by
      rw [e, State.lineAt_tablet, he.tablet]; simp [hf2]
    unfold State.takeRequest
    simp only [e3, e2, if_true]
    congr 1
    rw [e]
    exact evalReady_through s.linkFrame body hf2

/-- A request that arrives where it can be taken: what comes of it is the taking, and then what happens at once. -/
theorem settle_arrival {s : State} {l : LineId} (h : s.ready l = true) (body : List Byte) :
    (s.frameArrives l body).settle = ((s.arrived l).takeBody l body).settle := by
  obtain ⟨hq, _, hs, hf, _⟩ := ready_parts h
  have ha := arrived_sameLines s l
  apply settle_of_serveOnce
  unfold State.serveOnce
  obtain ⟨t1, t2, t3⟩ := takeBody_fifo (s.arrived l) l body
  have hH : ((s.arrived l).takeBody l body).mayTake .host = false := by
    cases l
    · have : ((s.arrived .host).takeBody .host body).host.fifo = [] := by rw [t1, ha.host]; exact hf
      simp [State.mayTake, this]
    · have hm : s.mayTake .host = false := by
        simp only [State.isQuiet, State.linesQuiet, Bool.and_eq_true, Bool.not_eq_true'] at hq; exact hq.1.1.1.1
      simp only [State.mayTake, State.lineAt_host, hs, Option.isNone_none, Bool.and_true] at hm
      simp only [State.mayTake, State.lineAt_host, t1, t3 rfl, ha.host]
      rcases Bool.and_eq_false_iff.mp hm with h1 | h1
      · rw [h1]; rfl
      · have h2 : ¬ s.host.replies.length < 4 := of_decide_eq_false h1
        simp [h2]
  rw [takeRequest_of_not hH]
  cases l
  · rw [takeRequest_arrival h]
  · have hb : (s.frameArrives .tablet body).mayTake .host = false := by
      have hm : s.mayTake .host = false := by
        simp only [State.isQuiet, State.linesQuiet, Bool.and_eq_true, Bool.not_eq_true'] at hq; exact hq.1.1.1.1
      rw [← hm]
      have hl := linkFrame_sameLines s
      have hs2 : s.linkFrame.softReset = s.softReset := by
        unfold State.linkFrame; rw [State.modLink_softReset, setLinkState_softReset]
      have e : s.frameArrives .tablet body =
          (s.linkFrame.modLine .tablet fun u => { u with fifo := u.fifo ++ [body] }).evalReady := by
        have hf2 : s.linkFrame.tablet.fifo = [] := by rw [hl.tablet]; exact hf
        simp only [State.frameArrives, State.enterFifo, State.lineAt_tablet, hf2, List.length_nil]
        simp [State.fifoChanged]
      have he := sameLines_evalReady (s.linkFrame.modLine .tablet fun u => { u with fifo := u.fifo ++ [body] })
      apply mayTake_congr
      · rw [e, State.lineAt_host, he.host]; simp [hl.host]
      · rw [e, State.lineAt_host, he.host]; simp [hl.host]
      · rw [e, evalReady_softReset, State.modLine_softReset, hs2]
    rw [takeRequest_of_not hb, takeRequest_arrival h]
    have hT : ((s.arrived .tablet).takeBody .tablet body).mayTake .tablet = false := by
      have : ((s.arrived .tablet).takeBody .tablet body).tablet.fifo = [] := by
        rcases t2 with t2 | t2
        · rw [t2, ha.tablet]; exact hf
        · exact t2
      simp [State.mayTake, this]
    rw [takeRequest_of_not hT]

/-- A command where nothing is left to do first. -/
theorem command_quiet {s : State} (hq : s.isQuiet = true) (hr : s.inReset = false) (f : State → State) :
    s.command f = (f s).settle := by
  unfold State.command; rw [hr, settle_of_quiet hq]; rfl

/-- A request command where the request can be taken (R133). -/
theorem requestCommand_ready {s : State} {l : LineId} (h : s.ready l = true) (body : List Byte) :
    s.requestCommand l body = ((s.arrived l).takeBody l body).settle := by
  obtain ⟨hq, hr, _⟩ := ready_parts h
  unfold State.requestCommand
  rw [command_quiet hq hr, settle_arrival h]

end Sys2Proof.Machine
end

