-- ==== Sys2Proof/Laws/Hunter.lean ====
section
/-! SUPPORT. What the lines' own work keeps of the resets, and a received byte as the commands that the hunter finds in it (R129 to
R132). -/

namespace Sys2Proof.Machine

/-! ### Resets are not the lines' work -/

theorem SameLines.inReset {s t : State} (h : SameLines s t) : t.inReset = s.inReset := by
  unfold State.inReset; rw [h.por, h.pin]

@[simp] theorem modLine_inReset (s : State) (l : LineId) (f : LineUnit → LineUnit) : (s.modLine l f).inReset = s.inReset := by
  cases l <;> rfl

theorem setLinkState_inReset (s : State) (x : LinkState) : (s.setLinkState x).inReset = s.inReset :=
  (sameLines_setLinkState s x).inReset

theorem evalReady_inReset (s : State) : s.evalReady.inReset = s.inReset := (sameLines_evalReady s).inReset

/-- No request begins or ends a reset as it is taken. -/
theorem take_inReset {r : Request} {l : LineId} {s t : State} {d : List Byte} (h : takeByRule r l s = .ok (t, d)) :
    t.inReset = s.inReset := by
  by_cases h1 : ∃ x, r = .linkSetup x
  · obtain ⟨x, rfl⟩ := h1
    simp only [takeByRule, takeLinkSetup, Check.bind_ok, require_ok, inRange_ok, Check.pure_ok, Prod.mk.injEq] at h
    obtain ⟨_, _, _, _, _, _, _, _, _, _, _, _, _, _, rfl, _⟩ := h
    split <;> rfl
  · by_cases h2 : r = .linkReset
    · subst h2
      simp only [takeByRule, takeLinkReset, Except.ok.injEq, Prod.mk.injEq] at h
      obtain ⟨rfl, _⟩ := h
      rw [evalReady_inReset]
      exact (setLinkState_inReset _ _).trans (modLine_inReset _ _ _)
    · exact (sameLines_take h (fun x hx => h1 ⟨x, hx⟩) h2).inReset

theorem takeBody_inReset (s : State) (l : LineId) (b : List Byte) : (s.takeBody l b).inReset = s.inReset := by
  unfold State.takeBody State.addReply
  split
  · rename_i s1 data h
    rw [modLine_inReset]
    unfold State.answer at h
    split at h
    · cases h
    · cases h
    · simp only [Check.bind_ok] at h
      obtain ⟨_, _, h⟩ := h
      exact take_inReset h
  · rw [modLine_inReset]

theorem fifoChanged_inReset (s : State) (l : LineId) : (s.fifoChanged l).inReset = s.inReset := by
  cases l
  · rfl
  · exact evalReady_inReset s

theorem takeRequest_inReset (s : State) (l : LineId) : (s.takeRequest l).inReset = s.inReset := by
  unfold State.takeRequest
  split
  · split
    · rw [takeBody_inReset, fifoChanged_inReset, modLine_inReset]
    · rfl
  · rfl

theorem beginFrame_inReset (s : State) (l : LineId) : (s.beginFrame l).inReset = s.inReset := by
  have attention : (s.beginAttention l).inReset = s.inReset := by
    unfold State.beginAttention State.setMarker State.startTx
    split
    · rename_i src _
      simp only [modLine_inReset, (sameLines_clearReported { s with attn := s.attn.setCount src 0 } src).inReset]
      rfl
    · rfl
  unfold State.beginFrame State.beginReply State.beginRelay State.setMarker State.startTx
  split
  · split
    · split <;> simp only [modLine_inReset]
    · exact attention
    · split
      · simp only [modLine_inReset, evalReady_inReset]; rfl
      · simp only [modLine_inReset]; rfl
      · rfl
    · rfl
  · rfl

theorem serve_inReset (n : Nat) (s : State) : (s.serve n).inReset = s.inReset := by
  induction n generalizing s with
  | zero => rfl
  | succ n ih =>
    rw [serve_cons, ih]
    simp only [State.serveOnce, beginFrame_inReset, takeRequest_inReset]

theorem settle_inReset (s : State) : s.settle.inReset = s.inReset := serve_inReset _ s

/-- A state that has settled is calm where no reset holds. -/
theorem settle_calm {s : State} (h : s.inReset = false) : s.settle.calm = true := by
  simp [State.calm, settle_quiet, settle_inReset, h]

/-! ### What the hunter finds (R129, R130) -/

theorem hunterFailure_inReset (s : State) (l : LineId) : (s.hunterFailure l).inReset = s.inReset := by
  cases l
  · exact (sameLines_raiseIf _ _ _).inReset
  · rfl

theorem frameArrives_inReset (s : State) (l : LineId) (body : List Byte) : (s.frameArrives l body).inReset = s.inReset := by
  have he (t : State) (l : LineId) : (t.enterFifo l body).inReset = t.inReset := by
    unfold State.enterFifo
    split
    · rw [fifoChanged_inReset, modLine_inReset]
    · cases l
      · exact (sameLines_raiseIf _ _ _).inReset
      · exact (sameLines_raiseIf _ _ _).inReset
  cases l
  · exact (he _ _).trans (watchFrame_sameLines s).inReset
  · exact (he _ _).trans (linkFrame_sameLines s).inReset

/-- The effect of one finding, as a command has it: a failure is counted, a frame acts as the request command of its body. -/
def State.foundActs (l : LineId) (t : State) : Found → State
  | .failure => (t.hunterFailure l).settle
  | .valid body => t.requestCommand l body

theorem foundActs_calm (l : LineId) {t : State} (h : t.calm = true) (f : Found) :
    t.foundOnLine l f = t.foundActs l f ∧ (t.foundActs l f).calm = true := by
  have hr : t.inReset = false := by simp [State.calm] at h; exact h.2
  cases f with
  | failure => exact ⟨rfl, settle_calm ((hunterFailure_inReset t l).trans hr)⟩
  | valid body =>
    have e : t.requestCommand l body = (t.frameArrives l body).settle := command_calm h _
    refine ⟨e.symm, ?_⟩
    show (t.requestCommand l body).calm = true
    rw [e]
    exact settle_calm ((frameArrives_inReset t l body).trans hr)

/-- Findings acted on one after the other are the commands they stand for, one after the other. -/
theorem foundOnLine_foldl (l : LineId) (found : List Found) {t : State} (h : t.calm = true) :
    found.foldl (State.foundOnLine l) t = found.foldl (State.foundActs l) t ∧ (found.foldl (State.foundActs l) t).calm = true := by
  induction found generalizing t with
  | nil => exact ⟨rfl, h⟩
  | cons f fs ih =>
    obtain ⟨h1, h2⟩ := foundActs_calm l h f
    simp only [List.foldl_cons, h1]
    exact ih h2

/-- Holding other bytes leaves a calm state calm. -/
theorem holding_calm {s : State} (h : s.calm = true) (l : LineId) (held : List Byte) (timer : Timer) :
    (s.modLine l fun u => { u with held := held, rxTimer := timer }).calm = true := by
  rw [← h]; cases l <;> rfl

/-- A byte that arrives (R129 to R131): what the hunter finds in the held bytes and it acts, and what it keeps is held. -/
theorem byteArrives_acts {s : State} (h : s.calm = true) (l : LineId) (b : Byte) :
    s.command (fun t => t.byteArrives l b) =
      (scan 0 ((s.lineAt l).held ++ [b])).1.foldl (State.foundActs l) (s.modLine l fun u =>
        { u with
          held := (scan 0 ((s.lineAt l).held ++ [b])).2
          rxTimer := if (scan 0 ((s.lineAt l).held ++ [b])).2.isEmpty then none else some s.clock }) := by
  obtain ⟨h1, h2⟩ := foundOnLine_foldl l (scan 0 ((s.lineAt l).held ++ [b])).1
    (holding_calm h l (scan 0 ((s.lineAt l).held ++ [b])).2
      (if (scan 0 ((s.lineAt l).held ++ [b])).2.isEmpty then none else some s.clock))
  rw [command_calm h]
  unfold State.byteArrives
  rw [h1]
  simp only [State.calm, Bool.and_eq_true] at h2
  exact settle_of_quiet h2.1

end Sys2Proof.Machine
end

