-- ==== Sys2Proof/Laws/Moves.lean ====
section
/-! SUPPORT. What the operations of a regulation event make of a port and of the state, said once (R9, R10, R20 to R23, R27 to
R41, R101 to R106), and the event from its start decision on as `RunsOn` says it. -/

namespace Sys2Proof.Machine

/-! ### Ports -/

theorem State.modPort_modPort (s : State) (m : Idx6) (f g : Port → Port) :
    (s.modPort m f).modPort m g = s.modPort m fun p => g (f p) := by
  simp [State.modPort]

theorem State.raise_modPort (s : State) (m : Idx6) (src : Source) (f : Port → Port) :
    (s.raise src).modPort m f = (s.modPort m f).raise src := by cases src <;> rfl

@[simp] theorem State.raise_port (s : State) (src : Source) (m : Idx6) : (s.raise src).port m = s.port m := rfl

@[simp] theorem State.modPort_isMember (s : State) (m q : Idx6) (g : Nat) (f : Port → Port) :
    (s.modPort m f).isMember g q = s.isMember g q := rfl

theorem Port.addOutcome_eq (p : Port) (mv : Move) (x : OutcomeCode) (uptime : Word) :
    p.addOutcome mv x uptime = p.recorded mv x uptime := by
  unfold Port.addOutcome pushOutcome Port.recorded
  split <;> rfl

theorem Port.startHead_eq (p : Port) (carry : Bool) : p.startHead carry = p.begun carry := by
  unfold Port.startHead Port.begun
  cases p.queue with
  | nil => rfl
  | cons head rest =>
    unfold Port.startMove
    cases head.motion with
    | rest style d => cases style <;> rfl
    | _ => rfl

theorem State.endMove_eq (s : State) (m : Idx6) (r : Running) (x : OutcomeCode) (h : (s.port m).act = .running r) :
    s.endMove m x = (s.modPort m fun p => p.recorded r.move x s.uptime).raise (.motor m) := by
  have e : Port.endRunning x s.uptime (s.port m) = (s.port m).recorded r.move x s.uptime := by
    unfold Port.endRunning; rw [h]; exact Port.addOutcome_eq _ _ _ _
  have hr : (s.port m).isRunning = true := by unfold Port.isRunning; rw [h]
  unfold State.endMove
  rw [if_pos hr, modPort_congr (g := fun p => p.recorded r.move x s.uptime) e]

/-! ### The start decision (R9, R10, R20, R21) -/

theorem State.dropForeignHeads_eq (m : Idx6) (n : Nat) (s : State) (h : (s.port m).queue.length ≤ n) :
    State.dropForeignHeads m n s = s.lessForeign m := by
  induction n generalizing s with
  | zero =>
    have : (s.port m).queue = [] := List.length_eq_zero_iff.mp (Nat.le_zero.mp h)
    simp [State.dropForeignHeads, State.lessForeign, this]
  | succ n ih =>
    unfold State.dropForeignHeads
    cases hq : (s.port m).queue with
    | nil => simp [Port.headGroup, State.lessForeign, hq]
    | cons head rest =>
      by_cases hg : (head.group != 0 && !s.isMember head.group m) = true
      · have hb : s.breakHead m = (s.modPort m fun p => p.brokenHead s.uptime).raise (.motor m) := by
          rw [breakHead_eq]; simp [State.raiseIf, hq]
        have hr : ((s.port m).brokenHead s.uptime).queue = rest := by unfold Port.brokenHead; rw [hq]
        have hc : (decide ((s.port m).headGroup ≠ 0) && !s.isMember (s.port m).headGroup m) = true := by
          simpa [Port.headGroup, hq] using hg
        dsimp only
        rw [if_pos hc, hb, ih _ (by simp [hr]; simp [hq] at h; omega)]
        unfold State.lessForeign
        simp only [State.raise_port, State.modPort_port_same, hr, hq, List.takeWhile_cons, hg, if_true, List.length_cons]
        rfl
      · have hc : ¬ (decide ((s.port m).headGroup ≠ 0) && !s.isMember (s.port m).headGroup m) = true := by
          simpa [Port.headGroup, hq] using hg
        dsimp only
        rw [if_neg hc]
        unfold State.lessForeign
        simp [hq, hg]

theorem State.othersReady_eq (s : State) (g : Nat) (m : Idx6) : s.othersReady g m = !s.groupLacks g m := by
  unfold State.othersReady State.groupLacks
  rw [List.not_any_eq_all_not]
  congr 1
  funext q
  unfold bne
  cases q == m <;> cases s.isMember g q <;> cases s.readyFor g q <;> rfl

/-- A running port is running its move. -/
theorem Port.act_of_isRunning {p : Port} (h : p.isRunning = true) : ∃ r, p.act = .running r := by
  unfold Port.isRunning at h
  cases ha : p.act with
  | running r => exact ⟨r, rfl⟩
  | _ => simp [ha] at h

theorem State.startMember_eq (t : State) (q : Idx6) :
    t.startMember q =
      (t.modPort q fun p => (match p.act with
        | .running r => p.recorded r.move .done t.uptime
        | _ => p).begun p.isRunning).raiseIf (t.port q).isRunning (.motor q) := by
  unfold State.startMember
  cases hr : (t.port q).isRunning
  · rw [if_neg (by simp)]
    simp only [State.raiseIf, Bool.false_eq_true, if_false]
    refine modPort_congr ?_
    rw [Port.startHead_eq]
    unfold Port.isRunning at hr
    cases ha : (t.port q).act with
    | running r => simp [ha] at hr
    | _ => simp [ha, Port.isRunning]
  · obtain ⟨r, ha⟩ := Port.act_of_isRunning hr
    rw [if_pos rfl, State.endMove_eq t q r .done ha, State.raise_modPort, State.modPort_modPort]
    simp only [State.raiseIf, if_true]
    congr 1
    refine modPort_congr ?_
    rw [Port.startHead_eq]
    simp [ha, Port.isRunning]

theorem State.groupStart_eq (s : State) (m : Idx6) (g : Nat) (ended : Bool)
    (h : ended = true → (s.port m).isRunning = true) : s.groupStart m g ended = s.groupStarted m g ended := by
  have hf := foldl_ports s (fun t q =>
      if s.isMember g q then
        if q = m && ended then t.modPort q (Port.startHead true) else t.startMember q
      else t)
    (fun q p =>
      if s.isMember g q then
        (match p.act with
          | .running r => if p.isRunning && !(ended && q == m) then p.recorded r.move .done s.uptime else p
          | _ => p).begun (if ended && q == m then true else p.isRunning)
      else p)
    (fun q p => s.isMember g q && p.isRunning && !(ended && q == m))
    (by
      intro t q hc
      have hu : t.uptime = s.uptime := by unfold State.uptime; rw [hc]
      cases hm : s.isMember g q
      · simp [State.raiseIf, modPort_self]
      · cases he : (ended && q == m)
        · have he' : ¬ ((decide (q = m) && ended) = true) := by
            cases ended <;> simp_all
          simp only [if_true, if_neg he', State.startMember_eq, hu, Bool.not_false, Bool.and_true, Bool.true_and,
            Bool.false_eq_true, if_false]
          congr 1
          refine modPort_congr ?_
          unfold Port.isRunning
          cases (t.port q).act <;> simp
        · have he' : (decide (q = m) && ended) = true := by
            cases ended <;> simp_all
          simp only [if_true, if_pos he', Bool.not_true, Bool.and_false, Bool.false_eq_true, if_false, State.raiseIf]
          refine modPort_congr ?_
          rw [Port.startHead_eq]
          cases (t.port q).act <;> rfl)
  unfold State.groupStart State.groupStarted
  rw [hf]
  congr 1
  · congr 1
    funext q
    cases hm : s.isMember g q
    · simp
    · cases he : (ended && q == m)
      · simp only [hm, he, if_true, Bool.not_false, Bool.true_and, Bool.and_true] <;> cases (s.port q).act <;> rfl
      · have hq : q = m ∧ ended = true := by cases ended <;> simp_all
        obtain ⟨rfl, he'⟩ := hq
        simp only [hm, he, h he', if_true, Bool.not_true, Bool.and_false, Bool.false_eq_true, if_false] <;>
          cases (s.port q).act <;> rfl

/-- What each discarded record keeps, step 1 of the start decision keeps. -/
theorem State.lessForeign_induct (m : Idx6) (P : State → Prop) (s : State)
    (step : ∀ t : State, P t → P ((t.modPort m fun p => p.brokenHead s.uptime).raise (.motor m))) (h : P s) :
    P (s.lessForeign m) := by
  unfold State.lessForeign
  dsimp only
  generalize List.length _ = n
  induction n with
  | zero => exact h
  | succ n ih => rw [Function.iterate_succ_apply']; exact step _ ih

/-- Port `m` runs move `mv`, and no mark is left on its head. -/
def State.runs (s : State) (m : Idx6) (mv : Move) : Prop :=
  (∃ r, (s.port m).act = .running r ∧ r.move = mv) ∧ ((s.port m).replacing = false ∨ (s.port m).queue = [])

theorem Port.brokenHead_runs (p : Port) (uptime : Word) (r : Running) (h : p.act = .running r) :
    (∃ r', (p.brokenHead uptime).act = .running r' ∧ r'.move = r.move) ∧
      (p.replacing = false ∨ p.queue = [] → (p.brokenHead uptime).replacing = false ∨ (p.brokenHead uptime).queue = []) := by
  unfold Port.brokenHead
  cases hq : p.queue with
  | nil => exact ⟨⟨r, h, rfl⟩, fun _ => .inr hq⟩
  | cons head rest => exact ⟨⟨{ r with ready := false }, by simp [h, Activity.notWaiting], rfl⟩, fun _ => .inl rfl⟩

theorem State.lessForeign_runs (s : State) (m : Idx6) (mv : Move) (h : s.runs m mv) : (s.lessForeign m).runs m mv := by
  refine s.lessForeign_induct m (fun t => t.runs m mv) (fun t ht => ?_) h
  obtain ⟨⟨r, ha, hm⟩, hr⟩ := ht
  obtain ⟨⟨r', ha', hm'⟩, hr'⟩ := Port.brokenHead_runs (t.port m) s.uptime r ha
  refine ⟨⟨r', ?_, hm'.trans hm⟩, ?_⟩
  · rw [State.raise_port, State.modPort_port_same]; exact ha'
  · rw [State.raise_port, State.modPort_port_same]; exact hr' hr

theorem State.moveEnded_runs (s : State) (m : Idx6) (mv : Move) (x : OutcomeCode) (h : s.runs m mv) :
    (s.moveEnded m mv x).runs m mv := by
  unfold State.moveEnded
  refine State.lessForeign_runs _ m mv ?_
  unfold State.runs
  rw [State.raise_port, State.modPort_port_same]
  exact h

/-- The start decision after the running move has ended (R10): the records of groups that have lost the port are dropped, and the next
head starts or not. -/
theorem State.startDecision_ended (s : State) (m : Idx6) (mv : Move) (h : s.runs m mv) :
    s.startDecision m true = (match (s.lessForeign m).followed m with
      | some t => (t, true)
      | none => (s.lessForeign m, false)) := by
  unfold State.startDecision
  rw [State.dropForeignHeads_eq m _ s (Nat.le_refl _)]
  obtain ⟨⟨r, ha, -⟩, hr⟩ := s.lessForeign_runs m mv h
  generalize s.lessForeign m = u at ha hr
  unfold State.followed
  cases hq : (u.port m).queue with
  | nil => simp [hq]
  | cons head rest =>
    have hrep : (u.port m).replacing = false := by simpa [hq] using hr
    have hrun : (u.port m).isRunning = true := by simp [Port.isRunning, ha]
    by_cases hg : head.group = 0
    · have hb : u.modPort m (Port.startHead true) = u.modPort m fun p => p.begun true :=
        modPort_congr (f := Port.startHead true) (g := fun p => p.begun true) (Port.startHead_eq _ _)
      simp [hq, hg, hb]
    · cases hl : u.groupLacks head.group m <;>
        simp [hq, hg, hrep, hl, State.othersReady_eq, State.groupStart_eq u m head.group true (fun _ => hrun)]

theorem State.settleEnd_eq (u : State) (m : Idx6) (e : StopStyle) (h : u.followed m = none) :
    u.settleEnd m e = u.modPort m fun p => p.restsAfter e := by
  unfold State.settleEnd
  refine modPort_congr ?_
  unfold State.followed at h
  generalize hp : u.port m = p at h
  unfold Port.restsAfter
  cases hq : p.queue with
  | nil => cases e <;> simp [restOf, Port.enterRest, Port.headGroup, hq]
  | cons head rest =>
    have hg : head.group ≠ 0 := by
      intro hg; rw [hq] at h; simp [hg] at h
    cases e <;> simp [restOf, Port.enterRest, Port.headGroup, hq, hg, Port.markReady]

/-- A move that ends after the profile step (R10): its record, the start decision again, and its end action if nothing starts. -/
theorem State.endLater_eq (s : State) (m : Idx6) (mv : Move) (x : OutcomeCode) (h : s.runs m mv) :
    s.endLater m mv x = (s.endsNow m mv x, ((s.moveEnded m mv x).followed m).isSome) := by
  obtain ⟨⟨r, ha, rfl⟩, hr⟩ := h
  have hd : (s.endMove m x).startDecision m true = (match (s.moveEnded m r.move x).followed m with
      | some t => (t, true)
      | none => (s.moveEnded m r.move x, false)) := by
    rw [State.endMove_eq s m r x ha]
    refine State.startDecision_ended _ m r.move ?_
    unfold State.runs
    rw [State.raise_port, State.modPort_port_same]
    exact ⟨⟨r, ha, rfl⟩, hr⟩
  unfold State.endLater State.endsNow
  rw [hd]
  cases hf : (s.moveEnded m r.move x).followed m with
  | none => simp [State.settleEnd_eq _ m r.move.endAction hf]
  | some t => simp

/-! ### The profile and regulator steps (R27 to R38) -/

theorem PortConfig.rampStep_pos (c : PortConfig) : 1 ≤ c.rampStep := by unfold PortConfig.rampStep; omega

theorem rampToward_eq (target step vp : Int) (h : 1 ≤ step) :
    rampToward target step vp =
      if target - step ≤ vp ∧ vp ≤ target + step then target else if vp < target then vp + step else vp - step := by
  unfold rampToward
  have : (target - vp).natAbs ≤ step.natAbs ↔ target - step ≤ vp ∧ vp ≤ target + step := by omega
  simp only [this]

/-- The regulator step on a port whose v_p the profile step has moved toward `target` (R27, R34 to R36). -/
theorem Port.regulate_eq (p : Port) (target : Int) (act : Activity) :
    ({ p with vp := rampToward target p.config.rampStep p.vp, act := act } : Port).regulate =
      { p.driven target with act := act } := by
  unfold Port.regulate Port.driven
  dsimp only
  rw [rampToward_eq _ _ _ p.config.rampStep_pos]
  unfold PortConfig.rampStep
  have hout (u : Int) : (if u > (p.ceiling : Int) then (p.ceiling : Int) else if u < -(p.ceiling : Int) then -(p.ceiling : Int) else u) =
      max (-(p.ceiling : Int)) (min p.ceiling u) := by
    split
    · omega
    · split <;> omega
  have hkept (u e a b : Int) : (if (decide (u > (p.ceiling : Int)) && decide (0 < e)) = true then a
        else if (decide (u < -(p.ceiling : Int)) && decide (e < 0)) = true then a else b) =
      if ((p.ceiling : Int) < u ∧ 0 < e) ∨ (u < -(p.ceiling : Int) ∧ e < 0) then a else b := by
    simp only [Bool.and_eq_true, decide_eq_true_eq, gt_iff_lt]
    by_cases h1 : (p.ceiling : Int) < u ∧ 0 < e <;> by_cases h2 : u < -(p.ceiling : Int) ∧ e < 0 <;> simp [h1, h2]
  rw [hout, hkept]
  cases p.config.motorPolarity <;> simp [clampInt]

theorem Port.driven_vp (p : Port) (target : Int) : (p.driven target).vp = rampToward target p.config.rampStep p.vp :=
  (rampToward_eq _ _ _ p.config.rampStep_pos).symm

theorem brakingDistance_eq (vp : Int) (accel : Nat) :
    brakingDistance vp accel = (vp.natAbs ^ 2 + 2 * accel - 1) / (2 * accel) := by
  unfold brakingDistance; rw [Nat.pow_two]

/-- The distance a profile step looks at is the distance to go (R30). -/
theorem Running.remaining_eq (r : Running) (p : Port) : r.target.getD p.position - p.position = r.remaining p := by
  unfold Running.remaining
  cases r.target <;> simp

/-- A port after the regulator step (R23, R38). -/
def Port.regulated (p : Port) : Port := if p.isRegulated then p.regulate else p

/-- A port that runs `r` after its v_p has moved toward `target` and the regulator step. -/
def Port.toward (p : Port) (r : Running) (target : Int) (there onTheWay : Phase) : Port :=
  let q := p.driven target
  { q with act := .running { r with phase := if q.vp = target then there else onTheWay } }

theorem Port.toward_eq (p : Port) (r : Running) (target : Int) (there onTheWay : Phase) (ha : p.act = .running r)
    (hm : ∀ style d, r.move.motion ≠ .rest style d) :
    (let vp := rampToward target p.config.rampStep p.vp;
      (({ p with vp := vp } : Port).setPhase (if vp = target then there else onTheWay)).regulated) =
      p.toward r target there onTheWay := by
  have hg (vp : Int) (phase : Phase) : ({ p with vp := vp, act := .running { r with phase := phase } } : Port).isRegulated = true := by
    unfold Port.isRegulated
    dsimp only
    cases h : r.move.motion with
    | rest style d => exact absurd h (hm style d)
    | _ => rfl
  have hs (vp : Int) (phase : Phase) : ({ p with vp := vp } : Port).setPhase phase =
      { p with vp := vp, act := .running { r with phase := phase } } := by simp [Port.setPhase, ha]
  dsimp only
  rw [hs]
  unfold Port.regulated
  rw [if_pos (hg _ _), Port.regulate_eq]
  unfold Port.toward
  dsimp only
  rw [Port.driven_vp]

theorem Port.speedProfile_regulated (p : Port) (r : Running) (v : Int) (ha : p.act = .running r)
    (hm : r.move.motion = .speed v ∨ ∃ d, r.move.motion = .timed v d) : (p.speedProfile v).regulated = p.ranOn r := by
  refine (Port.toward_eq p r (clampInt (-p.config.maxSpeed) p.config.maxSpeed v) .cruise .ramp ha ?_).trans ?_
  · intro style d h; rcases hm with hm | ⟨_, hm⟩ <;> simp [hm] at h
  · unfold Port.ranOn
    rcases hm with hm | ⟨d, hm⟩ <;> rw [hm] <;> rfl

theorem Port.positionProfile_regulated (p : Port) (r : Running) (v : Nat) (ha : p.act = .running r)
    (hm : (∃ x, r.move.motion = .position v x) ∨ ∃ n, r.move.motion = .relative v n) :
    (p.positionProfile r.phase v (r.remaining p)).regulated = p.ranOn r := by
  have hb : (decide (r.phase = .braking) || decide (r.phase = .approach) || p.mustBrake (r.remaining p)) = true ↔
      (r.phase = .braking ∨ r.phase = .approach ∨ (r.remaining p).natAbs ≤
        (p.vp.natAbs ^ 2 + 2 * p.config.accel - 1) / (2 * p.config.accel) + p.vp.natAbs / 200) := by
    simp [Port.mustBrake, brakingDistance_eq, or_assoc]
  have hs : ∀ style d, r.move.motion ≠ .rest style d := by
    intro style d h; rcases hm with ⟨_, hm⟩ | ⟨_, hm⟩ <;> simp [hm] at h
  unfold Port.positionProfile Port.ranOn
  simp only [hb]
  rcases hm with ⟨x, hm⟩ | ⟨n, hm⟩ <;> rw [hm] <;> dsimp only <;> split <;>
    exact Port.toward_eq p r _ _ _ ha hs

theorem Port.holdProfile_regulated (p : Port) (h : p.isRegulated = true) :
    p.holdProfile.regulated = p.driven p.holdPull := by
  have e : p.holdProfile = { p with vp := rampToward p.holdPull p.config.rampStep p.vp, act := p.act } := rfl
  have hr : p.holdProfile.isRegulated = true := h
  unfold Port.regulated
  rw [if_pos hr, e, Port.regulate_eq]
  rfl

theorem State.regulatorStep_modPort (s : State) (m : Idx6) (f g : Port → Port) (h : (f (s.port m)).regulated = g (s.port m)) :
    (s.modPort m f).regulatorStep m = s.modPort m g := by
  unfold State.regulatorStep
  rw [State.modPort_modPort]
  exact modPort_congr (f := fun p => (f p).regulated) (g := g) h

/-- The profile step of the move that a port runs, which does not arrive, and the regulator step that follows it (R28 to R38). -/
theorem State.profileStep_ranOn (m : Idx6) (fuel : Nat) (f : Passed) (s : State) (r : Running)
    (ha : (s.port m).act = .running r) (hn : r.arrives (s.port m) = false) :
    (State.profileStep m (fuel + 1) f s).1.regulatorStep m = (s.modPort m fun p => p.ranOn r) ∧
      (State.profileStep m (fuel + 1) f s).2 = f := by
  have hself (h : (s.port m).regulated = (s.port m).ranOn r) : s.regulatorStep m = s.modPort m fun p => p.ranOn r := by
    conv => lhs; rw [← modPort_self s m]
    exact State.regulatorStep_modPort s m (fun p => p) (fun p => p.ranOn r) h
  unfold Running.arrives at hn
  unfold State.profileStep
  simp only [ha, Running.remaining_eq]
  cases hm : r.move.motion with
  | speed v => exact ⟨State.regulatorStep_modPort _ _ _ (fun p => p.ranOn r) (Port.speedProfile_regulated _ r v ha (.inl hm)), rfl⟩
  | timed v d => exact ⟨State.regulatorStep_modPort _ _ _ (fun p => p.ranOn r) (Port.speedProfile_regulated _ r v ha (.inr ⟨d, hm⟩)), rfl⟩
  | position v x =>
    have hd : ¬ (r.remaining (s.port m)).natAbs ≤ (s.port m).config.tolerance := by simpa [hm] using hn
    dsimp only
    rw [if_neg hd]
    exact ⟨State.regulatorStep_modPort _ _ _ (fun p => p.ranOn r) (Port.positionProfile_regulated _ r v ha (.inl ⟨x, hm⟩)), rfl⟩
  | relative v n =>
    have hd : ¬ (r.remaining (s.port m)).natAbs ≤ (s.port m).config.tolerance := by simpa [hm] using hn
    dsimp only
    rw [if_neg hd]
    exact ⟨State.regulatorStep_modPort _ _ _ (fun p => p.ranOn r) (Port.positionProfile_regulated _ r v ha (.inr ⟨n, hm⟩)), rfl⟩
  | rest style d =>
    cases style with
    | hold =>
      refine ⟨State.regulatorStep_modPort _ _ _ (fun p => p.ranOn r) ?_, rfl⟩
      rw [Port.holdProfile_regulated _ (by simp [Port.isRegulated, ha, hm])]
      simp only [Port.ranOn, hm, ← ha]
      rfl
    | coast =>
      refine ⟨hself ?_, rfl⟩
      simp only [Port.regulated, Port.isRegulated, ha, hm, Port.ranOn]
      rw [← ha]
      rfl
    | brake =>
      refine ⟨hself ?_, rfl⟩
      simp only [Port.regulated, Port.isRegulated, ha, hm, Port.ranOn]
      rw [← ha]
      rfl

/-! ### The guard, stall and timed steps (R39 to R41, R101 to R106) -/

/-- A port that runs on toward a speed changes of its move only the phase, by the speed alone. -/
theorem Port.toward_act (p : Port) (r : Running) (target : Int) (there onTheWay : Phase) :
    p.toward r target there onTheWay = { p.driven target with
      act := .running { r with phase := if (p.driven target).vp = target then there else onTheWay } } := rfl

/-- Running on looks only at the running move's record, phase and target, and changes only its phase. -/
theorem Port.ranOn_eq (p : Port) (r : Running) : ∃ (q : Port) (phase : Phase), ∀ r' : Running, r'.move = r.move →
    r'.phase = r.phase → r'.target = r.target → p.ranOn r' = { q with act := .running { r' with phase := phase } } := by
  have speeds (v : Int) (hm : r.move.motion = .speed v ∨ ∃ d, r.move.motion = .timed v d) (r' : Running)
      (h1 : r'.move = r.move) :
      p.ranOn r' = p.toward r' (max (-(p.config.maxSpeed : Int)) (min p.config.maxSpeed v)) .cruise .ramp := by
    obtain ⟨mv, phase, elapsed, ready, target, prev⟩ := r'
    subst h1
    unfold Port.ranOn
    rcases hm with hm | ⟨d, hm⟩ <;> simp only [hm] <;> rfl
  have targets (v : Nat) (hm : (∃ x, r.move.motion = .position v x) ∨ ∃ n, r.move.motion = .relative v n) :
      ∃ (target : Int) (there onTheWay : Phase), ∀ r' : Running, r'.move = r.move → r'.phase = r.phase →
        r'.target = r.target → p.ranOn r' = p.toward r' target there onTheWay := by
    have h (r' : Running) (h1 : r'.move = r.move) (h2 : r'.phase = r.phase) (h3 : r'.target = r.target) :
        p.ranOn r' =
          (if r.phase = .braking ∨ r.phase = .approach ∨ (r.remaining p).natAbs ≤
            (p.vp.natAbs ^ 2 + 2 * p.config.accel - 1) / (2 * p.config.accel) + p.vp.natAbs / 200
          then p.toward r' ((if 0 < r.remaining p then 1 else -1) * min 50 (min (v : Int) p.config.maxSpeed)) .approach .braking
          else p.toward r' ((if 0 < r.remaining p then 1 else -1) * min (v : Int) p.config.maxSpeed) .cruise .ramp) := by
      obtain ⟨mv, phase, elapsed, ready, target, prev⟩ := r'
      subst h1 h2 h3
      unfold Port.ranOn
      rcases hm with ⟨x, hm⟩ | ⟨n, hm⟩ <;> simp only [hm] <;> rfl
    by_cases hc : r.phase = .braking ∨ r.phase = .approach ∨ (r.remaining p).natAbs ≤
        (p.vp.natAbs ^ 2 + 2 * p.config.accel - 1) / (2 * p.config.accel) + p.vp.natAbs / 200
    · exact ⟨_, _, _, fun r' h1 h2 h3 => (h r' h1 h2 h3).trans (if_pos hc)⟩
    · exact ⟨_, _, _, fun r' h1 h2 h3 => (h r' h1 h2 h3).trans (if_neg hc)⟩
  cases hm : r.move.motion with
  | speed v => exact ⟨_, _, fun r' h1 _ _ => (speeds v (.inl hm) r' h1).trans (Port.toward_act ..)⟩
  | timed v d => exact ⟨_, _, fun r' h1 _ _ => (speeds v (.inr ⟨d, hm⟩) r' h1).trans (Port.toward_act ..)⟩
  | position v x =>
    obtain ⟨_, _, _, h⟩ := targets v (.inl ⟨x, hm⟩)
    exact ⟨_, _, fun r' h1 h2 h3 => (h r' h1 h2 h3).trans (Port.toward_act ..)⟩
  | relative v n =>
    obtain ⟨_, _, _, h⟩ := targets v (.inr ⟨n, hm⟩)
    exact ⟨_, _, fun r' h1 h2 h3 => (h r' h1 h2 h3).trans (Port.toward_act ..)⟩
  | rest style d =>
    cases style with
    | hold => exact ⟨p.driven p.holdPull, r.phase, fun r' h1 h2 _ => by unfold Port.ranOn; simp only [h1, hm, ← h2]; rw [← h1]⟩
    | coast => exact ⟨p, r.phase, fun r' h1 h2 _ => by unfold Port.ranOn; simp only [h1, hm, ← h2]; rw [← h1]⟩
    | brake => exact ⟨p, r.phase, fun r' h1 h2 _ => by unfold Port.ranOn; simp only [h1, hm, ← h2]; rw [← h1]⟩

/-- The guard step of a running move (R23, R101 to R106). -/
theorem State.guardStep_eq (s : State) (m : Idx6) (r : Running) (ha : (s.port m).act = .running r)
    (hr : s.runs m r.move) :
    s.guardStep m = (match s.guardEnd r with
      | some x => (s.endsNow m r.move x, true)
      | none => (s.modPort m fun p => { p with act := .running { r with prev := (s.wentOn r true).prev } }, false)) := by
  have same : (s.modPort m fun p => { p with act := .running r }) = s := by
    have : (s.modPort m fun p => { p with act := .running r }) = s.modPort m fun p => p :=
      modPort_congr (f := fun p => { p with act := .running r }) (g := fun p => p) (by rw [← ha])
    rw [this, modPort_self]
  unfold State.guardStep State.guardEnd State.wentOn
  rw [ha]
  dsimp only
  cases hg : r.move.guard with
  | none => simp [same]
  | some g =>
    dsimp only
    unfold Guard.evaluate
    have hu : (s.sensorAt g.sensor).record.usable g.index = g.reads (s.sensorAt g.sensor).record := rfl
    have hf (x : Reading) : g.fires r.prev (x.values.at g.index) x.sequence = g.met r.prev x := by
      unfold Guard.fires Guard.met
      cases g.comparison <;> cases r.prev <;> rfl
    rw [hu, hf]
    cases g.reads (s.sensorAt g.sensor).record
    · cases g.strict <;> simp [same, State.endLater_eq s m r.move _ hr]
    · cases g.met r.prev (s.sensorAt g.sensor).record <;> simp [State.endLater_eq s m r.move _ hr]

/-- A stall (R16, R40). -/
theorem State.stallStop_stops (s : State) (m : Idx6) :
    StopsPorts s (s.stallStop m) ((Six.all false).set m true)
      (fun p => p.stoppedBy .stalled (.rest .stalled) s.uptime) true := by
  refine clearPorts_stops s _ (some .stalled) (Port.enterRest .stalled) _ (fun q _ => ?_) (fun q _ => rfl)
  generalize s.port q = p
  unfold Port.cleared Port.stoppedBy
  cases ha : p.act with
  | running r =>
    simp [Port.endRunning, ha, Port.addOutcome_eq, Port.recorded, Port.discardQueue, Port.leaveWait, Port.enterRest, satAdd]
  | _ => simp [Port.endRunning, ha, Port.discardQueue, Port.leaveWait, Port.enterRest, satAdd]

/-- The stall step of a port that runs a move (R39, R40). -/
theorem State.stallStep_eq (s : State) (m : Idx6) (h : (s.port m).isRunning = true) :
    s.stallStep m = (if (s.port m).config.stallTime ≤ (s.port m).strained.stallTimer
      then ((s.modPort m Port.strained).stallStop m, true) else (s.modPort m Port.strained, false)) := by
  have e : (s.modPort m fun p => { p with stallTimer := (s.port m).nextStallTimer }) = s.modPort m Port.strained :=
    modPort_congr (f := fun p => { p with stallTimer := (s.port m).nextStallTimer }) (g := Port.strained) rfl
  unfold State.stallStep
  simp only [h, Bool.true_or, if_true, e]
  rfl

/-- The timed step of a running move (R41). -/
theorem State.timedStep_eq (s : State) (m : Idx6) (r : Running) (started : Bool) (ha : (s.port m).act = .running r)
    (hr : s.runs m r.move) :
    s.timedStep m started = if started then s else
      let r' := { r with elapsed := min 4294967295 (r.elapsed + 5) }
      let u := s.modPort m fun p => { p with act := .running r' }
      if r'.isOver then u.endsNow m r.move .done else u := by
  unfold State.timedStep
  rw [ha]
  cases started
  · have hu : (s.modPort m fun p => { p with act := .running { r with elapsed := min 4294967295 (r.elapsed + 5) } }).runs
        m r.move := by
      unfold State.runs
      rw [State.modPort_port_same]
      exact ⟨⟨_, rfl, rfl⟩, hr.2⟩
    have ho : r.move.timedOut (min 4294967295 (r.elapsed + 5)) =
        Running.isOver { r with elapsed := min 4294967295 (r.elapsed + 5) } := by
      unfold Move.timedOut Running.isOver
      cases r.move.motion <;> simp [bne, beq_eq_decide]
    simp only [Bool.false_eq_true, if_false, satAdd, State.endLater_eq _ m r.move _ hu, ho]
  · rfl

/-! ### The rest of a regulation event (R23) -/

/-- The steps of a regulation event after its profile step. -/
def State.afterProfile (m : Idx6) (x : State × Passed) : State :=
  let (s5, guardEnded) := (x.1.regulatorStep m).guardStep m
  if guardEnded then s5
  else
    let (s6, stalled) := if x.2.enteredHold then (s5, false) else s5.stallStep m
    if stalled then s6 else s6.timedStep m x.2.started

/-- A stall leaves nothing of what only the running move's own record shows. -/
theorem StopsPorts.of_running {s t : State} {m : Idx6} {f g F : Port → Port}
    (h : StopsPorts (s.modPort m f) t ((Six.all false).set m true) F true)
    (hF : F (f (s.port m)) = F (g (s.port m))) (hr : (f (s.port m)).isRunning = (g (s.port m)).isRunning)
    (hq : (f (s.port m)).queue = (g (s.port m)).queue)
    (hd : (f (s.port m)).discarded = (g (s.port m)).discarded) :
    StopsPorts (s.modPort m g) t ((Six.all false).set m true) F true := by
  have hw (q : Idx6) : ((Six.all false).set m true).get q = decide (q = m) := by
    rw [Six.get_set]; by_cases h : q = m <;> simp [h]
  have hp (e : Port → Port) (q : Idx6) (hne : q ≠ m) : (s.modPort m e).port q = s.port q := by
    simp [State.modPort, State.port, Six.get_set_ne _ _ hne]
  have hg (q : Idx6) : ((s.modPort m f).port q).headGroup = ((s.modPort m g).port q).headGroup := by
    by_cases hqm : q = m
    · subst hqm; simp [Port.headGroup, hq]
    · rw [hp f q hqm, hp g q hqm]
  have hl (q : Idx6) : (s.modPort m f).losesHead ((Six.all false).set m true) q =
      (s.modPort m g).losesHead ((Six.all false).set m true) q := by
    unfold State.losesHead
    by_cases hqm : q = m
    · simp [hqm]
    · have hready : (s.modPort m f).readyFor ((s.modPort m f).port q).headGroup q =
          (s.modPort m g).readyFor ((s.modPort m g).port q).headGroup q := by
        unfold State.readyFor
        rw [hp f q hqm, hp g q hqm]
        rfl
      rw [hready]
      simp only [hg]
      rfl
  refine ⟨fun q => ?_, fun q => ?_, ?_⟩
  · rw [h.ports q, hl, hw]
    by_cases hqm : q = m
    · subst hqm; simp [hF]
    · rw [hp f q hqm, hp g q hqm]; rfl
  · rw [h.raised q, hl, hw]
    by_cases hqm : q = m
    · subst hqm; simp [hF, hr, hd]
    · rw [hp f q hqm, hp g q hqm]; rfl
  · rw [h.rest]; rfl

/-- What running on keeps of a port. -/
theorem Port.ranOn_keeps (p : Port) (r : Running) :
    (p.ranOn r).config = p.config ∧ (p.ranOn r).queue = p.queue ∧ (p.ranOn r).replacing = p.replacing := by
  unfold Port.ranOn
  dsimp only
  cases r.move.motion with
  | speed v => exact ⟨rfl, rfl, rfl⟩
  | timed v d => exact ⟨rfl, rfl, rfl⟩
  | position v x => dsimp only; split <;> exact ⟨rfl, rfl, rfl⟩
  | relative v n => dsimp only; split <;> exact ⟨rfl, rfl, rfl⟩
  | rest style d => cases style <;> exact ⟨rfl, rfl, rfl⟩

/-- The steps after the profile step of a move that does not arrive. -/
theorem State.afterProfile_running (m : Idx6) (s s3 : State) (r : Running) (started : Bool)
    (ha : (s.port m).act = .running r) (hn : r.arrives (s.port m) = false) (hs : s.runs m r.move)
    (h3 : s3.regulatorStep m = s.modPort m fun p => p.ranOn r) :
    RunsOn m started s (State.afterProfile m (s3, ⟨started, false⟩)) := by
  obtain ⟨q, phase, hq⟩ := Port.ranOn_eq (s.port m) r
  obtain ⟨hc, hqu, hrep⟩ := (s.port m).ranOn_keeps r
  have hq0 : (s.port m).ranOn r = { q with act := .running { r with phase := phase } } := hq r rfl rfl rfl
  have hq1 (b : Bool) : (s.port m).ranOn (s.wentOn r b) = { q with act := .running { s.wentOn r b with phase := phase } } :=
    hq _ rfl rfl rfl
  have runs (t : State) (f : Port → Port) (r' : Running) (ht : t = s.modPort m f)
      (hf : (f (s.port m)).act = .running r' ∧ r'.move = r.move ∧ (f (s.port m)).queue = q.queue ∧
        (f (s.port m)).replacing = q.replacing) : (t.port m).act = .running r' ∧ t.runs m r'.move := by
    obtain ⟨h1, h2, h3, h4⟩ := hf
    rw [hq0] at hqu hrep
    unfold State.runs
    rw [ht, State.modPort_port_same, h1, h3, h4]
    exact ⟨rfl, ⟨r', rfl, rfl⟩, by rw [show q.queue = _ from hqu, show q.replacing = _ from hrep]; exact hs.2⟩
  -- the guard step
  obtain ⟨hua, hur⟩ := runs _ (fun p => p.ranOn r) { r with phase := phase } rfl
    (by dsimp only; rw [hq0]; exact ⟨rfl, rfl, rfl, rfl⟩)
  have hguard := State.guardStep_eq _ m _ hua hur
  unfold State.afterProfile
  dsimp only
  rw [h3, hguard]
  have hge : (s.modPort m fun p => p.ranOn r).guardEnd { r with phase := phase } = s.guardEnd r := rfl
  rw [hge]
  cases hg : s.guardEnd r with
  | some x => exact .guardEnds ha hn hg
  | none =>
    dsimp only
    have h5 : ((s.modPort m fun p => p.ranOn r).modPort m fun p => { p with act := .running { { r with phase := phase } with
          prev := ((s.modPort m fun p => p.ranOn r).wentOn { r with phase := phase } true).prev } }) =
        s.modPort m fun p => p.ranOn (s.wentOn r true) := by
      rw [State.modPort_modPort]
      refine modPort_congr ?_
      rw [hq0, hq1]
      rfl
    rw [h5]
    -- the stall step
    have htimer : ((s.port m).ranOn (s.wentOn r true)).strained.stallTimer = ((s.port m).ranOn r).strained.stallTimer := by
      rw [hq0, hq1]; rfl
    have hconf : ((s.port m).ranOn (s.wentOn r true)).config = (s.port m).config := by
      rw [hq0] at hc; rw [hq1]; exact hc
    simp only [Bool.false_eq_true, if_false]
    rw [State.stallStep_eq _ m (by rw [State.modPort_port_same]; simp [hq1, Port.isRunning]), State.modPort_port_same, htimer,
      hconf, State.modPort_modPort]
    by_cases hst : (s.port m).config.stallTime ≤ ((s.port m).ranOn r).strained.stallTimer
    · simp only [if_pos hst, if_true]
      refine .stalls ha hn hg hst (StopsPorts.of_running (State.stallStop_stops _ m) ?_ ?_ ?_ ?_)
      all_goals rw [hq0, hq1]; rfl
    · simp only [if_neg hst, Bool.false_eq_true, if_false]
      -- the timed step
      obtain ⟨hwa, hwr⟩ := runs _ (fun p => (p.ranOn (s.wentOn r true)).strained) { s.wentOn r true with phase := phase } rfl
        (by dsimp only; rw [hq1]; exact ⟨rfl, rfl, rfl, rfl⟩)
      rw [State.timedStep_eq _ m _ started hwa hwr]
      cases started with
      | true => exact .goesOn ha hn hg (Nat.not_le.mp hst) (.inl rfl)
      | false =>
        have hw : ((s.modPort m fun p => (p.ranOn (s.wentOn r true)).strained).modPort m fun p => { p with
              act := .running { { s.wentOn r true with phase := phase } with elapsed := min 4294967295 (r.elapsed + 5) } }) =
            s.modPort m fun p => (p.ranOn (s.wentOn r false)).strained := by
          rw [State.modPort_modPort]
          refine modPort_congr ?_
          dsimp only
          rw [hq1, hq1]
          rfl
        have he : (if (s.wentOn r false).isOver then
              (s.modPort m fun p => (p.ranOn (s.wentOn r false)).strained).endsNow m r.move .done
            else s.modPort m fun p => (p.ranOn (s.wentOn r false)).strained) =
            (let r' := { { s.wentOn r true with phase := phase } with elapsed := min 4294967295 (r.elapsed + 5) }
            let u := (s.modPort m fun p => (p.ranOn (s.wentOn r true)).strained).modPort m fun p =>
              { p with act := .running r' }
            if r'.isOver then u.endsNow m r.move .done else u) := by
          dsimp only
          rw [hw]
          rfl
        refine Eq.subst he ?_
        by_cases ho : (s.wentOn r false).isOver = true
        · rw [if_pos ho]; exact .timesOut ha hn hg (Nat.not_le.mp hst) ho
        · rw [if_neg ho]; exact .goesOn ha hn hg (Nat.not_le.mp hst) (.inr (by simpa using ho))

/-- The head that step 1 of the start decision leaves has no group that the port is not in. -/
theorem State.lessForeign_head (s : State) (m : Idx6) (head : Move) (rest : List Move)
    (h : ((s.lessForeign m).port m).queue = head :: rest) : head.group = 0 ∨ (s.lessForeign m).isMember head.group m = true := by
  rw [← State.dropForeignHeads_eq m _ s (Nat.le_refl _)] at h ⊢
  generalize hn : (s.port m).queue.length = n at h ⊢
  replace hn := Nat.le_of_eq hn
  induction n generalizing s with
  | zero =>
    have : (s.port m).queue = [] := List.length_eq_zero_iff.mp (Nat.le_zero.mp hn)
    simp [State.dropForeignHeads, this] at h
  | succ n ih =>
    unfold State.dropForeignHeads at h ⊢
    dsimp only at h ⊢
    by_cases hc : (decide ((s.port m).headGroup ≠ 0) && !s.isMember (s.port m).headGroup m) = true
    · rw [if_pos hc] at h ⊢
      refine ih (s.breakHead m) h ?_
      cases hq : (s.port m).queue with
      | nil => simp [Port.headGroup, hq] at hc
      | cons head' rest' =>
        have hb : ((s.port m).brokenHead s.uptime).queue = rest' := by unfold Port.brokenHead; rw [hq]
        rw [breakHead_eq, hq]
        simp only [State.raiseIf, List.isEmpty_cons, Bool.not_false, if_true, State.raise_port, State.modPort_port_same, hb]
        simp [hq] at hn; omega
    · rw [if_neg hc] at h ⊢
      by_cases h0 : head.group = 0
      · exact .inl h0
      · refine .inr ?_
        have hg : (s.port m).headGroup = head.group := by simp [Port.headGroup, h]
        simpa [hg, h0] using hc

theorem State.lessForeign_length (s : State) (m : Idx6) :
    ((s.lessForeign m).port m).queue.length ≤ (s.port m).queue.length := by
  refine s.lessForeign_induct m (fun t => (t.port m).queue.length ≤ (s.port m).queue.length) (fun t ht => ?_) (Nat.le_refl _)
  rw [State.raise_port, State.modPort_port_same]
  refine Nat.le_trans ?_ ht
  unfold Port.brokenHead
  split
  · exact Nat.le_refl _
  · rename_i hq; rw [hq]; simp

/-- A queue head that starts becomes the running move, without a mark. -/
theorem Port.begun_cons (p : Port) (following : Bool) (head : Move) (rest : List Move) (h : p.queue = head :: rest) :
    ∃ r, (p.begun following).act = .running r ∧ r.move = head ∧ (p.begun following).queue = rest ∧
      (p.begun following).replacing = false := by
  unfold Port.begun
  rw [h]
  dsimp only
  cases head.motion with
  | rest style d => cases style <;> exact ⟨_, rfl, rfl, rfl, rfl⟩
  | _ => exact ⟨_, rfl, rfl, rfl, rfl⟩

/-- The record that follows a move becomes the running move, and the queue is shorter by it. -/
theorem State.followed_runs (v u : State) (m : Idx6) (mv : Move) (hv : v.runs m mv) (hu : v.followed m = some u)
    (hm : ∀ head rest, (v.port m).queue = head :: rest → head.group = 0 ∨ v.isMember head.group m = true) :
    ∃ r, (u.port m).act = .running r ∧ u.runs m r.move ∧ (u.port m).queue.length < (v.port m).queue.length := by
  unfold State.followed at hu
  obtain ⟨⟨rv, hva, -⟩, -⟩ := hv
  cases hq : (v.port m).queue with
  | nil => simp [hq] at hu
  | cons head rest =>
    have fin (p : Port) (hp : p.queue = head :: rest) (hpu : u.port m = p.begun true) :
        ∃ r, (u.port m).act = .running r ∧ u.runs m r.move ∧ (u.port m).queue.length < (head :: rest).length := by
      obtain ⟨r, h1, -, h3, h4⟩ := p.begun_cons true head rest hp
      refine ⟨r, by rw [hpu]; exact h1, ⟨⟨r, by rw [hpu]; exact h1, rfl⟩, .inl (by rw [hpu]; exact h4)⟩, ?_⟩
      rw [hpu, h3]; simp
    rw [hq] at hu
    dsimp only at hu
    by_cases hg : head.group = 0
    · rw [if_pos hg] at hu
      refine fin (v.port m) hq ?_
      rw [← Option.some.inj hu, State.modPort_port_same]
    · rw [if_neg hg] at hu
      cases hl : v.groupLacks head.group m with
      | true => simp [hl] at hu
      | false =>
        rw [hl] at hu
        have hmem : v.isMember head.group m = true := (hm head rest hq).resolve_left hg
        refine fin (v.port m) hq ?_
        rw [← Option.some.inj hu]
        simp [State.groupStarted, State.port, hmem, Port.isRunning]
        have : (v.motor.get m).act = .running rv := hva
        simp [this]

/-- The guard and timed steps pass over a port that runs no move. -/
theorem State.guardStep_idle (s : State) (m : Idx6) (h : (s.port m).isRunning = false) : s.guardStep m = (s, false) := by
  unfold State.guardStep
  unfold Port.isRunning at h
  split <;> simp_all

theorem State.timedStep_idle (s : State) (m : Idx6) (started : Bool) (h : (s.port m).isRunning = false) :
    s.timedStep m started = s := by
  unfold State.timedStep
  unfold Port.isRunning at h
  split <;> simp_all

/-- The state that the end of a move puts a port into where nothing starts. -/
theorem Port.restsAfter_act (p : Port) (e : StopStyle) :
    (p.restsAfter e).isRunning = false ∧ (p.restsAfter e).act.holds = decide (e = .hold) := by
  unfold Port.restsAfter
  cases e <;> cases p.queue <;> exact ⟨rfl, rfl⟩

theorem Port.isRegulated_of_holds (p : Port) (h : p.isRunning = false) : p.isRegulated = p.act.holds := by
  unfold Port.isRegulated
  unfold Port.isRunning at h
  cases ha : p.act with
  | running r => simp [ha] at h
  | _ => rfl

/-- The end of a POSITION or RELATIVE move within its tolerance, where nothing starts (R33). -/
theorem State.afterProfile_ended (m : Idx6) (v : State) (e : StopStyle) (started : Bool) :
    State.afterProfile m
        (let s1 := v.modPort m fun p => p.restsAfter e
        if (s1.port m).act.holds then (s1.modPort m Port.holdProfile, ⟨started, true⟩) else (s1, ⟨started, false⟩)) =
      v.modPort m fun p => if e = .hold then (p.restsAfter .hold).driven 0 else p.restsAfter e := by
  obtain ⟨hrun, hholds⟩ := (v.port m).restsAfter_act e
  have hreg := Port.isRegulated_of_holds _ hrun
  dsimp only
  rw [State.modPort_port_same, hholds]
  by_cases he : e = .hold
  · subst he
    have hpull : ((v.port m).restsAfter .hold).holdPull = 0 := by
      simp [Port.holdPull, Port.restsAfter]
    have h4 : ((v.modPort m fun p => p.restsAfter .hold).modPort m Port.holdProfile).regulatorStep m =
        v.modPort m fun p => (p.restsAfter .hold).driven 0 := by
      rw [State.modPort_modPort]
      refine State.regulatorStep_modPort v m _ (fun p => (p.restsAfter .hold).driven 0) ?_
      rw [Port.holdProfile_regulated _ (by rw [hreg, hholds]; rfl), hpull]
    have hi : ((v.modPort m fun p => (p.restsAfter .hold).driven 0).port m).isRunning = false := by
      rw [State.modPort_port_same]; exact hrun
    unfold State.afterProfile
    simp only [decide_true, if_true, h4, State.guardStep_idle _ m hi, Bool.false_eq_true, if_false,
      State.timedStep_idle _ m started hi]
  · have hd : decide (e = .hold) = false := decide_eq_false he
    have h4 : (v.modPort m fun p => p.restsAfter e).regulatorStep m = v.modPort m fun p => p.restsAfter e := by
      refine State.regulatorStep_modPort v m _ (fun p => p.restsAfter e) ?_
      unfold Port.regulated
      rw [hreg, hholds, hd]
      rfl
    have hi : ((v.modPort m fun p => p.restsAfter e).port m).isRunning = false := by
      rw [State.modPort_port_same]; exact hrun
    have hh : ((v.modPort m fun p => p.restsAfter e).port m).act.holds = false := by
      rw [State.modPort_port_same, hholds, hd]
    have hs : (v.modPort m fun p => p.restsAfter e).stallStep m = (v.modPort m fun p => p.restsAfter e, false) := by
      unfold State.stallStep
      simp only [hi, hh, Bool.or_self, Bool.false_eq_true, if_false]
    rw [hd]
    unfold State.afterProfile
    simp only [Bool.false_eq_true, if_false, h4, State.guardStep_idle _ m hi, hs, State.timedStep_idle _ m started hi, he]

/-- The profile step of a move that arrives (R30, R33). -/
theorem State.profileStep_arrives (m : Idx6) (fuel : Nat) (f : Passed) (s : State) (r : Running)
    (ha : (s.port m).act = .running r) (hr : r.arrives (s.port m) = true) (hs : s.runs m r.move) :
    State.profileStep m (fuel + 1) f s = (match (s.moveEnded m r.move .done).followed m with
      | some u => State.profileStep m fuel { f with started := true } u
      | none =>
        let s1 := (s.moveEnded m r.move .done).modPort m fun p => p.restsAfter r.move.endAction
        if (s1.port m).act.holds then (s1.modPort m Port.holdProfile, { f with enteredHold := true }) else (s1, f)) := by
  unfold Running.arrives at hr
  conv => lhs; unfold State.profileStep
  simp only [ha, Running.remaining_eq, State.endLater_eq s m r.move .done hs, State.endsNow]
  cases hm : r.move.motion with
  | position v x =>
    have hd : (r.remaining (s.port m)).natAbs ≤ (s.port m).config.tolerance := by simpa [hm] using hr
    dsimp only
    rw [if_pos hd]
    cases (s.moveEnded m r.move .done).followed m <;> rfl
  | relative v n =>
    have hd : (r.remaining (s.port m)).natAbs ≤ (s.port m).config.tolerance := by simpa [hm] using hr
    dsimp only
    rw [if_pos hd]
    cases (s.moveEnded m r.move .done).followed m <;> rfl
  | _ => simp [hm] at hr

/-- The regulation event from its profile step on, on a port that runs a move. -/
theorem State.profile_runsOn (m : Idx6) (fuel : Nat) (s : State) (r : Running) (started : Bool)
    (ha : (s.port m).act = .running r) (hs : s.runs m r.move) (hf : (s.port m).queue.length < fuel) :
    RunsOn m started s (State.afterProfile m (State.profileStep m fuel ⟨started, false⟩ s)) := by
  induction fuel generalizing s r started with
  | zero => omega
  | succ fuel ih =>
    cases hr : r.arrives (s.port m) with
    | false =>
      obtain ⟨h1, h2⟩ := State.profileStep_ranOn m fuel ⟨started, false⟩ s r ha hr
      have he : State.profileStep m (fuel + 1) ⟨started, false⟩ s =
          ((State.profileStep m (fuel + 1) ⟨started, false⟩ s).1, ⟨started, false⟩) := Prod.ext rfl h2
      rw [he]
      exact State.afterProfile_running m s _ r started ha hr hs h1
    | true =>
      rw [State.profileStep_arrives m fuel _ s r ha hr hs]
      cases hu : (s.moveEnded m r.move .done).followed m with
      | none =>
        dsimp only
        rw [State.afterProfile_ended]
        exact .arrivesLast ha hr hu
      | some u =>
        have hl : ((s.moveEnded m r.move .done).port m).queue.length ≤ (s.port m).queue.length := by
          refine Nat.le_trans (State.lessForeign_length _ m) ?_
          rw [State.raise_port, State.modPort_port_same]
          exact Nat.le_refl _
        obtain ⟨r', h1, h2, h3⟩ := State.followed_runs _ u m r.move (s.moveEnded_runs m r.move .done hs) hu
          (fun head rest h => State.lessForeign_head _ m head rest h)
        exact .arrivesNext ha hr hu (ih u r' true h1 h2 (by omega))

theorem State.profileStep_idle (m : Idx6) (fuel : Nat) (f : Passed) (s : State) (h : (s.port m).isRunning = false) :
    State.profileStep m (fuel + 1) f s =
      if (s.port m).act.holds then (s.modPort m Port.holdProfile, f) else (s, f) := by
  unfold State.profileStep
  unfold Port.isRunning at h
  cases ha : (s.port m).act with
  | running r => simp [ha] at h
  | _ => simp only [ha]

/-- The regulation event from its profile step on, on a port at rest that does not hold (R8, R23). -/
theorem State.profile_rests (m : Idx6) (fuel : Nat) (s : State) (h : (s.port m).isRunning = false)
    (hh : (s.port m).act.holds = false) :
    State.afterProfile m (State.profileStep m (fuel + 1) ⟨false, false⟩ s) = s := by
  rw [State.profileStep_idle m fuel _ s h, hh]
  have h4 : s.regulatorStep m = s := by
    have := State.regulatorStep_modPort s m (fun p => p) (fun p => p) (by
      unfold Port.regulated; rw [Port.isRegulated_of_holds _ h, hh]; rfl)
    rwa [modPort_self] at this
  have hs : s.stallStep m = (s, false) := by
    unfold State.stallStep
    simp only [h, hh, Bool.or_self, Bool.false_eq_true, if_false]
  unfold State.afterProfile
  simp only [Bool.false_eq_true, if_false, h4, State.guardStep_idle _ m h, hs, State.timedStep_idle _ m false h]

/-- The regulation event from its profile step on, on a port that holds (R23, R29, R39, R40). -/
theorem State.profile_holds (m : Idx6) (fuel : Nat) (s : State) (h : (s.port m).isRunning = false)
    (hh : (s.port m).act.holds = true) :
    State.afterProfile m (State.profileStep m (fuel + 1) ⟨false, false⟩ s) =
      (let t := s.modPort m fun p => (p.driven p.holdPull).strained
      if (s.port m).config.stallTime ≤ (((s.port m).driven (s.port m).holdPull).strained).stallTimer then t.stallStop m
      else t) := by
  rw [State.profileStep_idle m fuel _ s h, hh]
  have h4 : (s.modPort m Port.holdProfile).regulatorStep m = s.modPort m fun p => p.driven p.holdPull :=
    State.regulatorStep_modPort s m _ (fun p => p.driven p.holdPull)
      (Port.holdProfile_regulated _ (by rw [Port.isRegulated_of_holds _ h, hh]))
  have hi : ((s.modPort m fun p => p.driven p.holdPull).port m).isRunning = false := by
    rw [State.modPort_port_same]; exact h
  have hj : ((s.modPort m fun p => p.driven p.holdPull).port m).act.holds = true := by
    rw [State.modPort_port_same]; exact hh
  have hk : ((s.modPort m fun p => (p.driven p.holdPull).strained).port m).isRunning = false := by
    rw [State.modPort_port_same]; exact h
  have he : ((s.modPort m fun p => p.driven p.holdPull).modPort m fun p =>
      { p with stallTimer := ((s.modPort m fun p => p.driven p.holdPull).port m).nextStallTimer }) =
      s.modPort m fun p => (p.driven p.holdPull).strained := by
    rw [State.modPort_modPort, State.modPort_port_same]
    exact modPort_congr (g := fun p => (p.driven p.holdPull).strained) rfl
  have hs : (s.modPort m fun p => p.driven p.holdPull).stallStep m =
      (if (s.port m).config.stallTime ≤ (((s.port m).driven (s.port m).holdPull).strained).stallTimer then
        ((s.modPort m fun p => (p.driven p.holdPull).strained).stallStop m, true)
      else (s.modPort m fun p => (p.driven p.holdPull).strained, false)) := by
    unfold State.stallStep
    simp only [hj, Bool.or_true, if_true, he]
    rw [State.modPort_port_same]
    rfl
  unfold State.afterProfile
  simp only [if_true, h4, State.guardStep_idle _ m hi, Bool.false_eq_true, if_false, hs]
  by_cases hc : (s.port m).config.stallTime ≤ (((s.port m).driven (s.port m).holdPull).strained).stallTimer
  · simp only [if_pos hc, if_true]
  · simp only [if_neg hc, Bool.false_eq_true, if_false, State.timedStep_idle _ m false hk]

/-! ### The event up to its profile step (R1, R9, R20, R21, R23 to R26) -/

/-- The configuration, encoder and measured-speed steps (R1, R25, R26, R37). -/
theorem State.firstSteps_eq (s : State) (m : Idx6) :
    ((s.configStep m).modPort m Port.encoderStep).modPort m Port.speedStep =
      s.modPort m fun p => p.atEvent s.supply.product := by
  unfold State.configStep
  cases hc : (s.port m).pendingConfig with
  | none =>
    rw [State.modPort_modPort]
    refine modPort_congr ?_
    unfold Port.speedStep Port.encoderStep Port.atEvent
    simp [hc, satPosition, clampInt, History.push]
    cases (s.port m).config.encoderPolarity <;> simp
  | some c =>
    unfold State.recomputeCeiling
    simp only [State.modPort_modPort]
    refine modPort_congr ?_
    unfold Port.speedStep Port.encoderStep Port.atEvent Port.storeCeiling
    simp [hc, satPosition, clampInt, History.push]
    cases c.encoderPolarity <;> simp

/-- The regulation event in its parts (R23). -/
theorem State.regulation_eq (s : State) (m : Idx6) :
    s.regulation m =
      (let s1 := s.modPort m fun p => p.atEvent s.supply.product
      if (s.port m).isShutdown then s1
      else
        let x := s1.startDecision m false
        State.afterProfile m (State.profileStep m ((x.1.port m).queue.length + 1) ⟨x.2, false⟩ x.1)) := by
  unfold State.regulation
  simp only [State.firstSteps_eq, State.modPort_port_same]
  rfl

theorem State.modPort_act_self (s : State) (m : Idx6) (act : Activity) (h : (s.port m).act = act) :
    (s.modPort m fun p => { p with act := act }) = s := by
  rw [modPort_congr (f := fun p => { p with act := act }) (g := fun p => p) (by rw [← h]), modPort_self]

/-- A start decision that starts nothing (R9 steps 5 and 6, R20). -/
theorem State.startDecision_stands (s : State) (m : Idx6) (act : Activity) (h : (s.lessForeign m).standing m = some act) :
    s.startDecision m false = ((s.lessForeign m).modPort m fun p => { p with act := act }, false) := by
  unfold State.startDecision
  rw [State.dropForeignHeads_eq m _ s (Nat.le_refl _)]
  generalize s.lessForeign m = u at h
  unfold State.standing at h
  dsimp only at h ⊢
  cases hq : (u.port m).queue with
  | nil =>
    rw [hq] at h
    rw [State.modPort_act_self u m act (Option.some.inj h)]
  | cons head rest =>
    rw [hq] at h
    dsimp only at h ⊢
    rw [State.othersReady_eq]
    cases ha : (u.port m).act with
    | shutdown => simp [ha] at h
    | rest x =>
      cases hr : (u.port m).replacing <;> cases hl : u.groupLacks head.group m <;> by_cases hg : head.group = 0 <;>
        simp [ha, hr, hl, hg] at h
      subst h
      have e : u.modPort m Port.markReady = u.modPort m fun p => { p with act := .groupWait x } :=
        modPort_congr (f := Port.markReady) (g := fun p => { p with act := .groupWait x }) (by simp [Port.markReady, ha])
      simp [hg, e]
    | groupWait x =>
      cases hr : (u.port m).replacing <;> cases hl : u.groupLacks head.group m <;> by_cases hg : head.group = 0 <;>
        simp [ha, hr, hl, hg] at h
      subst h
      have e : u.modPort m Port.markReady = u.modPort m fun p => { p with act := .groupWait x } :=
        modPort_congr (f := Port.markReady) (g := fun p => { p with act := .groupWait x })
          (by unfold Port.markReady; rw [ha]; dsimp only; rw [← ha])
      simp [hg, e]
    | running r =>
      cases hr : (u.port m).replacing
      · cases hy : r.move.yields
        · have e : act = .running r := by simpa [ha, hr, hy, eq_comm] using h
          have hs := State.modPort_act_self u m act (ha.trans e.symm)
          by_cases hg : head.group = 0 <;> simp [hg, hs, hy]
        · cases hl : u.groupLacks head.group m <;> by_cases hg : head.group = 0 <;> simp [ha, hr, hl, hg, hy] at h
          subst h
          have e : u.modPort m Port.markReady = u.modPort m fun p => { p with act := .running { r with ready := true } } :=
            modPort_congr (f := Port.markReady) (g := fun p => { p with act := .running { r with ready := true } })
              (by simp [Port.markReady, ha])
          simp [hg, hy, e]
      · simp [ha, hr] at h

/-- A start decision that starts the head alone (R9 steps 2 to 4): from a rest, or following the move that it ends. -/
theorem State.startDecision_starts (s : State) (m : Idx6) (head : Move) (rest : List Move)
    (hq : ((s.lessForeign m).port m).queue = head :: rest) :
    (∀ x, ((s.lessForeign m).port m).act = .rest x → (((s.lessForeign m).port m).replacing = true ∨ head.group = 0) →
      s.startDecision m false = ((s.lessForeign m).modPort m fun p => p.begun false, true)) ∧
    (∀ r, ((s.lessForeign m).port m).act = .running r →
      (((s.lessForeign m).port m).replacing = true ∨ (head.group = 0 ∧ r.move.yields = true)) →
      s.startDecision m false =
        ((((s.lessForeign m).modPort m fun p => p.recorded r.move
          (if ((s.lessForeign m).port m).replacing then .replaced else .done) (s.lessForeign m).uptime).raise
            (.motor m)).modPort m fun p => p.begun true, true)) := by
  have hb (t : State) (b : Bool) : t.modPort m (Port.startHead b) = t.modPort m fun p => p.begun b :=
    modPort_congr (f := Port.startHead b) (g := fun p => p.begun b) (Port.startHead_eq _ _)
  unfold State.startDecision
  rw [State.dropForeignHeads_eq m _ s (Nat.le_refl _)]
  generalize s.lessForeign m = u at hq
  refine ⟨fun x ha h => ?_, fun r ha h => ?_⟩
  · dsimp only
    rw [hq]
    cases hr : (u.port m).replacing
    · have hg : head.group = 0 := by simpa [hr] using h
      simp [hg, ha, hb]
    · simp [Port.isRunning, ha, hb]
  · dsimp only
    rw [hq]
    cases hr : (u.port m).replacing
    · have hg : head.group = 0 ∧ r.move.yields = true := by simpa [hr] using h
      simp [hg, ha, hb, State.endMove_eq u m r _ ha]
    · simp [Port.isRunning, ha, hb, State.endMove_eq u m r _ ha]

/-- A start decision that starts the head's group (R9 step 5, R21). -/
theorem State.startDecision_group (s : State) (m : Idx6) (head : Move) (rest : List Move)
    (hq : ((s.lessForeign m).port m).queue = head :: rest) (hg : head.group ≠ 0)
    (hr : ((s.lessForeign m).port m).replacing = false) (hl : (s.lessForeign m).groupLacks head.group m = false)
    (ha : (∃ x, ((s.lessForeign m).port m).act = .rest x ∨ ((s.lessForeign m).port m).act = .groupWait x) ∨
      ∃ r, ((s.lessForeign m).port m).act = .running r ∧ r.move.yields = true) :
    s.startDecision m false = ((s.lessForeign m).groupStarted m head.group false, true) := by
  unfold State.startDecision
  rw [State.dropForeignHeads_eq m _ s (Nat.le_refl _)]
  generalize s.lessForeign m = u at *
  dsimp only
  rw [hq]
  have hs := State.groupStart_eq u m head.group false (by simp)
  rcases ha with ⟨x, ha | ha⟩ | ⟨r, ha, hy⟩ <;> simp [hr, hg, ha, State.othersReady_eq, hl, hs]
  simp [hy]

end Sys2Proof.Machine
end

