-- ==== Sys2Proof/Laws/Play.lean ====
section
/-! SUPPORT. What one output sample event makes of the player, said once (R112 to R119, R124): the event's passes, and the
operations each pass uses. -/

namespace Sys2Proof.Machine

/-! ### The operations of a pass -/

theorem Sound.addOutcome_eq (e : Sound) (tag : Half) (issuer : Owner) (x : OutcomeCode) (uptime : Word) :
    e.addOutcome tag issuer x uptime = { e with
      outcomes := (if e.outcomes.length < 4 then e.outcomes else e.outcomes.tail) ++ [⟨tag, issuer, x, uptime⟩]
      dropped := if e.outcomes.length < 4 then e.dropped else min 255 (e.dropped + 1) } := by
  unfold Sound.addOutcome pushOutcome
  split <;> rfl

theorem ToneGen.sample_eq_wave (g : ToneGen) : g.sample = g.wave := by
  unfold ToneGen.sample ToneGen.wave
  cases g.waveform
  · have : g.phase.msb = decide (2147483648 ≤ g.phase.toNat) := BitVec.msb_eq_decide _
    by_cases h : g.phase.toNat < 2147483648
    · simp [this, h, Nat.not_le.mpr h]
    · simp [this, h, Nat.not_lt.mp h]
  · simp

theorem decodeCompanded_eq (b : Byte) :
    decodeCompanded b =
      (let magnitude : Nat :=
        if b.toNat / 16 % 8 = 0 then 2 * (b.toNat % 16) else (32 + 2 * (b.toNat % 16)) * 2 ^ (b.toNat / 16 % 8 - 1)
      if b.toNat < 128 then ((magnitude * 8 : Nat) : Int) else -((magnitude * 8 : Nat) : Int)) := by
  have hm : b.msb = decide (128 ≤ b.toNat) := BitVec.msb_eq_decide _
  unfold decodeCompanded
  by_cases h : b.toNat < 128
  · simp [hm, h, Nat.not_le.mpr h, BitVec.extractLsb'_toNat, Nat.shiftRight_eq_div_pow]
  · simp [hm, h, Nat.not_lt.mp h, BitVec.extractLsb'_toNat, Nat.shiftRight_eq_div_pow]

theorem StreamCtx.read_eq (c : StreamCtx) (ring : List Byte) : c.format.sample ring = c.read ring := by
  unfold StreamFormat.sample StreamCtx.read
  cases c.format
  · rfl
  · rfl
  · exact decodeCompanded_eq _

theorem StreamCtx.width_eq (c : StreamCtx) : c.format.bytes = c.width := by
  unfold StreamFormat.bytes StreamCtx.width
  cases c.format <;> rfl

theorem State.consume_eq (s : State) (n : Nat) : s.consume n = s.ringConsumed n := by
  have hl : (s.sound.ring.drop n).length = s.sound.ring.length - n := List.length_drop
  unfold State.consume State.ringConsumed
  simp only [State.modSound, hl, Bool.and_eq_true, decide_eq_true_eq, gt_iff_lt]
  rfl

theorem State.endFetch_eq (s : State) (c : StreamCtx) : s.endFetch c = s.fetchEnds c := by
  unfold State.endFetch State.fetchEnds
  simp only [State.consume_eq]
  rfl

theorem State.endClip_eq (s : State) (p : Playing) : s.endClip p = s.clipEnds p := by
  unfold State.endClip
  simp only [Sound.addOutcome_eq]
  rfl

theorem State.startClip_eq (s : State) : s.startClip = s.clipStarts := by
  unfold State.startClip State.clipStarts
  dsimp only
  cases s.sound.queue with
  | nil => rfl
  | cons c rest =>
    dsimp only
    cases hk : c.kind with
    | tone f d w => simp [ClipKind.isStream, ClipKind.start, State.modSound, ToneGen.start]
    | stream f rate n =>
      by_cases h : s.sound.ring.length ≤ s.sound.threshold <;>
        simp [h, ClipKind.isStream, ClipKind.start, StreamCtx.start, State.refill, State.soundRaised, State.raise,
          Attention.setCount, Attention.count, satAdd, State.modSound]

theorem State.starves_eq (s : State) (p : Playing) (c : StreamCtx) :
    (if c.starved then s else s.underrun).setPlaying
        { p with ctx := .stream { c with starved := true } } =
      s.clipStarves p c := by
  unfold State.clipStarves State.underrun State.setPlaying
  cases c.starved
  · by_cases h : min 65535 (s.sound.underruns + 1) = s.sound.underruns
    · simp [satAdd, h, State.raiseIf, State.modSound]
    · simp [satAdd, h, State.raiseIf, State.modSound, State.soundRaised, State.raise, Attention.setCount, Attention.count]
  · simp [State.modSound]

theorem State.takes_eq (s : State) (p : Playing) (c : StreamCtx) :
    let c1 := c.take (c.format.sample s.sound.ring)
    (s.consume c.format.bytes).setPlaying { p with ctx := .stream { c1 with hold := c1.hold - 1 } } =
      s.clipTakes p c := by
  dsimp only
  rw [State.consume_eq, StreamCtx.width_eq, StreamCtx.read_eq]
  rfl

theorem fetchKind_eq (c : StreamCtx) (e : Sound) :
    fetchKind c e = if e.endsAtFetch c then .ends else if e.ring.length < c.width then .starves else .takes := by
  unfold fetchKind Sound.endsAtFetch
  rw [StreamCtx.width_eq]
  by_cases h1 : c.samples = some c.consumed <;> by_cases h2 : e.marks.head? = some 0 <;>
    by_cases h3 : c.format = .linear16 ∧ e.marks.head? = some 1 <;> simp [h1, h2, h3]

/-! ### The passes -/

/-- How many passes an event can still take: an immediate tone over a clip ends before it, a clip ends, and each waiting clip
starts and ends. -/
def Sound.passes (e : Sound) : Nat :=
  2 * e.queue.length + (match e.player with | .idle => 0 | .playing _ => 1 | .immediate _ _ => 2)

theorem Sound.passes_lt_playFuel (e : Sound) : e.passes < playFuel e := by
  unfold Sound.passes playFuel
  cases e.player <;> simp

theorem State.ringConsumed_queue (s : State) (n : Nat) : (s.ringConsumed n).sound.queue = s.sound.queue := by
  unfold State.ringConsumed; dsimp only; split <;> rfl

theorem State.fetchEnds_queue (s : State) (c : StreamCtx) : (s.fetchEnds c).sound.queue = s.sound.queue := by
  unfold State.fetchEnds
  split
  · rfl
  · split
    · rfl
    · exact State.ringConsumed_queue s 1

/-- A clip's start takes it from the queue and makes it the playing clip. -/
theorem State.clipStarts_plays (s : State) (c : Clip) (rest : List Clip) (h : s.sound.queue = c :: rest) :
    s.clipStarts.sound.queue = rest ∧ ∃ p, s.clipStarts.sound.player = .playing p := by
  simp only [State.clipStarts, h]
  cases c.kind with
  | tone f d w => exact ⟨rfl, _, rfl⟩
  | stream f rate n => dsimp only; split <;> exact ⟨rfl, _, rfl⟩

/-- One output sample event with fuel for its passes plays what R112 to R119 and R124 say. -/
theorem playerSample_plays (fuel : Nat) (s : State) (h : s.sound.passes < fuel) :
    Plays s (playerSample fuel s).1 (playerSample fuel s).2 := by
  induction fuel generalizing s with
  | zero => omega
  | succ fuel ih =>
    rw [playerSample.eq_def]
    dsimp only
    cases hp : s.sound.player with
    | idle =>
      dsimp only
      cases hq : s.sound.queue with
      | nil => exact .silent hp hq
      | cons c rest =>
        simp only [List.isEmpty_cons, Bool.false_eq_true, if_false, State.startClip_eq]
        obtain ⟨h1, p, h2⟩ := s.clipStarts_plays c rest hq
        refine .starts hp (by simp [hq]) (ih _ ?_)
        simp only [Sound.passes, hp, hq, h1, h2, List.length_cons] at h ⊢
        omega
    | immediate g w =>
      dsimp only
      by_cases hr : g.remaining = 0
      · rw [if_pos hr]
        have hlt : (s.withPlayer (Player.afterTone w)).sound.passes < fuel := by
          simp only [Sound.passes, hp] at h
          cases w <;> simp only [Sound.passes, State.withPlayer, Player.afterTone] <;> omega
        refine .resumes hp hr ?_
        cases w <;> exact ih _ hlt
      · rw [if_neg hr]
        dsimp only
        rw [ToneGen.sample_eq_wave]
        exact .sounds hp hr
    | playing p =>
      have hend (t : State) (ht : t.sound.queue = s.sound.queue) : (t.clipEnds p).sound.passes < fuel := by
        have h1 : (t.clipEnds p).sound.passes = 2 * s.sound.queue.length := by
          unfold Sound.passes; simp [State.clipEnds, State.soundRaised, ht]
        have h2 : s.sound.passes = 2 * s.sound.queue.length + 1 := by unfold Sound.passes; rw [hp]
        omega
      dsimp only
      cases hc : p.ctx with
      | tone g =>
        dsimp only
        by_cases hr : g.remaining = 0
        · rw [if_pos hr, State.endClip_eq]
          exact .toneEnds hp hc hr (ih _ (hend s rfl))
        · rw [if_neg hr]
          dsimp only
          rw [ToneGen.sample_eq_wave]
          exact .tone hp hc hr
      | stream c =>
        dsimp only
        by_cases hh : c.hold = 0
        · rw [if_pos hh, fetchKind_eq]
          cases he : s.sound.endsAtFetch c
          · by_cases hl : s.sound.ring.length < c.width
            · simp only [Bool.false_eq_true, if_false, if_pos hl, State.starves_eq]
              exact .starves hp hc hh he hl
            · simp only [Bool.false_eq_true, if_false, if_neg hl, State.takes_eq]
              have : (c.take (c.format.sample s.sound.ring)).current = c.read s.sound.ring := by
                rw [StreamCtx.read_eq]; rfl
              rw [this]
              exact .takes hp hc hh he (Nat.not_lt.mp hl)
          · simp only [if_true, State.endFetch_eq, State.endClip_eq]
            exact .streamEnds hp hc hh he (ih _ (hend _ (s.fetchEnds_queue c)))
        · rw [if_neg hh]
          exact .holds hp hc hh

end Sys2Proof.Machine
end

