-- ==== Sys2Proof/Laws/SmartLine.lean ====
section
/-! SUPPORT. A character on a running smart line whose receive FIFO is empty: what the parser takes at once, and where that leaves the
controller (R78 to R80). -/

namespace Sys2Proof.Machine

/-! ### A controller changed -/

@[simp] theorem State.modSmart_smartAt (s : State) (i : Idx6) (f : Smart → Smart) : (s.modSmart i f).smartAt i = f (s.smartAt i) := by
  simp [State.smartAt, State.modSmart]

@[simp] theorem State.modSmart_clock (s : State) (i : Idx6) (f : Smart → Smart) : (s.modSmart i f).clock = s.clock := rfl

/-- Two changes of one controller are one. -/
theorem State.modSmart_modSmart (s : State) (i : Idx6) (f g : Smart → Smart) :
    (s.modSmart i f).modSmart i g = s.modSmart i fun c => g (f c) := by
  simp [State.modSmart, State.modSensor]

/-- A controller's change depends on what it makes of that controller alone. -/
theorem State.modSmart_congr {s : State} {i : Idx6} {f g : Smart → Smart} (h : f (s.smartAt i) = g (s.smartAt i)) :
    s.modSmart i f = s.modSmart i g := by
  unfold State.smartAt State.sensorAt at h
  simp [State.modSmart, State.modSensor, h]

/-- The port's record with another controller. -/
theorem State.modSmart_eq (s : State) (i : Idx6) (f : Smart → Smart) :
    s.modSmart i f = { s with sensor := s.sensor.set i { s.sensorAt i with smart := f (s.sensorAt i).smart } } := rfl

/-! ### One character (R78, R79) -/

/-- On a running line with an empty receive FIFO a character is parsed as it arrives, and the pause timer runs from it while a
record is under assembly. -/
theorem smartChar_parses {s : State} {i : Idx6} (hr : (s.smartAt i).running = true) (hf : (s.smartAt i).rxFifo = [])
    (char : Byte) (framing : Bool) :
    s.smartChar i char framing =
      (((s.modSmart i fun c => { c with lostMark := false }).parseEntry i ⟨char, framing, (s.smartAt i).lostMark⟩).modSmart i
        fun c => { c with pauseTimer := if c.parser.isSome then some s.clock else none }) := by
  unfold State.smartChar State.parseAll
  rw [if_pos hr, State.modSmart_smartAt, State.modSmart_modSmart]
  have entered : (s.smartAt i).enterChar char framing =
      { s.smartAt i with rxFifo := [⟨char, framing, (s.smartAt i).lostMark⟩], lostMark := false } := by
    simp [Smart.enterChar, hf]
  rw [entered]
  have emptied : (s.modSmart i fun c => { c.enterChar char framing with rxFifo := [] }) =
      s.modSmart i fun c => { c with lostMark := false } := by
    refine State.modSmart_congr ?_
    rw [entered, ← hf]
  rw [emptied]
  rfl

/-- The controller between records: no record under assembly, no character lost. -/
def Smart.waiting (c : Smart) : Smart := { c with parser := none, pauseTimer := none, lostMark := false }

@[simp] theorem Smart.discard_parser (c : Smart) : c.discard.parser = none := by
  unfold Smart.discard Smart.failHandshake; dsimp only; split <;> rfl

/-- The characters of the record under assembly, with the one that arrives. -/
def State.assembled (s : State) (i : Idx6) (char : Byte) : List Byte := (s.smartAt i).parser.getD [] ++ [char]

theorem Smart.discard_waiting (c : Smart) : { c.discard with pauseTimer := none, lostMark := false } = c.waiting.discard := by
  unfold Smart.discard Smart.failHandshake Smart.waiting
  by_cases h : c.lineState = .announcing <;> simp [h]

/-- A character with a framing error, or the first after a loss, is a discard (R80). -/
theorem smartChar_flagged {s : State} {i : Idx6} (hr : (s.smartAt i).running = true) (hf : (s.smartAt i).rxFifo = [])
    {char : Byte} {framing : Bool} (h : framing = true ∨ (s.smartAt i).lostMark = true) :
    s.smartChar i char framing = s.modSmart i fun c => c.waiting.discard := by
  rw [smartChar_parses hr hf]
  unfold State.parseEntry
  have : (framing || (s.smartAt i).lostMark) = true := by simpa using h
  rw [if_pos this, State.modSmart_modSmart, State.modSmart_modSmart]
  refine State.modSmart_congr ?_
  rw [← Smart.discard_waiting]
  unfold Smart.discard Smart.failHandshake
  by_cases h : (s.smartAt i).lineState = .announcing <;> simp [h]

/-- A character that does not complete its record is held (R79). -/
theorem smartChar_held {s : State} {i : Idx6} (hr : (s.smartAt i).running = true) (hf : (s.smartAt i).rxFifo = [])
    {char : Byte} (hl : (s.smartAt i).lostMark = false)
    (h : (s.assembled i char).length < bodyLength (rd8 (s.assembled i char) 0) + 2) :
    s.smartChar i char false =
      s.modSmart i fun c => { c with parser := some (s.assembled i char), pauseTimer := some s.clock } := by
  rw [smartChar_parses hr hf]
  unfold State.assembled at h ⊢
  unfold State.parseEntry
  simp only [hl, Bool.or_self, Bool.false_eq_true, if_false, State.modSmart_smartAt]
  rw [if_pos h, State.modSmart_modSmart, State.modSmart_modSmart]
  refine State.modSmart_congr ?_
  simp [← hl]

/-- A character that completes its record: one with a bad check is a discard (R80), the others are judged by class and line
state (R81). -/
theorem smartChar_completes {s : State} {i : Idx6} (hr : (s.smartAt i).running = true) (hf : (s.smartAt i).rxFifo = [])
    {char : Byte} (hl : (s.smartAt i).lostMark = false)
    (h : bodyLength (rd8 (s.assembled i char) 0) + 2 ≤ (s.assembled i char).length) :
    s.smartChar i char false =
      if xorAll (s.assembled i char) = 0xFF then
        ((s.modSmart i fun c => { c with parser := none, lostMark := false }).smartRecordReceived i (rd8 (s.assembled i char) 0)
          ((s.assembled i char).drop 1).dropLast).modSmart i
            fun c => { c with pauseTimer := if c.parser.isSome then some s.clock else none }
      else s.modSmart i fun c => c.waiting.discard := by
  rw [smartChar_parses hr hf]
  unfold State.assembled at h ⊢
  unfold State.parseEntry
  simp only [hl, Bool.or_self, Bool.false_eq_true, if_false, State.modSmart_smartAt]
  rw [if_neg (Nat.not_lt.mpr h), State.modSmart_modSmart]
  by_cases hx : xorAll ((s.smartAt i).parser.getD [] ++ [char]) = 0xFF
  · rw [if_pos hx, if_pos hx]
  · rw [if_neg hx, if_neg hx, State.modSmart_modSmart, State.modSmart_modSmart]
    refine State.modSmart_congr ?_
    unfold Smart.discard Smart.failHandshake Smart.waiting
    by_cases h : (s.smartAt i).lineState = .announcing <;> simp [h]

/-! ### Checked records (R81 to R90) -/

/-- The class of a header, as a quotient (R79). -/
theorem classOf_eq (h : Byte) : classOf h = h.toNat / 32 := by
  have := h.isLt
  unfold classOf
  simp only [BitVec.extractLsb'_toNat, Nat.shiftRight_eq_div_pow]
  omega

/-- The body length of a header, as a remainder (R79). -/
theorem bodyLength_eq (h : Byte) : bodyLength h = h.toNat % 32 := by
  unfold bodyLength
  simp only [BitVec.extractLsb'_toNat, Nat.shiftRight_zero]

/-- What a checked record of a class other than DATA makes of the controller, by the line state (R81, R84 to R88). -/
def Smart.record (c : Smart) (cls : Nat) (body : List Byte) (clock : Nat) : Smart :=
  match cls, c.lineState with
  | 1, .listen | 1, .announcing => c.announce body clock
  | 2, .announcing => c.modeInfo body
  | 3, .announcing => c.announceEnd body
  | 1, _ | 2, _ | 3, _ => c
  | _, _ => c.discard

theorem State.modSmart_self (s : State) (i : Idx6) : (s.modSmart i fun c => c) = s := by
  have := Six.set_get_self s.sensor i
  show { s with sensor := s.sensor.set i (s.sensor.get i) } = s
  rw [this]

theorem smartRecordReceived_control {s : State} {i : Idx6} {header : Byte} {body : List Byte} (h : classOf header ≠ 4) :
    s.smartRecordReceived i header body = s.modSmart i fun c => c.record (classOf header) body s.clock := by
  have keep {f : Smart → Smart} (hf : f (s.smartAt i) = s.smartAt i) : s = s.modSmart i f :=
    (State.modSmart_self s i).symm.trans (State.modSmart_congr hf.symm)
  unfold State.smartRecordReceived
  split <;> rename_i e
  · cases hl : (s.smartAt i).lineState <;>
      first | exact State.modSmart_congr (by simp [Smart.record, hl, e]) | exact keep (by simp [Smart.record, hl, e])
  · cases hl : (s.smartAt i).lineState <;>
      first | exact State.modSmart_congr (by simp [Smart.record, hl, e]) | exact keep (by simp [Smart.record, hl, e])
  · cases hl : (s.smartAt i).lineState <;>
      first | exact State.modSmart_congr (by simp [Smart.record, hl, e]) | exact keep (by simp [Smart.record, hl, e])
  · exact absurd e h
  · exact State.modSmart_congr (by unfold Smart.record; split <;> first | contradiction | rfl)

theorem Smart.beginTx_pause (c : Smart) (t : Timer) : { c with pauseTimer := t }.beginTx = { c.beginTx with pauseTimer := t } := by
  unfold Smart.beginTx
  by_cases h : (!c.running || c.tx.isSome) = true
  · rw [if_pos h, if_pos h]
  · rw [if_neg h, if_neg h]
    dsimp only
    split <;> rfl

theorem Smart.beginTx_parser (c : Smart) : c.beginTx.parser = c.parser := by
  unfold Smart.beginTx
  split
  · rfl
  · split <;> rfl

/-- A change of the controller that neither reads nor sets the pause timer, and leaves no record under assembly where none was. -/
def Smart.Unpaused (f : Smart → Smart) : Prop :=
  ∀ (c : Smart) (t : Timer), f { c with pauseTimer := t } = { f c with pauseTimer := t } ∧ (c.parser = none → (f c).parser = none)

theorem Smart.discard_unpaused : Smart.Unpaused Smart.discard := by
  intro c t
  refine ⟨?_, fun _ => c.discard_parser⟩
  unfold Smart.discard Smart.failHandshake
  by_cases h : c.lineState = .announcing <;> simp [h]

theorem Smart.announce_unpaused (body : List Byte) (clock : Nat) : Smart.Unpaused (·.announce body clock) := by
  intro c t
  simp only [Smart.announce, apply_ite Smart.parser, Smart.discard_parser, Smart.discard_unpaused c t]
  split <;> simp

theorem Smart.modeInfo_unpaused (body : List Byte) : Smart.Unpaused (·.modeInfo body) := by
  intro c t
  unfold Smart.modeInfo
  dsimp only
  split
  · split
    · split <;> exact ⟨rfl, id⟩
    · exact Smart.discard_unpaused c t
  · exact Smart.discard_unpaused c t

theorem Smart.announceEnd_unpaused (body : List Byte) : Smart.Unpaused (·.announceEnd body) := by
  intro c t
  unfold Smart.announceEnd
  dsimp only
  split
  · exact Smart.discard_unpaused c t
  · split
    · split
      · exact ⟨Smart.beginTx_pause { c with announceTimer := none, lineState := .accepting,
                                            slot := some (smartRecord 5 (u8 c.agreedCode)) } t,
          fun h => (Smart.beginTx_parser _).trans h⟩
      · exact ⟨rfl, id⟩
    · exact ⟨rfl, id⟩

/-- A checked record has nothing to do with the pause timer. -/
theorem Smart.record_unpaused (cls : Nat) (body : List Byte) (clock : Nat) : Smart.Unpaused (·.record cls body clock) := by
  intro c t
  unfold Smart.record
  dsimp only
  split
  · exact Smart.announce_unpaused body clock c t
  · exact Smart.announce_unpaused body clock c t
  · exact Smart.modeInfo_unpaused body c t
  · exact Smart.announceEnd_unpaused body c t
  · exact ⟨rfl, id⟩
  · exact ⟨rfl, id⟩
  · exact ⟨rfl, id⟩
  · exact Smart.discard_unpaused c t

/-- A character that completes a checked record of a class other than DATA (R81, R84 to R88). -/
theorem smartChar_record {s : State} {i : Idx6} (hr : (s.smartAt i).running = true) (hf : (s.smartAt i).rxFifo = [])
    {char : Byte} (hl : (s.smartAt i).lostMark = false)
    (h : bodyLength (rd8 (s.assembled i char) 0) + 2 ≤ (s.assembled i char).length)
    (hx : xorAll (s.assembled i char) = 0xFF) (hc : classOf (rd8 (s.assembled i char) 0) ≠ 4) :
    s.smartChar i char false = s.modSmart i fun c =>
      c.waiting.record (classOf (rd8 (s.assembled i char) 0)) ((s.assembled i char).drop 1).dropLast s.clock := by
  rw [smartChar_completes hr hf hl h, if_pos hx, smartRecordReceived_control hc, State.modSmart_modSmart, State.modSmart_modSmart]
  have key (cls : Nat) (body : List Byte) (c : Smart) (hp : c.parser = none) :
      { c.record cls body s.clock with pauseTimer := if (c.record cls body s.clock).parser.isSome then some s.clock else none } =
        { c with pauseTimer := none }.record cls body s.clock := by
    obtain ⟨h1, h2⟩ := Smart.record_unpaused cls body s.clock c none
    exact (by rw [h2 hp]; rfl : _ = { c.record cls body s.clock with pauseTimer := none }).trans h1.symm
  exact State.modSmart_congr (key _ _ _ rfl)

theorem smartRecordReceived_data {s : State} {i : Idx6} {header : Byte} {body : List Byte} (h : classOf header = 4) :
    s.smartRecordReceived i header body =
      match (s.smartAt i).lineState with
      | .starting | .streaming | .switching => s.smartData i body
      | _ => s := by
  unfold State.smartRecordReceived; rw [h]; rfl

/-- A DATA record that fails against the profile is a discard, one in another mode is ignored (R89, R90). -/
theorem smartData_dropped {s : State} {i : Idx6} {body : List Byte}
    (hn : ∀ m, (s.smartAt i).dataMode body = some m → (s.smartAt i).selected ≠ some m.index) :
    s.smartData i body = s.modSmart i fun c => match c.dataMode body with | none => c.discard | some _ => c := by
  unfold State.smartData
  dsimp only
  split
  · rename_i hd; exact State.modSmart_congr (by rw [hd])
  · rename_i m hd
    rw [if_neg (hn m hd)]
    exact (State.modSmart_self s i).symm.trans (State.modSmart_congr (by rw [hd]))

/-- A character that completes a checked DATA record which the line state ignores, which is in another mode, or which fails against
the profile (R81, R89, R90, R95). -/
theorem smartChar_data {s : State} {i : Idx6} (hr : (s.smartAt i).running = true) (hf : (s.smartAt i).rxFifo = [])
    {char : Byte} (hl : (s.smartAt i).lostMark = false)
    (h : bodyLength (rd8 (s.assembled i char) 0) + 2 ≤ (s.assembled i char).length)
    (hx : xorAll (s.assembled i char) = 0xFF) (hc : classOf (rd8 (s.assembled i char) 0) = 4)
    (hn : ∀ m, (s.smartAt i).dataMode ((s.assembled i char).drop 1).dropLast = some m → (s.smartAt i).selected = some m.index →
      (s.smartAt i).lineState = .listen ∨ (s.smartAt i).lineState = .announcing ∨ (s.smartAt i).lineState = .accepting) :
    s.smartChar i char false = s.modSmart i fun c =>
      match c.lineState, c.dataMode ((s.assembled i char).drop 1).dropLast with
      | .starting, none | .streaming, none | .switching, none => c.waiting.discard
      | _, _ => c.waiting := by
  rw [smartChar_completes hr hf hl h, if_pos hx, smartRecordReceived_data hc, State.modSmart_smartAt]
  have key (c : Smart) (body : List Byte) :
      (let d : Smart := match Smart.dataMode { c with parser := none, lostMark := false } body with
        | none => Smart.discard { c with parser := none, lostMark := false }
        | some _ => { c with parser := none, lostMark := false }
      ({ d with pauseTimer := if d.parser.isSome then some s.clock else none } : Smart)) =
        match c.dataMode body with | none => c.waiting.discard | some _ => c.waiting := by
    have hd : Smart.dataMode { c with parser := none, lostMark := false } body = c.dataMode body := rfl
    rw [hd]
    cases c.dataMode body with
    | none =>
      unfold Smart.discard Smart.failHandshake Smart.waiting
      by_cases h : c.lineState = .announcing <;> simp [h]
    | some m => rfl
  cases hs : (s.smartAt i).lineState <;> dsimp only
  case starting | streaming | switching =>
    rw [smartData_dropped (by rw [State.modSmart_smartAt]; intro m hm he; simpa [hs] using hn m hm he), State.modSmart_modSmart,
      State.modSmart_modSmart]
    exact State.modSmart_congr ((key _ _).trans (by rw [hs]; cases (s.smartAt i).dataMode _ <;> rfl))
  all_goals
    rw [State.modSmart_modSmart]
    exact State.modSmart_congr (by show (s.smartAt i).waiting = _; rw [hs])

end Sys2Proof.Machine
end

