-- ==== Sys2Proof/Laws/Supply.lean ====
section
/-! SUPPORT. What the supply monitor's operations do, said once: the ceilings recomputed, a change of supply state, a filter update,
and a recovery hold that expires between a POWER_SETUP and the next filter update (R46 to R51). -/

namespace Sys2Proof.Machine

/-! ### The ceilings (R51) -/

theorem recomputeCeiling_foldl (product : Nat) (l : List Idx6) (s : State) (h : s.supply.product = product) :
    l.foldl State.recomputeCeiling s = l.foldl (fun t m => t.modPort m fun p => p.storeCeiling (min p.config.dutyLimit product)) s := by
  induction l generalizing s with
  | nil => rfl
  | cons m l ih =>
    simp only [List.foldl_cons, State.recomputeCeiling, h]
    exact ih _ h

/-- P and every ceiling recomputed, in full. -/
theorem recomputeCeilings_eq (s : State) : s.recomputeCeilings = { s with
      motor := s.motor.map fun p => p.storeCeiling (min p.config.dutyLimit s.supply.product)
      sound := s.sound.storeCeiling s.supply.product } := by
  unfold State.recomputeCeilings
  rw [recomputeCeiling_foldl _ Idx6.all s rfl]
  generalize s.supply.product = product
  rfl

@[simp] theorem recomputeCeilings_supply (s : State) : s.recomputeCeilings.supply = s.supply := by rw [recomputeCeilings_eq]

/-! ### What stops, and what is raised, leaves the supply alone -/

/-- A fold whose every step leaves the supply alone leaves it alone. -/
theorem foldl_supply {α : Type} (f : State → α → State) (h : ∀ t a, (f t a).supply = t.supply) (l : List α) (s : State) :
    (l.foldl f s).supply = s.supply := by
  induction l generalizing s with
  | nil => rfl
  | cons a l ih => rw [List.foldl_cons, ih, h]

theorem breakHead_supply (s : State) (m : Idx6) : (s.breakHead m).supply = s.supply := by
  unfold State.breakHead; split <;> simp

@[simp] theorem clearPorts_supply (s : State) (who : Six Bool) (x : Option OutcomeCode) (f : Port → Port) :
    (s.clearPorts who x f).supply = s.supply := by
  unfold State.clearPorts State.breakGroups
  rw [foldl_supply, foldl_supply]
  · intro t m; split
    · simp [State.clearPort]
    · rfl
  · intro t m; dsimp only; split
    · exact breakHead_supply t m
    · rfl

@[simp] theorem soundStop_supply (s : State) (x : OutcomeCode) : (s.soundStop x).supply = s.supply := by
  simp [State.soundStop]

@[simp] theorem criticalEntry_supply (s : State) : s.criticalEntry.supply = s.supply := by simp [State.criticalEntry]

@[simp] theorem raisePower_supply (s : State) (c : PowerCause) :
    (s.raisePower c).supply = { s.supply with causes := s.supply.causes.set c } := rfl

/-! ### A change of supply state (R47, R49, R56) -/

/-- What a change of supply state makes of the supply monitor: the state, S, and causes. -/
theorem changeSupply_supply (s : State) (mode : SupplyMode) :
    ∃ causes, (s.changeSupply mode).supply = { s.supply with mode := mode, scale := s.supply.scaleFor mode, causes := causes } := by
  unfold State.changeSupply State.leaveShutdown
  dsimp only
  split <;> split <;> exact ⟨_, by simp; rfl⟩

/-! ### Filter updates and the recovery hold (R45 to R49) -/

/-- What a filter update makes of the supply monitor (R45 to R49): the state by R47's table and the hold by R48, both from the
thresholds that stand (R46), and S where the state changes or is LOW. -/
theorem batterySample_supply (s : State) (v : Nat) :
    let u := s.supply.filterUpdate v
    let mode := u.nextMode
    ∃ causes, (s.batterySample v).supply = { u with
      hold := u.nextHold mode s.clock, mode := mode, causes := causes
      scale := if mode = s.supply.mode ∧ mode ≠ .low then s.supply.scale else u.scaleFor mode } := by
  intro u mode
  unfold State.batterySample
  dsimp only
  have hm : (s.modSupply (·.filterUpdate v)).supply.nextMode = mode := rfl
  rw [hm]
  by_cases h : mode = s.supply.mode
  · rw [if_neg (not_not.mpr h)]
    by_cases hl : mode = .low
    · have hs : (if mode = s.supply.mode ∧ mode ≠ .low then s.supply.scale else u.scaleFor mode) = u.scaleFor .low := by
        rw [if_neg (fun x => x.2 hl), hl]
      rw [if_pos hl, hs]
      refine ⟨s.supply.causes, ?_⟩
      split
      · rw [recomputeCeilings_supply, h]; rfl
      · rw [h]; rfl
    · rw [if_neg hl, if_pos ⟨h, hl⟩]
      exact ⟨s.supply.causes, by rw [h]; rfl⟩
  · rw [if_pos h, if_neg (fun x => h x.1)]
    obtain ⟨causes, hc⟩ := changeSupply_supply ((s.modSupply (·.filterUpdate v)).modSupply fun u =>
      { u with hold := u.nextHold mode s.clock }) mode
    exact ⟨causes, hc⟩

/-- The voltage thresholds and the limit that POWER_SETUP sets (R46), none of them in use yet. -/
def State.setThresholds (s : State) (low critical restore limit : Nat) : State :=
  s.modSupply fun u => { u with vLow := low, vCritical := critical, vRestore := restore, limit := limit }

/-- A change of supply state out of RECOVERY takes no threshold that is not in use (R46). -/
theorem changeSupply_setThresholds (s : State) (mode : SupplyMode) (hm : mode ≠ .critical) (low critical restore limit : Nat) :
    (s.setThresholds low critical restore limit).changeSupply mode =
      (s.changeSupply mode).setThresholds low critical restore limit := by
  unfold State.changeSupply
  dsimp only
  rw [if_neg hm, if_neg hm, recomputeCeilings_eq, recomputeCeilings_eq]
  have hs : (s.setThresholds low critical restore limit).supply.mode = s.supply.mode := rfl
  rw [hs]
  split <;> rfl

/-- The recovery hold's expiry takes no threshold that is not in use (R46, R48). -/
theorem holdExpires_setThresholds (s : State) (low critical restore limit : Nat) :
    (s.setThresholds low critical restore limit).holdExpires = s.holdExpires.setThresholds low critical restore limit := by
  unfold State.holdExpires
  have h : ((s.setThresholds low critical restore limit).supply.hold.isSome &&
      (s.setThresholds low critical restore limit).supply.mode = .recovery) =
      (s.supply.hold.isSome && s.supply.mode = .recovery) := rfl
  rw [h]
  split
  · exact changeSupply_setThresholds (s.modSupply fun u => { u with hold := none })
      (if s.supply.lowInUse ≤ s.supply.vf then .normal else .low) (by split <;> decide) low critical restore limit
  · rfl

end Sys2Proof.Machine
end

