-- ==== Sys2Proof/Laws/Take.lean ====
section
/-! SUPPORT. A well-formed request read back, taken and answered: the lemmas that the statement of every request starts
from. -/

namespace Sys2Proof.Machine

/-- A two-byte field read back from its two bytes (R168). -/
theorem le16_joined (v : Half) : (v.extractLsb' 8 8 ++ v.extractLsb' 0 8 : Half) = v := by
  apply BitVec.eq_of_toNat_eq
  have h := @BitVec.toNat_append 8 8 (v.extractLsb' 8 8) (v.extractLsb' 0 8)
  refine h.trans ?_
  rw [← Nat.shiftLeft_add_eq_or_of_lt (BitVec.isLt _)]
  simp [BitVec.extractLsb'_toNat, Nat.shiftRight_eq_div_pow, Nat.shiftLeft_eq]
  have := v.isLt
  omega

/-- A four-byte field read back from its halves (R168). -/
theorem le32_halves (v : Word) : (v.extractLsb' 16 16 ++ v.extractLsb' 0 16 : Word) = v := by
  apply BitVec.eq_of_toNat_eq
  have h := @BitVec.toNat_append 16 16 (v.extractLsb' 16 16) (v.extractLsb' 0 16)
  refine h.trans ?_
  rw [← Nat.shiftLeft_add_eq_or_of_lt (BitVec.isLt _)]
  simp [BitVec.extractLsb'_toNat, Nat.shiftRight_eq_div_pow, Nat.shiftLeft_eq]
  have := v.isLt
  omega

/-- A four-byte field read back from its four bytes as `rd32` joins them (R168). -/
theorem le32_joined (v : Word) :
    (v.extractLsb' 16 16 ++ (v.extractLsb' 8 8 ++ v.extractLsb' 0 8 : Half) : Word) = v := by
  have := le16_joined (v.extractLsb' 0 16)
  have a : (v.extractLsb' 0 16).extractLsb' 8 8 = v.extractLsb' 8 8 := by
    apply BitVec.eq_of_toNat_eq; simp [BitVec.extractLsb'_toNat, Nat.shiftRight_eq_div_pow]; try omega
  have b : (v.extractLsb' 0 16).extractLsb' 0 8 = v.extractLsb' 0 8 := by
    apply BitVec.eq_of_toNat_eq; simp [BitVec.extractLsb'_toNat]
  rw [a, b] at this
  exact (congrArg (fun x => (v.extractLsb' 16 16 ++ x : Word)) this).trans (le32_halves v)

/-- The request decoder reads back the body that R169 lays out for a well-formed request. -/
theorem decode_body (tag : Byte) (r : Request) (h : r.wf = true) : decodeRequest (Request.body tag r) = .request r := by
  cases r <;> simp [Request.wf] at h <;>
    simp [decodeRequest, Request.body, Request.kind, Request.params, rd8, lengthAllowed, rdRequest, le16, le32, rd16, rd32,
      wrPortConfig, rdPortConfig, wrMove, rdMove, wrClip, rdClip, wrSensorSetup, rdSensorSetup, rdLinkSetup, le16_joined, h]
  case move => rename_i r; cases r; congr 1 <;> exact le32_joined _
  case moveNow => rename_i r; cases r; congr 1 <;> exact le32_joined _
  case preset => exact le32_joined _
  case sensorSetup => rename_i r; cases r; congr 1 <;> exact le32_joined _
  case smartWrite =>
    rw [show ((BitVec.toNat _ + 1 + 1 + 1 + 1 == 4 + BitVec.toNat _) : Bool) = true from by simp; omega]
  case soundData =>
    rw [show ((BitVec.toNat _ + 1 + 1 + 1 + 1 == 4 + BitVec.toNat _) : Bool) = true from by simp; omega]
  case clip => rename_i r; cases r; congr 1; exact le32_joined _
  case tabletSend =>
    rw [show (decide (_ + 1 < 240)) = true from by simp; omega]
  case relayUp =>
    rw [show (decide (_ + 1 < 240)) = true from by simp; omega]

/-- A reply to a request's body is the reply to the request (R134). -/
theorem replied_of_body (s : State) (l : LineId) (tag : Byte) (r : Request) (x : Status) (d : List Byte) :
    s.addReply l (replyBody (Request.body tag r) x d) = s.replied l tag r x d := by
  unfold State.replied replyBody
  have : replyKind (rd8 (Request.body tag r) 0) = r.kind + 0x80 := by
    cases r <;> simp [Request.body, rd8, Request.kind, replyKind] <;> rfl
  rw [this]; rfl

/-- A well-formed request that arrives where it can be taken: the decoder's third check, then its rule's act with an OK reply, or
its refusal with nothing else changed, and then what happens at once (R133 to R135). -/
theorem requestCommand_taken {s : State} {l : LineId} (h : s.ready l = true) (tag : Byte) (r : Request) (hw : r.wf = true) :
    s.requestCommand l (Request.body tag r) =
      (if (s.arrived l).lineAllows l r then
        match takeByRule r l (s.arrived l) with
        | .ok (t, d) => t.replied l tag r .ok d
        | .error e => (s.arrived l).replied l tag r e.status e.data
      else (s.arrived l).replied l tag r .notPermitted []).settle := by
  rw [requestCommand_ready h]
  congr 1
  unfold State.takeBody State.answer
  rw [decode_body tag r hw]
  dsimp only
  cases ha : (s.arrived l).lineAllows l r
  · simp [ replied_of_body]
  · simp only [need_true, Check.bind_of_ok, if_true]
    cases hc : takeByRule r l (s.arrived l) with
    | ok x => simp [replied_of_body]
    | error e => simp [replied_of_body]

/-- What a valid tablet frame does to the link, in full (R145, R153, R155). -/
theorem linkFrame_eq (s : State) : s.linkFrame = { s with
      link := { s.link with
        state := .up, strikes := 0, quietTimer := if 1 ≤ s.link.quietSteps then some s.clock else none }
      attn := if s.link.state = .up then s.attn else { s.attn with tablet := min 255 (s.attn.tablet + 1) } } := by
  unfold State.linkFrame State.setLinkState Link.startQuiet State.raiseIf State.raise
  by_cases hu : s.link.state = .up
  · simp [hu, State.modLink]
  · have : (s.link.state != .up) = true := by simpa using hu
    simp [hu, this, State.modLink, Attention.setCount, Attention.count, satAdd]

/-- What the arrival of a frame does on the host line, in full (R140). -/
theorem arrived_host (s : State) : s.arrived .host = { s with hostUnit := { s.hostUnit with
      watch := match s.hostUnit.watch with | .off => .off | .armed _ => .armed s.clock | .expired => .armed s.clock } } := by
  unfold State.arrived State.watchFrame
  cases h : s.hostUnit.watch <;> simp [h, State.modHostUnit, Watch.frame]

/-- Evaluating K40_READY changes K40_READY alone (R147). -/
theorem evalReady_form (x : State) : ∃ b, x.evalReady = { x with link := { x.link with k40Ready := b } } := by
  unfold State.evalReady
  split
  · exact ⟨false, rfl⟩
  · split
    · exact ⟨true, rfl⟩
    · exact ⟨x.link.k40Ready, rfl⟩

/-- What the arrival of a frame does on the tablet line, in full (R145, R147). -/
theorem arrived_tablet (s : State) : ∃ b, s.arrived .tablet = { s with
      link := { s.link with
        state := .up, strikes := 0, quietTimer := if 1 ≤ s.link.quietSteps then some s.clock else none, k40Ready := b }
      attn := if s.link.state = .up then s.attn else { s.attn with tablet := min 255 (s.attn.tablet + 1) } } := by
  unfold State.arrived
  obtain ⟨b, hb⟩ := evalReady_form s.linkFrame
  rw [hb, linkFrame_eq]
  exact ⟨b, rfl⟩

/-- What an arrival leaves alone. -/
theorem arrived_parts (s : State) (l : LineId) :
    (s.arrived l).motor = s.motor ∧ (s.arrived l).groups = s.groups ∧ (s.arrived l).sensor = s.sensor ∧
    (s.arrived l).sound = s.sound ∧ (s.arrived l).supply = s.supply ∧ (s.arrived l).conv = s.conv ∧
    (s.arrived l).clock = s.clock ∧ (s.arrived l).host = s.host ∧ (s.arrived l).tablet = s.tablet ∧
    (s.arrived l).softReset = s.softReset ∧ (s.arrived l).freeIdx = s.freeIdx ∧
    (s.arrived l).link.readMask = s.link.readMask ∧ (s.arrived l).link.queryAllowed = s.link.queryAllowed ∧
    (s.arrived l).link.setupAllowed = s.link.setupAllowed ∧ (s.arrived l).link.relay = s.link.relay ∧
    (s.arrived l).link.transmit = s.link.transmit ∧ (s.arrived l).link.rate = s.link.rate ∧
    (∀ x, x ≠ .tablet → (s.arrived l).attn.count x = s.attn.count x) ∧ (s.arrived l).attn.mask = s.attn.mask := by
  cases l
  · rw [arrived_host]; exact ⟨rfl, rfl, rfl, rfl, rfl, rfl, rfl, rfl, rfl, rfl, rfl, rfl, rfl, rfl, rfl, rfl, rfl, fun _ _ => rfl, rfl⟩
  · obtain ⟨b, h⟩ := arrived_tablet s
    rw [h]
    refine ⟨rfl, rfl, rfl, rfl, rfl, rfl, rfl, rfl, rfl, rfl, rfl, rfl, rfl, rfl, rfl, rfl, rfl, ?_, ?_⟩
    · intro x hx; dsimp only; split
      · rfl
      · cases x <;> first | rfl | exact absurd rfl hx
    · dsimp only; split <;> rfl

section
variable (s : State) (l : LineId)
@[simp] theorem arrived_motor : (s.arrived l).motor = s.motor := (arrived_parts s l).1
@[simp] theorem arrived_groups : (s.arrived l).groups = s.groups := (arrived_parts s l).2.1
@[simp] theorem arrived_sensor : (s.arrived l).sensor = s.sensor := (arrived_parts s l).2.2.1
@[simp] theorem arrived_sound : (s.arrived l).sound = s.sound := (arrived_parts s l).2.2.2.1
@[simp] theorem arrived_supply : (s.arrived l).supply = s.supply := (arrived_parts s l).2.2.2.2.1
@[simp] theorem arrived_conv : (s.arrived l).conv = s.conv := (arrived_parts s l).2.2.2.2.2.1
@[simp] theorem arrived_clock : (s.arrived l).clock = s.clock := (arrived_parts s l).2.2.2.2.2.2.1
@[simp] theorem arrived_hostLine : (s.arrived l).host = s.host := (arrived_parts s l).2.2.2.2.2.2.2.1
@[simp] theorem arrived_tabletLine : (s.arrived l).tablet = s.tablet := (arrived_parts s l).2.2.2.2.2.2.2.2.1
@[simp] theorem arrived_soft : (s.arrived l).softReset = s.softReset := (arrived_parts s l).2.2.2.2.2.2.2.2.2.1
@[simp] theorem arrived_freeIdx : (s.arrived l).freeIdx = s.freeIdx := (arrived_parts s l).2.2.2.2.2.2.2.2.2.2.1
@[simp] theorem arrived_readMask : (s.arrived l).link.readMask = s.link.readMask := (arrived_parts s l).2.2.2.2.2.2.2.2.2.2.2.1
@[simp] theorem arrived_queryAllowed : (s.arrived l).link.queryAllowed = s.link.queryAllowed := (arrived_parts s l).2.2.2.2.2.2.2.2.2.2.2.2.1
@[simp] theorem arrived_setupAllowed : (s.arrived l).link.setupAllowed = s.link.setupAllowed := (arrived_parts s l).2.2.2.2.2.2.2.2.2.2.2.2.2.1
@[simp] theorem arrived_relay : (s.arrived l).link.relay = s.link.relay := (arrived_parts s l).2.2.2.2.2.2.2.2.2.2.2.2.2.2.1
@[simp] theorem arrived_transmit : (s.arrived l).link.transmit = s.link.transmit := (arrived_parts s l).2.2.2.2.2.2.2.2.2.2.2.2.2.2.2.1
@[simp] theorem arrived_rate : (s.arrived l).link.rate = s.link.rate := (arrived_parts s l).2.2.2.2.2.2.2.2.2.2.2.2.2.2.2.2.1
theorem arrived_count (x : Source) (h : x ≠ .tablet) : (s.arrived l).attn.count x = s.attn.count x :=
  (arrived_parts s l).2.2.2.2.2.2.2.2.2.2.2.2.2.2.2.2.2.1 x h
@[simp] theorem arrived_mask : (s.arrived l).attn.mask = s.attn.mask := (arrived_parts s l).2.2.2.2.2.2.2.2.2.2.2.2.2.2.2.2.2.2
@[simp] theorem arrived_uptime : (s.arrived l).uptime = s.uptime := by simp [State.uptime]
@[simp] theorem arrived_port (m) : (s.arrived l).port m = s.port m := by simp [State.port]
@[simp] theorem arrived_sensorAt (i) : (s.arrived l).sensorAt i = s.sensorAt i := by simp [State.sensorAt]
@[simp] theorem arrived_powerHeld : (s.arrived l).powerHeld = s.powerHeld := by simp [State.powerHeld]
end

/-- Every request command is its request's body taken on its line. -/
theorem exec_request {c : Instr} {l : LineId} {tag : Byte} {r : Request} (h : c.request? = some (l, tag, r)) (s : State) :
    exec c s = .next (s.requestCommand l (Request.body tag r)) := by
  cases c <;> simp only [Instr.request?, Option.some.injEq, Prod.mk.injEq, reduceCtorEq] at h <;>
    (obtain ⟨rfl, rfl, rfl⟩ := h; rfl)

end Sys2Proof.Machine
end

