-- ==== Sys2Proof/Laws/Waits.lean ====
section
/-! SUPPORT. Requests that wait: what entering and leaving a request FIFO is (R132, R133, R147), and rounds of the lines' work one
at a time. -/

namespace Sys2Proof.Machine

/-- K40_READY evaluated, in full (R147). -/
theorem evalReady_eq (s : State) : s.evalReady = { s with link := { s.link with
      k40Ready :=
        if 3 ≤ s.tablet.fifo.length ∨ 768 ≤ payloadBytes s.link.relay ∨ 7 ≤ s.link.relay.length then false
        else if s.tablet.fifo.length ≤ 1 ∧ payloadBytes s.link.relay < 512 ∧ s.link.relay.length ≤ 5 then true
        else s.link.k40Ready } } := by
  simp only [State.evalReady, State.readyDrops, State.readyRises, Bool.or_eq_true, Bool.and_eq_true, decide_eq_true_eq, or_assoc,
    and_assoc]
  split
  · rfl
  · split <;> rfl

/-- A change of a line's request FIFO, with what follows it (R147). -/
theorem fifoChanged_eq (s : State) (l : LineId) (fifo : List (List Byte)) :
    (s.modLine l fun u => { u with fifo := fifo }).fifoChanged l = s.withFifo l fifo := by
  cases l
  · rfl
  · exact evalReady_eq _

/-- A frame that finds room enters the request FIFO at its tail (R132). -/
theorem enterFifo_of_room {s : State} {l : LineId} (h : (s.lineAt l).fifo.length < 4) (body : List Byte) :
    s.enterFifo l body = s.withFifo l ((s.lineAt l).fifo ++ [body]) := by
  unfold State.enterFifo
  rw [if_pos h, ← fifoChanged_eq]
  cases l <;> rfl

/-- The oldest waiting request leaves the FIFO and is taken (R133). -/
theorem takeRequest_of_mayTake {s : State} {l : LineId} {body : List Byte} {rest : List (List Byte)}
    (hf : (s.lineAt l).fifo = body :: rest) (h : s.mayTake l = true) : s.takeRequest l = (s.withFifo l rest).takeBody l body := by
  unfold State.takeRequest
  simp only [hf, h, if_true, fifoChanged_eq]

/-- What a FIFO's change keeps. -/
theorem withFifo_keeps (s : State) (l : LineId) (fifo : List (List Byte)) :
    (s.withFifo l fifo).softReset = s.softReset ∧ (s.withFifo l fifo).inReset = s.inReset ∧
    (s.withFifo l fifo).lineAt l = { s.lineAt l with fifo := fifo } ∧
    ∀ k, k ≠ l → (s.withFifo l fifo).lineAt k = s.lineAt k := by
  cases l <;> refine ⟨rfl, rfl, rfl, fun k hk => ?_⟩ <;> cases k <;> first | rfl | exact absurd rfl hk

/-- A round more or less settles the same. -/
theorem settle_serveOnce (s : State) : s.serveOnce.settle = s.settle := by
  have h : s.serve (s.work + s.serveOnce.work + 1) = s.serveOnce.serve (s.work + s.serveOnce.work) := serve_cons _ _
  unfold State.settle
  rw [serve_enough _ _ s (work_le_fuel s) (by omega : s.work ≤ s.work + s.serveOnce.work + 1), h,
    serve_enough _ _ s.serveOnce (work_le_fuel _) (by omega : s.serveOnce.work ≤ s.work + s.serveOnce.work)]

/-- What a calm state's lines leave: nothing to take, nothing to begin. -/
theorem calm_parts {s : State} (h : s.calm = true) :
    (∀ l, s.mayTake l = false) ∧ (∀ l, s.canBegin l = false) ∧ s.conv.isQuiet = true ∧ s.inReset = false := by
  simp only [State.calm, State.isQuiet, State.linesQuiet, Bool.and_eq_true, Bool.not_eq_true'] at h
  obtain ⟨⟨⟨⟨⟨h1, h2⟩, h3⟩, h4⟩, h5⟩, h6⟩ := h
  exact ⟨fun l => by cases l <;> assumption, fun l => by cases l <;> assumption, h5, h6⟩

end Sys2Proof.Machine
end

