-- ==== Sys2Proof/Tests/Slice0.lean ====
section
/-! SUPPORT. Tests: ill-formed terms refused, the worked figures and sequences of spec/ (one command on a small state each), and for
every statement with hypotheses a state and operands that meet them. -/

namespace Sys2Proof.Tests

open Sys2Proof Sys2Proof.Machine

set_option Elab.async false

/-! ### Helpers -/

/-- The reset state settled, its POWER notice sent and its converter idle: nothing left to do, nothing sending. -/
def idle : State :=
  let s := State.reset.settle
  { s with host := { s.host with tx := none }, conv := { s.conv with due := ⟨false, false, Six.all false⟩, inFlight := none } }

/-- The next state of a command; every command has one. -/
def after (c : Instr) (s : State) : State := match exec c s with | .next t => t | _ => s

/-- The body in transmission on a line. -/
def sent (l : LineId) (s : State) : List Byte := match (s.lineAt l).tx with | some f => f.body | none => []

/-- The idle state with a frame in transmission to the host. -/
def busy : State := { idle with host := { idle.host with tx := some ⟨.reply, [0x81, 1, 0], 1000000⟩ } }

def mv0 : MoveRaw := ⟨0, 0, 0, 0, 0, 0, 0, 0, 0, 0, 0, 0, 0, 0⟩
def move (m : Motion) : Move := ⟨m, .brake, 0, none, 7, .brick⟩
def runs (mv : Move) (target : Option Int := none) (phase : Phase := .cruise) : Activity :=
  .running ⟨mv, phase, 0, false, target, none⟩
def setup0 : SensorSetupRaw := ⟨0, 0, 0, 0, 0, 0, 0, 0, 0, 0, 0, 0, 0, 0, 0, 0, 0, 0, 0⟩
def clip0 : ClipRaw := ⟨0x0501, 0, 440, 250, 0, 0, 8000, 0⟩
def link0 : LinkSetupRaw := ⟨0, 0, 0, 0, 0, 0, 0⟩
def still (x : Int) : History := ⟨x, x, x, x, x, x, x, x⟩

/-- A ceiling stored on every port and the sound engine, as in NORMAL. -/
def powered : State :=
  { idle with
    supply := { idle.supply with mode := .normal, scale := 1000, vf := 9000, seeded := true }
    motor := idle.motor.map (Port.storeCeiling 1000), sound := idle.sound.storeCeiling 1000 }

/-- Port A of the powered state changed. -/
def onA (f : Port → Port) : State := powered.modPort .i0 f

/-- Sensor port 1 of the idle state changed. -/
def onS (f : SensorPort → SensorPort) : State := idle.modSensor .i0 f

/-- The sound engine of the powered state changed. -/
def onE (f : Sound → Sound) : State := powered.modSound f

def profile : Profile := ⟨0x31, 3, 3, [⟨0, 1, .int8, 0, [0x52]⟩, ⟨1, 1, .int16, 0, [0x41]⟩, ⟨2, 3, .int8, 0, [0x43]⟩]⟩

/-- A running smart controller on sensor port 1, in a line state, with the profile of section 5.5. -/
def smart (x : LineState) (f : Smart → Smart := id) : State := onS fun p =>
  { p with
    work := .smart, supplyOn := true, record := { p.record with mode := .smart, status := .stale }
    smart := f { p.smart with running := true, lineState := x, maxRate := 2, preferred := 1, profile := some profile
                              selected := some 1 } }

/-! ### Ill-formed commands are refused -/

theorem test_wf_relay_payloads :
    (Instr.tabletSend .host 1 []).wf = false ∧ (Instr.tabletSend .host 1 (List.replicate 239 0)).wf = false ∧
    (Instr.relayUp .tablet 1 []).wf = false ∧ (Instr.relayUp .tablet 1 (List.replicate 239 0)).wf = false ∧
    (Instr.relayUp .tablet 1 (List.replicate 238 0)).wf = true := by decide +kernel
theorem test_wf_counted_bytes :
    (Instr.smartWrite .host 1 1 2 [5]).wf = false ∧ (Instr.smartWrite .host 1 1 237 (List.replicate 237 0)).wf = false ∧
    (Instr.soundData .host 1 1 0 []).wf = false ∧ (Instr.soundData .host 1 237 0 (List.replicate 237 0)).wf = false ∧
    (Instr.soundData .host 1 236 0 (List.replicate 236 0)).wf = true := by decide +kernel
theorem test_wf_unknown_kind :
    (Instr.unknownKind .host 0x01 1 []).wf = false ∧ (Instr.unknownKind .host 0x06 1 (List.replicate 239 0)).wf = false ∧
    (Instr.unknownKind .host 0x06 1 []).wf = true := by decide +kernel
theorem test_wf_time_within_millisecond :
    (Instr.counterPinAChange .i0 true 1000).wf = false ∧ (Instr.counterPinAChange .i0 true 999).wf = true := by decide

/-! ### Frames and replies: sections 8.2 and 11.6 -/

/-- Section 11.6: the frame of the request and those of its three replies. -/
theorem test_queueClear_frames :
    frameOf (Request.body 0x21 (.queueClear 1 1)) = [0x5A, 0x04, 0x14, 0x21, 0x01, 0x01, 0xC5] ∧
    frameOf [0x94, 0x21, 0x00, 0x02] = [0x5A, 0x04, 0x94, 0x21, 0x00, 0x02, 0x45] ∧
    frameOf [0x94, 0x21, 0x04] = [0x5A, 0x03, 0x94, 0x21, 0x04, 0x44] := by decide
/-- Section 11.6: the replies themselves. -/
theorem test_queueClear_replies :
    let two := idle.modPort .i1 fun p =>
      { p with act := runs (move (.speed 100)), queue := [move (.speed 1), move (.speed 2)] }
    sent .host (after (.queueClear .host 0x21 1 1) two) = [0x94, 0x21, 0x00, 0x02] ∧
    sent .host (after (.queueClear .host 0x21 6 1) two) = [0x94, 0x21, 0x04] ∧
    sent .host (after (.queueClear .host 0x21 1 2) two) = [0x94, 0x21, 0x05] := by decide +kernel
/-- Section 8.2: the frame found inside a damaged one. -/
theorem test_hunter_rescans :
    scan 0 [0x5A, 0x04, 0x10, 0x5A, 0x02, 0x01, 0x07] = ([.failure], [0x5A, 0x02, 0x01, 0x07]) ∧
    scan 0 [0x5A, 0x02, 0x01, 0x07, 0xF6] = ([.valid [0x01, 0x07]], []) := by decide
/-- Section 8.2: the byte that completes the IDENTIFY brings its reply. -/
theorem test_byteReceived_identify :
    sent .host (after (.byteReceived .host 0xF6)
      { idle with host := { idle.host with held := [0x5A, 0x02, 0x01, 0x07], rxTimer := some 0 } }) =
      [0x81, 0x07, 0, 0x4E, 0x5A, 0x40, 0x04, 3, 6, 6, 0, 0, 0, 0] := by decide +kernel
/-- Section 8.2's worked case: the bad check byte 07 is counted and raised, and the frame that the rescan begins is held. -/
theorem test_byteReceived_rescan :
    let t := after (.byteReceived .host 0x07) (busy.modLine .host fun u => { u with held := [0x5A, 4, 0x10, 0x5A, 2, 1], rxTimer := some 0 });
    t.hostUnit.checkErrors = 1 ∧ t.attn.hostLink = 1 ∧ t.host.held = [0x5A, 2, 1, 7] ∧ t.host.rxTimer = some t.clock := by decide +kernel

/-- R131: the inter-byte timeout drops the partial frame. -/
theorem test_interByteTimeout :
    (after (.interByteTimeout .host) { idle with host := { idle.host with held := [0x5A, 2], rxTimer := some 0 } }).host.held =
      [] := by decide +kernel
/-- R135: a kind that names no request is answered with kind + 0x80, one from 0x80 up with kind 0xFF. -/
theorem test_unknownKind :
    sent .host (after (.unknownKind .host 0x06 9 []) idle) = [0x86, 9, 0x03] ∧
    sent .host (after (.unknownKind .host 0x90 9 [1]) idle) = [0xFF, 9, 0x03] := by decide +kernel
theorem test_identify_tablet_waits_for_radio :
    (after (.identify .tablet 3) idle).tablet.replies.length = 1 ∧ (after (.identify .tablet 3) idle).link.state = .up := by
  decide +kernel
theorem test_radioReadyRise :
    sent .tablet (after .radioReadyRise { idle with tablet := { idle.tablet with replies := [[0x81, 1, 0]] } }) =
      [0x81, 1, 0] := by decide +kernel
theorem test_radioReadyFall :
    (after .radioReadyFall { idle with link := { idle.link with radioReady := true } }).link.radioReady = false := by
  decide +kernel
/-- R133: the oldest waiting frame is taken as a reply slot is freed, its reply last; the next waits on. -/
theorem test_transmissionEnd_takes_oldest :
    let full := busy.modLine .host fun u => { u with replies := List.replicate 4 [0x81, 1, 0], fifo := [[0x7F, 2], [0x7E, 3]] }
    let t := after (.transmissionEnd .host) full
    t.host.replies.getLast? = some [0xFF, 2, 3] ∧ t.host.fifo = [[0x7E, 3]] := by decide +kernel
theorem test_transmissionEnd_reply_first :
    sent .host (after (.transmissionEnd .host) { idle with
      host := { idle.host with tx := some ⟨.reply, [0x81, 1, 0], 1000000⟩, replies := [[0x85, 2, 0]] }
      attn := { idle.attn with power := 1 } }) = [0x85, 2, 0] := by decide +kernel
/-- R142: a soft reset waits for its reply's end and the tablet's replies, then ends with the notice of cause SOFT. -/
theorem test_softReset :
    (after (.reset .host 5) idle).softReset = some false ∧
    (after (.transmissionEnd .host) (after (.reset .host 5) idle)).softReset = some true ∧
    (sent .host (after .softResetEffect { idle with softReset := some true, clock := 77 })).take 5 = [0x60, 0, 0, 1, 4] := by
  decide +kernel
/-- R142, R143: a pin reset begun and ended. -/
theorem test_pin_reset :
    (after .resetnLow idle).inReset = true ∧ (after .resetnLow idle).bridge .i0 = .open_ ∧
    (sent .host (after .resetnRise (after .resetnLow idle))).take 5 = [0x60, 0, 0, 1, 2] := by decide +kernel
theorem test_powerOn_reset :
    (after .powerOnResetBegin { idle with clock := 9 }).porActive = true ∧
    (after .powerOnResetEnd (after .powerOnResetBegin { idle with clock := 9 })).clock = 0 := by decide +kernel
theorem test_uptimeTick : (after .uptimeTick { idle with clock := 4294967295 }).uptime = 0 := by decide +kernel
/-- R139: clamped at both ends. -/
theorem test_setWatch :
    (after (.setWatch .host 1 20) idle).hostUnit.watchPeriod = 50 ∧ sent .host (after (.setWatch .host 1 20) idle) = [0x83, 1, 0, 1] ∧
    (after (.setWatch .host 1 20000) idle).hostUnit.watchPeriod = 10000 ∧
    (after (.setWatch .host 1 0) { idle with hostUnit := { idle.hostUnit with watch := .expired } }).hostUnit.watch = .off := by
  decide +kernel
theorem test_setMask :
    sent .host (after (.setMask .host 1 0x8001) { idle with attn := { idle.attn with motor := idle.attn.motor.set .i3 2, mask := 0x20 } }) =
      [0x84, 1, 0, 0x01, 0x80, 0x20, 0x00] := by decide +kernel
theorem test_hostWatchExpiry :
    let t := after .hostWatchExpiry { (onA fun p => { p with act := runs (move (.speed 100)) }) with
      hostUnit := { idle.hostUnit with watch := .armed 0 } }
    (t.port .i0).outcomes.map (·.outcome) = [.watch] ∧ (t.port .i0).act = .rest .braked ∧ t.hostUnit.watch = .expired := by
  decide +kernel

/-! ### The tablet line: sections 9.8 and 9.9 -/

/-- Section 9.8: K40_READY falls when the relay FIFO reaches 768 bytes. -/
theorem test_relayUp_ready :
    let q := { idle with link := { idle.link with relay := List.replicate 3 (List.replicate 200 1) }
                         host := { idle.host with tx := some ⟨.reply, [1, 1, 0], 1000000⟩ } }
    (after (.relayUp .tablet 4 (List.replicate 200 4)) q).link.k40Ready = false ∧
    (after (.relayUp .tablet 4 (List.replicate 100 4)) q).link.k40Ready = true := by decide +kernel
theorem test_tabletSend :
    sent .host (after (.tabletSend .host 4 [7, 7]) { idle with link := { idle.link with transmit := [[1]] } }) =
      [0xC1, 4, 0, 2, 3, 0] := by decide +kernel
/-- Section 9.9: the third strike at a limit of 3. -/
theorem test_quietTimerExpiry :
    let s := { (onA fun p => { p with owner := .remote, act := runs (move (.speed 500)) }) with
      link := { idle.link with state := .up, quietSteps := 2, strikeLimit := 3, strikes := 2, quietTimer := some 0 } }
    (after .quietTimerExpiry s).link.state = .quiet ∧ ((after .quietTimerExpiry s).port .i0).act = .rest .braked ∧
    ((after .quietTimerExpiry s).port .i0).outcomes.map (·.outcome) = [.quiet] := by decide +kernel
theorem test_linkSetup :
    (after (.linkSetup .host 1 ⟨2, 0x3F, 1, 1, 1, 32, 7⟩) idle).link.rate = 921600 ∧
    (after (.linkSetup .host 1 ⟨2, 0x40, 1, 1, 1, 32, 7⟩) idle).link = idle.link := by decide +kernel
theorem test_linkReset :
    let t := after (.linkReset .host 1) { busy with link := { idle.link with relay := [[1], [2]], transmit := [[3]], state := .up } }
    t.host.replies = [[0xC3, 1, 0, 2, 1]] ∧ t.link.breakTimer = some 0 ∧ t.tabTx = .low ∧ t.attn.tablet = 1 := by decide +kernel
theorem test_breakEnd :
    sent .tablet (after .breakEnd { idle with
      link := { idle.link with radioReady := true, breakTimer := some 0 }, tablet := { idle.tablet with replies := [[5]] } }) =
      [5] := by decide +kernel
theorem test_linkStatus_length : (sent .host (after (.linkStatus .host 1) idle)).length = 27 := by decide +kernel

/-! ### Moves: sections 1.9, 1.10, 2.8 and 2.10 -/

/-- Section 1.10: the MOVE_NOW of speed 2500 is clamped and replaces two waiting records. -/
theorem test_moveNow :
    let s := onA fun p => { p with act := runs (move (.timed 500 2000)), queue := [move (.speed 1), move (.speed 2)] }
    let t := after (.moveNow .host 3 0 { mv0 with speed := 2500, tag := 0x20 }) s
    sent .host t = [0x93, 3, 0, 1] ∧ (t.port .i0).queue.map (·.motion) = [.speed 1000] ∧ (t.port .i0).replacing = true ∧
      (t.port .i0).discarded = 2 := by decide +kernel
theorem test_move_clamps :
    let t := after (.move .host 3 0 { mv0 with kind := 2, speed := BitVec.ofInt 16 (-700), target := 5000 }) powered
    sent .host t = [0x92, 3, 0, 0, 1] ∧ (t.port .i0).queue.map (·.motion) = [.position 700 5000] := by decide +kernel
/-- R55: no move in CRITICAL. -/
theorem test_move_powerHold :
    sent .host (after (.move .host 3 0 mv0) { idle with supply := { idle.supply with mode := .critical } }) =
      [0x92, 3, 0x0B] := by decide +kernel
theorem test_preset :
    let t := after (.preset .host 1 0 (BitVec.ofInt 32 (-50))) (onA fun p => { p with act := .rest .stalled, rawCount := 3 })
    (t.port .i0).position = -50 ∧ (t.port .i0).history = still (-50) ∧ (t.port .i0).act = .rest .stalled ∧
      (t.port .i0).rawCount = 0 := by decide +kernel
theorem test_preset_running :
    sent .host (after (.preset .host 1 0 5) (onA fun p => { p with act := runs (move (.speed 1)) })) = [0x95, 1, 0x0A] := by
  decide +kernel
theorem test_groupDefine :
    (after (.groupDefine .host 1 15 0x05) idle).groupMembers 15 = some ⟨true, false, true, false, false, false⟩ ∧
    sent .host (after (.groupDefine .host 1 16 0x05) idle) = [0x97, 1, 0x0C] := by decide +kernel
theorem test_portSetup :
    let c : PortConfigRaw := { PortConfig.raw idle.motor.i0.config with accel := 50 }
    sent .host (after (.portSetup .host 1 0 c) idle) = [0x90, 1, 0, 1] ∧
    (((after (.portSetup .host 1 0 c) idle).port .i0).pendingConfig.map (·.accel)) = some 100 := by decide +kernel
theorem test_portQuery_length : (sent .host (after (.portQuery .host 1 5) idle)).length = 78 := by decide +kernel
theorem test_setOwners :
    let t := after (.setOwners .host 1 ⟨⟨1, 0, 0, 0, 0, 0⟩, 0⟩) (onA fun p => { p with act := runs (move (.speed 5)) })
    (t.port .i0).owner = .remote ∧ (t.port .i0).outcomes.map (·.outcome) = [.ownerChanged] := by decide +kernel
theorem test_allStop :
    let t := after (.allStop .host 1) (onA fun p => { p with act := .rest .holding, queue := [move (.speed 5)] })
    (t.port .i0).act = .rest .braked ∧ (t.port .i0).discarded = 1 ∧ (t.port .i0).outcomes = [] := by decide +kernel
theorem test_encoderTransition :
    ((after (.encoderTransition .i0 true false) idle).port .i0).rawCount = 1 ∧
    ((after (.encoderTransition .i0 false true) idle).port .i0).rawCount = -1 ∧
    ((after (.encoderTransition .i0 true true) idle).port .i0).encErrors = 1 := by decide +kernel
/-- Section 2.8, event 2: 47 counts to go at 600 is within the braking distance of 48. -/
theorem test_regulation_brakes :
    let s := onA fun p => { p with act := runs (move (.position 600 10000)) (some 10000), vp := 600, position := 9950
                                   history := still 9950, rawCount := 3 }
    ((after (.regulationEvent .i0) s).port .i0).vp = 580 ∧ ((after (.regulationEvent .i0) s).port .i0).act.phaseCode = 3 := by
  decide +kernel
/-- Section 2.10: the five regulator figures' duty and integral. -/
theorem test_regulator_figures :
    let p : Port := { idle.motor.i0 with vp := 800, vm := 760, integral := 5000, ceiling := 600 }
    ((p.driven 800).duty, (p.driven 800).integral) = (435, 5320) ∧
    (({ p with ceiling := 400 }.driven 800).duty, ({ p with ceiling := 400 }.driven 800).integral) = (400, 5000) ∧
    (({ p with vm := 820, integral := 20000, ceiling := 400 }.driven 800).duty,
      ({ p with vm := 820, integral := 20000, ceiling := 400 }.driven 800).integral) = (400, 19840) ∧
    (({ p with vp := -800, vm := -760, integral := -5000, config := { p.config with motorPolarity := .reversed } }.driven
      (-800)).duty) = 435 ∧ ({ p with duty := 435 }.storeCeiling 300).duty = 300 := by decide +kernel

/-! ### Supply: section 3.8 -/

/-- Section 3.8: 6700 mV filtered with a sample of 6000 mV is 6613, NORMAL; the next is 6537, LOW with S 960. -/
theorem test_battery_low :
    let s := { powered with supply := { powered.supply with vf := 6613 }, conv := { idle.conv with inFlight := some ⟨.battery, false⟩ } }
    let t := after (.conversionComplete 2048) s
    t.supply.vf = 6537 ∧ t.supply.mode = .low ∧ t.supply.scale = 960 ∧ (t.port .i0).ceiling = 960 := by decide +kernel
/-- R50: a current above the limit lowers the foldback factor by 100. -/
theorem test_current_foldback :
    let s := { powered with conv := { idle.conv with inFlight := some ⟨.current, false⟩ } }
    (after (.conversionComplete 1741) s).supply.foldback = 900 ∧ (after (.conversionComplete 1535) s).supply.foldback = 1000 := by
  decide +kernel
theorem test_recoveryHoldExpiry :
    let s := { idle with supply := { idle.supply with mode := .recovery, hold := some 0, vf := 6300, seeded := true }
                         motor := idle.motor.map Port.enterShutdown }
    (after .recoveryHoldExpiry s).supply.mode = .low ∧ (after .recoveryHoldExpiry s).supply.scale = 812 ∧
      ((after .recoveryHoldExpiry s).port .i5).act = .rest .braked := by decide +kernel
/-- R46, R48, R49: a V_low of 6250 set while the hold runs is not used at its expiry (V_f 6300 is still LOW, S 812); the next battery
sample uses it. -/
theorem test_powerSetup_inUse :
    let s := { idle with supply := { idle.supply with mode := .recovery, hold := some 0, vf := 6300, seeded := true } };
    let t := after .recoveryHoldExpiry (after (.powerSetup .host 1 6250 5000 6200 3000) s);
    t.supply.mode = .low ∧ t.supply.scale = 812 ∧
    (let w := after (.conversionComplete 2150) { t with conv := { t.conv with inFlight := some ⟨.battery, false⟩ } };
      w.supply.vf = 6300 ∧ w.supply.mode = .normal ∧ w.supply.lowInUse = 6250) := by decide +kernel
theorem test_supplyChannelsDue :
    (after .supplyChannelsDue idle).conv.inFlight = some ⟨.battery, false⟩ ∧ (after .supplyChannelsDue idle).conv.due.current = true := by
  decide +kernel
theorem test_powerSetup :
    sent .host (after (.powerSetup .host 1 6600 6200 6200 3000) idle) = [0xB8, 1, 0x05] ∧
    (after (.powerSetup .host 1 9500 5000 9500 6000) idle).supply.limit = 6000 := by decide +kernel
theorem test_powerQuery_length : (sent .host (after (.powerQuery .host 1) idle)).length = 27 := by decide +kernel

/-! ### Sensor ports: sections 4.11, 4.12, 5.5 and 5.6 -/

theorem test_sensorSetup_analog :
    let t := after (.sensorSetup .host 1 1 { setup0 with mode := 1, samplePeriod := 3, averaging := 4 }) idle
    sent .host t = [0xA0, 1, 0, 1] ∧ t.supplyPin .i0 = true ∧ t.conv.inFlight = some ⟨.sensor .i0, false⟩ := by decide +kernel
theorem test_analogChannelDue :
    (after (.analogChannelDue .i0) (onS fun p => { p with work := .analog ⟨10, 4, [], 0⟩ })).conv.inFlight =
      some ⟨.sensor .i0, false⟩ := by decide +kernel
/-- R64: the mean of the window, scaled to mV. -/
theorem test_conversion_analog :
    let s := (onS fun p => { p with work := .analog ⟨10, 4, [1000, 2000], 0⟩, driveA := .driven true, driveB := .driven false })
    let t := after (.conversionComplete 4095) { s with conv := { s.conv with inFlight := some ⟨.sensor .i0, false⟩ } }
    ((t.sensorAt .i0).record.values, (t.sensorAt .i0).record.status) = (⟨2887, 1, 0, 0⟩, .fresh) := by decide +kernel
def switchPin : DigitalPin := ⟨.up, .input, 10, .fall, true, none, 0⟩
/-- Section 4.11: the press, debounced. -/
theorem test_debounceExpiry :
    let s := onS fun p => { p with work := .digital { switchPin with timer := some 0 } { switchPin with debounce := 0 } }
    let t := after (.debounceExpiry .i0 .a) s
    (t.sensorAt .i0).record.values = ⟨0, 1, 1, 0⟩ ∧ (t.sensorAt .i0).record.sequence = 1 := by decide +kernel
theorem test_digitalPinChange :
    let s := onS fun p => { p with work := .digital switchPin switchPin, driveA := .driven true }
    (match ((after (.digitalPinChange .i0 .a false) s).sensorAt .i0).work with | .digital a _ => a.timer | _ => none) = some 0 := by
  decide +kernel
/-- Section 4.12: a counting edge 3.5 ms after the last. -/
theorem test_counterPinAChange :
    let s := onS fun p => { p with work := .counter ⟨.up, .up, false, true, true, 1, 0, some 1900, true⟩, driveA := .driven false }
    ((after (.counterPinAChange .i0 true 400) { s with clock := 5 }).sensorAt .i0).record.values = ⟨2, 3500, 1, 0⟩ := by
  decide +kernel
theorem test_counterPinBChange :
    let s := onS fun p => { p with work := .counter ⟨.up, .up, false, true, true, 2, 3500, some 1900, true⟩, driveB := .driven true }
    ((after (.counterPinBChange .i0 false) s).sensorAt .i0).record.values = ⟨2, 3500, 0, 0⟩ := by decide +kernel
theorem test_sensorSupplyOverload :
    let t := after (.sensorSupplyOverload .i0) (onS fun p => { p with work := .analog ⟨10, 1, [], 0⟩, supplyOn := true })
    t.supplyPin .i0 = false ∧ (t.sensorAt .i0).record.status = .fault := by decide +kernel
theorem test_intervalExpiry :
    let t := after (.intervalExpiry .i0) (onS fun p =>
      { p with policy := .interval 10 (some 5), record := { p.record with status := .fresh } })
    (t.sensorAt .i0).policy = .interval 10 (some 15) ∧ sent .host t ≠ [] := by decide +kernel
theorem test_sensorRead : sent .host (after (.sensorRead .host 1 0) idle) = [0xA1, 1, 0x04] ∧
    (sent .host (after (.sensorRead .host 1 6) idle)).length = 29 := by decide +kernel
/-- Section 5.5: the ACCEPT record that ANNOUNCE_END brings. -/
theorem test_announceEnd :
    ((after (.smartCharacterReceived .i0 0x9F false) (smart .announcing fun c => { c with parser := some [0x60] })).smartAt
      .i0).tx = some [0xA1, 0x02, 0x5C] := by decide +kernel
/-- Section 5.5: the first DATA record. -/
theorem test_data_record :
    let t := after (.smartCharacterReceived .i0 0x50 false) (smart .starting fun c => { c with parser := some [0x83, 1, 0x2C, 1] })
    (t.sensorAt .i0).record.values = ⟨300, 0, 0, 0⟩ ∧ (t.smartAt .i0).lineState = .streaming := by decide +kernel
/-- Section 5.5: the switch at 57,600 bit/s and its SELECT of mode 1. -/
theorem test_switchDelayExpiry :
    let t := after (.switchDelayExpiry .i0) (smart .accepting fun c => { c with switchTimer := some 0 })
    (t.smartAt .i0).rate = 57600 ∧ (t.smartAt .i0).tx = some [0xC1, 1, 0x3F] := by decide +kernel
theorem test_smartRecordSent_accept :
    ((after (.smartRecordSent .i0) (smart .accepting fun c => { c with tx := some [0xA1, 2, 0x5C] })).smartAt .i0).switchTimer =
      some 0 := by decide +kernel
theorem test_nudgeTimerExpiry :
    ((after (.nudgeTimerExpiry .i0) (smart .streaming fun c => { c with nudgeTimer := some 160 })).smartAt .i0).tx =
      some [0xE0, 0x1F] := by decide +kernel
/-- Section 5.6: room 28 after a COMMAND of two bytes. -/
theorem test_smartWrite :
    sent .host (after (.smartWrite .host 1 1 2 [0xAA, 0xBB]) (smart .streaming fun c => { c with tx := some [0xE0, 0x1F] })) =
      [0xA3, 1, 0, 28] := by decide +kernel
/-- R58, R77, R82: pin 1 is sampled in ANALOG alone; a smart line idles high, and is high-impedance once an overload has stopped it. -/
theorem test_pin_roles :
    ((onS fun p => { p with work := .analog ⟨5, 1, [], 0⟩ }).pin1Role .i0, idle.pin1Role .i0) = (.sampled, .highImpedance) ∧
    (smart .streaming).pinRole .i0 .b = .output true ∧
    (after (.sensorSupplyOverload .i0) (smart .streaming)).pinRole .i0 .b = .highImpedance := by decide +kernel
/-- R69: an open pin B, pulled up, that is then driven high has not changed: no value set. -/
theorem test_counter_pin_b_same_level :
    let s := onS fun p => { p with work := .counter ⟨.none, .up, false, false, false, 0, 0, none, true⟩, driveB := .nothing,
                                   policy := .every, record := { p.record with mode := .counter, status := .fresh } };
    let t := after (.counterPinBChange .i0 true) s;
    (t.sensorAt .i0).record = (s.sensorAt .i0).record ∧ t.attn.sensor.get .i0 = s.attn.sensor.get .i0 ∧
    ((after (.counterPinBChange .i0 false) s).sensorAt .i0).record.sequence = (s.sensorAt .i0).record.sequence + 1 := by decide +kernel
theorem test_smartSelect :
    let t := after (.smartSelect .host 1 1 2) (smart .streaming)
    (t.smartAt .i0).lineState = .switching ∧ (t.smartAt .i0).selected = some 2 := by decide +kernel
theorem test_smartProfile_wrong_state : sent .host (after (.smartProfile .host 1 1) idle) =
    [0xA4, 1, 0x0A, 0, 0, 0, 0x60, 0x09, 0, 0, 0xFF, 0, 0, 32] := by decide +kernel
theorem test_lossTimerExpiry :
    let t := after (.lossTimerExpiry .i0) (smart .streaming fun c => { c with lossTimer := some 0, rate := 57600 })
    (t.smartAt .i0).rate = 2400 ∧ (t.smartAt .i0).lineState = .listen := by decide +kernel
theorem test_announceLimitExpiry :
    ((after (.announceLimitExpiry .i0) (smart .announcing fun c => { c with announceTimer := some 0 })).smartAt .i0).lineState =
      .listen := by decide +kernel
theorem test_pauseExpiry :
    ((after (.pauseExpiry .i0) (smart .streaming fun c => { c with parser := some [0x83], pauseTimer := some 0 })).smartAt
      .i0).errors = 1 := by decide +kernel

/-! ### Sound: sections 7.4, 7.6, 7.7 -/

/-- The worked decode figures of section 7.6. -/
theorem test_companded_figures :
    ([0x00, 0x80, 0x05, 0x0F, 0x10, 0x1F, 0xB5, 0x7F, 0xFF] : List Byte).map decodeCompanded =
      [0, 0, 80, 240, 256, 496, -1344, 31744, -31744] ∧
    StreamFormat.linear8.sample [0x00] = -32768 ∧ StreamFormat.linear8.sample [0xFF] = 32512 ∧
    StreamFormat.linear16.sample [0x40, 0xFA] = -1472 := by decide +kernel
/-- The worked tone figures of section 7.4. -/
theorem test_tone_figures :
    (ToneGen.start 1000 250 .sine).step = 134217728 ∧ (ToneGen.start 440 250 .sine).step = 59055800 ∧
    (ToneGen.start 50 1 .sine).step = 6710886 ∧ (ToneGen.start 10000 250 .sine).step = 1342177280 ∧
    (ToneGen.start 50 250 .sine).remaining = 8000 ∧
    [0, 8, 16, 32, 64, 128, 192].map sineEntry = [0, 3902, 7654, 14142, 20000, 0, -20000] := by decide +kernel
/-- The worked volume figures of section 7.7. -/
theorem test_volume_figures :
    Sound.gainOf 80 600 = 48 ∧
    (after .outputSampleEvent ((onE fun e => { e with gain := 48, player := .playing ⟨1, .brick, .stream
      ⟨.companded8, 8000, none, -1344, 2, 1, false⟩⟩ }))).sound.out = -645 ∧
    (after .outputSampleEvent ((onE fun e => { e with gain := 48, player := .playing ⟨1, .brick, .stream
      ⟨.linear8, 8000, none, -32768, 2, 1, false⟩⟩ }))).sound.out = -15728 := by decide +kernel
theorem test_soundSetupApply :
    let t := after (.soundSetupApply .host 1 120 1024) powered
    (sent .host t).take 4 = [0xB0, 1, 0, 1] ∧ t.sound.volume = 100 ∧ t.sound.gain = 100 := by decide +kernel
theorem test_soundSetupQuery_length : (sent .host (after (.soundSetupQuery .host 1 0 0) powered)).length = 25 := by decide +kernel
theorem test_clip_starts :
    sent .host (after (.clip .host 1 clip0) powered) = [0xB1, 1, 0, 0, 0, 1] ∧
    (after (.clip .tablet 1 clip0) powered).tablet.replies = [[0xB1, 1, 0x06]] := by decide +kernel
theorem test_soundData : sent .host (after (.soundData .host 1 2 1 [5, 6]) powered) = [0xB2, 1, 0, 2, 0, 0xFE, 0x0F, 1] := by
  decide +kernel
theorem test_immediateTone :
    sent .host (after (.immediateTone .host 1 1000 5000) powered) = [0xB3, 1, 0, 1] ∧
    (after (.immediateTone .host 1 1000 5000) powered).sound.player.code = 4 := by decide +kernel
theorem test_soundStop :
    sent .host (after (.soundStop .host 1) (after (.transmissionEnd .host) (after (.clip .host 1 clip0) powered))) =
      [0xB4, 1, 0, 0, 1] := by decide +kernel


/-! ### States and operands that meet the statements' hypotheses -/

def busyTablet (s : State) : State := { s with tablet := { s.tablet with tx := some ⟨.reply, [0x81, 1, 0], 115200⟩ } }
def fourReplies (s : State) (l : LineId) : State :=
  (s.modLine l fun u => { u with replies := List.replicate 4 [0x81, 1, 0] })
def onSupply (f : Supply → Supply) : State := powered.modSupply f
/-- Ports A and C are group 1; C waits ready, A comes to a group head. -/
def grouped (act : Activity) : State :=
  ((powered.modPort .i0 fun p => { p with act := act, queue := [{ move (.speed 100) with group := 1 }] }).modPort .i2 fun p =>
    { p with act := .groupWait .braked, queue := [{ move (.relative 100 20) with group := 1 }, move (.speed 3)] }) |> fun s =>
    { s with groups := s.groups.set 0 (some ⟨true, false, true, false, false, false⟩) }
def guardOf (c : Comparison) (strict : Bool) : Guard := ⟨.i0, 0, c, 10, strict⟩

theorem witness_StepRunsFrontCommand :
    { idle with pending := [Instr.uptimeTick, .allStop .host 1] }.pending = .uptimeTick :: [.allStop .host 1] ∧
    idle.pending = [] := ⟨rfl, by decide +kernel⟩

/-- Every command answers the next state that `after` names. -/
theorem exec_after (c : Instr) (s : State) : exec c s = .next (after c s) := by cases c <;> rfl

theorem witness_NothingIsLeftToDo :
    exec .uptimeTick idle = .next (after .uptimeTick idle) ∧ (after .uptimeTick idle).inReset = false ∧
    exec .uptimeTick (after .resetnLow idle) = .next (after .uptimeTick (after .resetnLow idle)) ∧
    (after .uptimeTick (after .resetnLow idle)).inReset = true :=
  ⟨exec_after .., by decide +kernel, exec_after .., by decide +kernel⟩

theorem witness_ResetsBeginAndHold :
    (after .resetnLow busy).inReset = true ∧ (after .powerOnResetBegin busy).inReset = true ∧
    heardInReset (.identify .host 1) = false ∧ heardInReset (.conversionComplete 7) = false ∧
    heardInReset (.byteReceived .tablet 0x5A) = false ∧
    (let broken : State := busyTablet (onA fun p => { p with act := runs (move (.speed 5)), duty := 250 })
     let broken := broken.modLink fun k => { k with breakTimer := some 3 }
     broken.inReset = false ∧ broken.link.breakTimer ≠ none ∧ broken.tabTx = .low ∧ broken.bridge .i0 = .driven 250) ∧
    (busy.inReset = false ∧ busy.link.breakTimer = none ∧ busy.hostTx = .sends [0x5A, 3, 0x81, 1, 0, 0x7B] 1000000) := by
  decide +kernel

theorem witness_ResetsEndWithNotice :
    ((after .powerOnResetBegin idle).porActive = true ∧ (after .powerOnResetBegin idle).resetnLow = false) ∧
    ((after .resetnLow idle).resetnLow = true ∧ (after .resetnLow idle).porActive = false) ∧
    (let due : State := { idle with softReset := some true };
      due.calm = true ∧ due.softReset = some true ∧ due.tablet.replies = [] ∧ due.tablet.tx = none) ∧
    (idle.calm = true ∧ idle.softReset ≠ some true) ∧
    (let wait : State := busyTablet { idle with softReset := some true };
      wait.calm = true ∧ wait.tablet.tx = some ⟨.reply, [0x81, 1, 0], 115200⟩) ∧
    (let both := after .powerOnResetBegin (after .resetnLow idle); both.porActive = true ∧ both.resetnLow = true) := by
  decide +kernel

theorem witness_RequestsReadBackAsWritten :
    (Request.soundData 236 1 (List.replicate 236 0x5A)).wf = true ∧ (Request.soundData 0 0 []).wf = true ∧
    (Request.smartWrite 1 236 (List.replicate 236 0)).wf = true ∧ (Request.relayUp (List.replicate 238 0x5A)).wf = true ∧
    (Request.tabletSend [1]).wf = true ∧ (Request.identify).wf = true := by decide +kernel

theorem witness_HunterFindsFrames :
    ((0x59 : Byte) ≠ 0x5A) ∧ (2 ≤ ([1, 2] : List Byte).length ∧ (List.replicate 240 (0x5A : Byte)).length ≤ 240) ∧
    (([1, 2] : List Byte).length = (2 : Byte).toNat ∧ (0 : Byte) ≠ checkByte [1, 2]) ∧
    ((List.replicate 240 (1 : Byte)).length = (240 : Byte).toNat ∧ (0 : Byte) ≠ checkByte (List.replicate 240 1)) ∧
    ((1 : Byte).toNat < 2 ∧ 240 < (241 : Byte).toNat) := by decide +kernel

theorem witness_BytesAreHunted :
    let held (x : List Byte) : State := idle.modLine .tablet fun u => { u with held := x, rxTimer := some 0 };
    idle.calm = true ∧ (idle.lineAt .tablet).held = [] ∧ (held [0x5A]).calm = true ∧ ((held [0x5A]).lineAt .tablet).held = [0x5A] ∧
    (held [0x5A, 2]).calm = true ∧ ([] : List Byte).length < (2 : Byte).toNat ∧
    (held [0x5A, 2, 1, 7]).calm = true ∧ ([1, 7] : List Byte).length = (2 : Byte).toNat ∧ (0xF6 : Byte) ∈ [checkByte [1, 7], 0xF6] ∧
    (0xF5 : Byte) ≠ checkByte [1, 7] ∧ (∀ x ∈ ((2 : Byte) :: [1, 7] ++ [0xF5] : List Byte), x ≠ 0x5A) ∧
    -- a start byte inside the failed frame: one that goes on, one with a whole frame, one with a further failure
    (held [0x5A, 4, 0x10, 0x5A, 2, 1]).calm = true ∧ ([0x10, 0x5A, 2, 1] : List Byte).length = (4 : Byte).toNat ∧
    (7 : Byte) ≠ checkByte [0x10, 0x5A, 2, 1] ∧ scan 0 [4, 0x10, 0x5A, 2, 1, 7] = ([], [0x5A, 2, 1, 7]) ∧
    (held [0x5A, 5, 0x5A, 2, 1, 7, 0xF6]).calm = true ∧ (9 : Byte) ≠ checkByte [0x5A, 2, 1, 7, 0xF6] ∧
    scan 0 [5, 0x5A, 2, 1, 7, 0xF6, 9] = ([.valid [1, 7]], []) ∧
    (held [0x5A, 2, 0x5A, 0]).calm = true ∧ (9 : Byte) ≠ checkByte [0x5A, 0] ∧ scan 0 [2, 0x5A, 0, 9] = ([.failure], []) := by decide +kernel

theorem witness_FramesWaitOrAreDiscarded :
    let full (l : LineId) (n : Nat) : State :=
      (fourReplies (busyTablet busy) l).modLine l fun u => { u with fifo := List.replicate n [1, 2] };
    let heard (s : State) (l : LineId) (n : Byte) (body : List Byte) : State :=
      s.modLine l fun u => { u with held := 0x5A :: n :: body, rxTimer := some 0 };
    (Instr.allStop .host 7).request? = some (.host, 7, .allStop) ∧ (Instr.identify .tablet 7).request? = some (.tablet, 7, .identify) ∧
    Request.body 7 .allStop = [5, 7] ∧ Request.body 7 .identify = [1, 7] ∧
    ({ idle with softReset := some false } : State).calm = true ∧
    (∀ n ∈ [0, 2, 3, 4], (full .host n).calm = true ∧ (full .tablet n).calm = true) ∧
    ((full .host 0).lineAt .host).replies.length = 4 ∧ ((full .tablet 4).lineAt .tablet).fifo ≠ [] ∧
    (∀ l ∈ [LineId.host, .tablet], ∀ body ∈ ([[0x7F, 7], 0x99 :: 7 :: List.replicate 238 1, [0x05, 7, 0]] : List (List Byte)),
      let n := BitVec.ofNat 8 body.length
      n.toNat = body.length ∧ 2 ≤ body.length ∧ body.length ≤ 240 ∧ (heard (full l 3) l n body).calm = true ∧
        ((heard (full l 3) l n body).lineAt l).held = 0x5A :: n :: body ∧ ((heard (full l 3) l n body).lineAt l).fifo.length = 3) := by
  decide +kernel

theorem witness_LineEventsAct :
    let timed : State := idle.modLine .host fun u => { u with held := [0x5A], rxTimer := some 3 };
    timed.calm = true ∧ (timed.lineAt .host).rxTimer ≠ none ∧ idle.calm = true ∧ (idle.lineAt .tablet).rxTimer = none := by
  decide +kernel

theorem witness_SettlingOnlySends :
    (State.reset.host.fifo = [] ∧ State.reset.tablet.fifo = [] ∧ State.reset.isQuiet = false) ∧
    (let wait : State := { idle with softReset := some false, host := { idle.host with fifo := [[1, 2]] } };
      wait.softReset ≠ none ∧ wait.host.fifo ≠ []) ∧
    (∀ l ∈ [LineId.host, .tablet],
      let many : State := (busyTablet busy).modLine l fun u => { u with replies := List.replicate 3 [0x81, 1, 0], fifo := [[1, 2], [5, 3]] };
      let one : State := (busyTablet busy).modLine l fun u => { u with replies := [], fifo := [[0x20, 2]] };
      let other : LineId := match l with | .host => .tablet | .tablet => .host;
      (many.lineAt l).fifo = [1, 2] :: [[5, 3]] ∧ many.softReset = none ∧ (many.lineAt l).replies.length = 3 ∧
        (many.lineAt other).fifo = [] ∧ (one.lineAt l).fifo = [0x20, 2] :: [] ∧ (one.lineAt l).replies.length < 3 ∧
        4 ≤ ((fourReplies many other).lineAt other).replies.length) ∧
    (∀ l ∈ [LineId.host, .tablet],
      let s : State := (fourReplies (busyTablet busy) l).modLink fun k => { k with radioReady := true };
      let s := s.modLine l fun u => { u with tx := none, fifo := [[1, 2]] };
      (s.lineAt l).tx = none ∧ s.link.radioReady = true ∧ s.link.breakTimer = none ∧
        (s.lineAt l).replies = [0x81, 1, 0] :: List.replicate 3 [0x81, 1, 0] ∧
        s.mayTake .host = false ∧ s.mayTake .tablet = false ∧
        (match l with | .host => s.canBegin .tablet | .tablet => s.canBegin .host) = false) ∧
    (idle.ready .host = true ∧ idle.ready .tablet = true ∧ (Instr.identify .tablet 7).request? = some (.tablet, 7, .identify) ∧
      Request.body 7 .identify = 0x01 :: 7 :: []) := by decide +kernel

theorem witness_TransmissionEndChoosesNext :
    let next (f : State → State) : State := f (busyTablet busy);
    let radio (s : State) : State := s.modLink fun k => { k with radioReady := true };
    let ok (l : LineId) (s : State) : Bool := s.calm && (s.lineAt l).tx.isSome;
    let wait (l : LineId) (s : State) : State := s.modLine l fun u => { u with fifo := [[1, 2], [5, 3]] };
    ok .tablet (next id) = true ∧ (next id).link.radioReady = false ∧
    ok .host (next fun s => fourReplies s .host) = true ∧ ok .tablet (next fun s => radio (fourReplies s .tablet)) = true ∧
    (∀ l ∈ [LineId.host, .tablet],
      let s := wait l (next fun s => radio (fourReplies s l));
      let five := s.modLine l fun u => { u with replies := [9, 9, 0] :: u.replies };
      let due : State := { s with softReset := some false };
      ok l s = true ∧ (s.lineAt l).fifo = [1, 2] :: [[5, 3]] ∧ s.softReset = none ∧
        (s.lineAt l).replies = [0x81, 1, 0] :: List.replicate 3 [0x81, 1, 0] ∧ ok l five = true ∧ (five.lineAt l).replies.length = 5 ∧
        ok l due = true ∧ due.softReset ≠ none) ∧
    (let s := next fun s => { s with attn := { s.attn with power := 1 }, link := { s.link with relay := [[1]] } };
      ok .host s = true ∧ s.waitingSource .host = some .power ∧ s.relayQueue .host = [[1]] ∧
        (s.lineAt .host).replies = [] ∧ (s.lineAt .host).marker ∈ [Turn.attention, Turn.relay]) ∧
    (let s := next fun s => radio ({ s with attn := { s.attn with sound := 9 }, link := { s.link with transmit := [[1], [2]] } }.modSound
        fun e => { e with owner := .remote });
      ok .tablet s = true ∧ s.waitingSource .tablet = some .sound ∧ s.relayQueue .tablet = [[1], [2]]) ∧
    (ok .host (next id) = true ∧ (next id).waitingSource .host = none ∧ (next id).relayQueue .host = []) := by decide +kernel

theorem witness_NoticesReportAndClear :
    (∀ src ∈ Source.all,
      let s : State := { busy with attn := { busy.attn with mask := 0 }.setCount src 3 };
      (s.calm && s.host.tx.isSome && s.host.replies.isEmpty && s.link.relay.isEmpty &&
        s.attn.count src != 0 && !s.attn.mask.getLsbD src.number && (s.port .i0).owner == .brick && s.sound.owner == .brick &&
        Source.all.all fun x => !decide (x.number < src.number) || s.attn.count x == 0) = true) ∧
    (∀ src ∈ [Source.motor .i0, .motor .i5, .sound],
      let s : State := (busyTablet busy).modSound fun e => { e with owner := .remote };
      let s : State := { s with
        motor := s.motor.map fun p => { p with owner := .remote }
        link := { s.link with radioReady := true, transmit := [[1]] }
        tablet := { s.tablet with marker := .attention }
        attn := { { s.attn with mask := 0 }.setCount src 3 with power := 1 } };
      (s.calm && s.tablet.tx.isSome && s.tablet.replies.isEmpty && s.link.breakTimer.isNone && (s.lineAt .tablet).marker == .attention &&
        s.attn.count src != 0 && (s.port .i0).owner == .remote && (s.port .i5).owner == .remote && s.sound.owner == .remote &&
        Source.all.all fun x => !decide (x.number < src.number) || s.attn.count x == 0 || x == .power) = true ∧
      ((after (.transmissionEnd .tablet) s).tablet.tx.map fun f => (f.body.take 4, f.rate)) =
        some ([0x60, 0, BitVec.ofNat 8 src.number, 3], 115200)) := by decide +kernel

theorem witness_DecoderChecksRefuse :
    idle.ready .host = true ∧ idle.ready .tablet = true ∧
    (∀ l ∈ [LineId.host, .tablet], ∀ params ∈ ([[], [1], List.replicate 238 1] : List (List Byte)),
      let n := BitVec.ofNat 8 (params.length + 2)
      let s := idle.modLine l fun u => { u with held := 0x5A :: n :: 0x12 :: 9 :: params, rxTimer := some 0 }
      s.ready l = true ∧ n.toNat = params.length + 2 ∧ params.length ≤ 238 ∧
        (s.lineAt l).held = 0x5A :: n :: 0x12 :: 9 :: params ∧ params.length + 2 ≠ 28) ∧
    (decodeRequest (0x23 :: 9 :: [1, 2, 0x40]) = .badLength ∧ decodeRequest (0x23 :: 9 :: [1]) = .badLength ∧
      decodeRequest (0x23 :: 9 :: [1, 1, 0x40]) ≠ .badLength ∧ decodeRequest (0x32 :: 9 :: [1, 0]) = .badLength ∧
      decodeRequest (0x32 :: 9 :: [0, 1]) ≠ .badLength ∧ decodeRequest [0x44, 1] = .badLength ∧
      decodeRequest (0x41 :: 1 :: List.replicate 239 7) = .badLength ∧ decodeRequest (0x41 :: 1 :: List.replicate 238 7) ≠ .badLength) ∧
    ((Instr.relayUp .host 1 [5]).request? = some (.host, 1, .relayUp [5]) ∧ (Request.relayUp [5]).wf = true ∧
      (Request.relayUp [5]).kind = 0x44) ∧
    ((Instr.allStop .tablet 1).request? = some (.tablet, 1, .allStop) ∧ Request.allStop.wf = true ∧ Request.allStop.kind = 0x05) ∧
    ((Request.powerQuery).kind = 0x39 ∧ idle.link.queryAllowed = false) := by decide +kernel

/-- For every statement that asks no more than that the request is taken as it arrives. -/
theorem witness_ready : idle.ready .host = true ∧ idle.ready .tablet = true ∧ busy.ready .host = true ∧ powered.ready .host = true ∧
    State.reset.settle.ready .host = true := by decide +kernel
theorem witness_IdentifyAnswers : idle.ready .host = true ∧ idle.ready .tablet = true := by decide +kernel
theorem witness_SetWatchSetsPeriod : idle.ready .host = true ∧ idle.ready .tablet = true := by decide +kernel
theorem witness_SetMaskAndReset : idle.ready .host = true := by decide +kernel
theorem witness_AllStopStopsEverything : (onA fun p => { p with act := runs (move (.speed 5)) }).ready .host = true := by decide +kernel

theorem witness_HostWatchExpiryStops :
    let s (w : Watch) : State := { powered with hostUnit := { powered.hostUnit with watch := w } };
    (s (.armed 0)).calm = true ∧ (s .off).calm = true ∧ (s .expired).calm = true ∧ (s (.armed 0)).sound.owner = .brick := by
  decide +kernel

theorem witness_LinkSetupAndReset :
    idle.ready .host = true ∧
    (let r : LinkSetupRaw := ⟨2, 63, 1, 1, 1, 32, 7⟩;
      r.rate.toNat ≤ 2 ∧ r.readMask.toNat < 64 ∧ r.setupAllowed.toNat ≤ 1 ∧ r.queryAllowed.toNat ≤ 1 ∧ r.quietUnit.toNat ≤ 1 ∧
        r.quietSteps.toNat ≤ 32 ∧ r.strikeLimit.toNat ≤ 7) ∧ ¬ (33 : Byte).toNat ≤ 32 ∧ ¬ (64 : Byte).toNat < 64 := by decide +kernel

theorem witness_PayloadsAreQueued :
    1 ≤ ([9] : List Byte).length ∧ (List.replicate 238 (9 : Byte)).length ≤ 238 ∧
    (let s : State := { busy with link := { idle.link with transmit := List.replicate 7 [1], relay := List.replicate 8 [1] } };
      s.ready .host = true ∧ s.ready .tablet = true) ∧ idle.ready .tablet = true := by decide +kernel

theorem witness_QuietTimerStrikes :
    let s (limit strikes : Nat) (timer : Timer) : State := { idle with
      link := { idle.link with state := .up, quietSteps := 1, strikeLimit := limit, strikes := strikes, quietTimer := timer } };
    ((s 0 255 (some 0)).calm = true ∧ (s 0 255 (some 0)).link.strikeLimit = 0) ∧
    ((s 7 5 (some 0)).calm = true ∧ min 255 ((s 7 5 (some 0)).link.strikes + 1) < (s 7 5 (some 0)).link.strikeLimit) ∧
    ((s 1 0 (some 0)).calm = true ∧ 1 ≤ (s 1 0 (some 0)).link.strikeLimit ∧
      (s 1 0 (some 0)).link.strikeLimit ≤ min 255 ((s 1 0 (some 0)).link.strikes + 1) ∧ (s 1 0 (some 0)).link.state = .up) ∧
    ((s 0 0 none).calm = true ∧ (s 0 0 none).link.quietTimer = none) := by decide +kernel

theorem witness_PortSetupIsHeldPending :
    (idle.ready .host = true ∧ (onA fun p => { p with act := runs (move (.speed 1)) }).ready .host = true) ∧
    (PortConfig.inRanges ⟨.normal, .reversed, 100, 100, 0, 0, 0, 0, 100, 0, 20, 0, 20, .coast⟩ = true ∧
      PortConfig.inRanges ⟨.reversed, .normal, 2000, 20000, 2047, 255, 1023, 1000, 1000, 500, 2000, 50, 500, .brake⟩ = true) ∧
    (¬ ∃ (c : PortConfig) (a : Half), c.inRanges = true ∧
      ({ PortConfig.reset.raw with motorPolarity := 2 } : PortConfigRaw) = { c.raw with accel := a }) ∧
    6 ≤ (6 : Byte).toNat ∧ 6 ≤ (255 : Byte).toNat := by
  refine ⟨by decide +kernel, by decide +kernel, ?_, by decide, by decide⟩
  rintro ⟨c, a, -, h⟩
  have h1 := congrArg PortConfigRaw.motorPolarity h
  cases hc : c.motorPolarity <;> simp [PortConfig.raw, hc, Polarity.code] at h1

/-- The records of R4's five kinds, with their clamps. -/
theorem witness_MoveCompletes :
    MoveCompletes .host 1000 (Six.all false) { mv0 with speed := BitVec.ofInt 16 (-1001) } ⟨.speed (-1000), .coast, 0, none, 0, .brick⟩ ∧
    MoveCompletes .host 1000 (Six.all false) { mv0 with kind := 1, endAction := 1, tag := 9 }
      ⟨.timed 0 1, .brake, 0, none, 9, .brick⟩ ∧
    MoveCompletes .tablet 1000 (Six.all true)
      { mv0 with kind := 2, speed := 500, target := 5, endAction := 2, group := 15, guardPresent := 1, guardPort := 6
                 guardIndex := 3, guardComparison := 4, guardStrict := 1 }
      ⟨.position 500 5, .hold, 15, some ⟨.i5, 3, .changed, 0, true⟩, 0, .remote⟩ ∧
    MoveCompletes .tablet 1000 (Six.all false) { mv0 with kind := 3, target := 0x80000000 }
      ⟨.relative 1 (-2147483648), .coast, 0, none, 0, .remote⟩ ∧
    MoveCompletes .host 1000 (Six.all false) { mv0 with kind := 4, restStyle := 2, duration := 600001 }
      ⟨.rest .hold 600000, .coast, 0, none, 0, .brick⟩ :=
  ⟨⟨.inl (by decide), by decide, by decide, .inl (by decide), by decide, by decide⟩,
   ⟨.inr (.inl (by decide)), by decide, by decide, .inl (by decide), by decide, by decide⟩,
   ⟨.inr (.inr (.inl (by decide))), by decide, by decide,
     .inr ⟨by decide, ⟨.i5, 3, .changed, 0, true⟩, by decide, by decide, by decide, by decide, by decide, by decide, by decide,
       by decide⟩, by decide, by decide⟩,
   ⟨.inr (.inr (.inr (.inl (by decide)))), by decide, by decide, .inl (by decide), by decide, by decide⟩,
   ⟨.inr (.inr (.inr (.inr ⟨by decide, .hold, by decide, by decide⟩))), by decide, by decide, .inl (by decide), by decide,
     by decide⟩⟩

/-- Records refused by one field each, in the order of R4 and R99, and the last ones that are not. -/
theorem witness_MoveRefusals :
    (∀ r ∈ [{ mv0 with kind := 5 }, { mv0 with kind := 2, target := 0x80000000 }, { mv0 with kind := 4, restStyle := 3 },
        { mv0 with endAction := 3 }], ¬ r.fieldsFit) ∧
    (∀ r ∈ [{ mv0 with kind := 3, target := 0x80000000, restStyle := 3 }, { mv0 with kind := 4, restStyle := 2, endAction := 2 }],
      r.fieldsFit) ∧
    (∀ r ∈ [{ mv0 with guardPresent := 2 }, { mv0 with guardPresent := 1 }, { mv0 with guardPresent := 1, guardPort := 7 },
        { mv0 with guardPresent := 1, guardPort := 1, guardIndex := 4 },
        { mv0 with guardPresent := 1, guardPort := 1, guardComparison := 5 },
        { mv0 with guardPresent := 1, guardPort := 1, guardStrict := 2 }], r.fieldsFit ∧ ¬ r.guardFits) ∧
    (let r := { mv0 with guardPresent := 1, guardPort := 6, guardIndex := 3, guardComparison := 4, guardStrict := 1 };
      r.fieldsFit ∧ r.guardFits ∧ ¬ r.guardAllowed .tablet (Six.all false) ∧ r.guardAllowed .tablet ((Six.all false).set .i5 true)) ∧
    ((grouped (.rest .free)).isMember 2 .i0 = false ∧ (grouped (.rest .free)).isMember 1 .i1 = false ∧
      (grouped (.rest .free)).ready .host = true ∧ ((grouped (.rest .free)).port .i0).owner = issuerOf .host ∧
      (grouped (.rest .free)).powerHeld = false) := by
  unfold MoveRaw.fieldsFit MoveRaw.guardFits MoveRaw.guardAllowed
  refine ⟨by decide, by decide, by decide, ⟨by decide, by decide, ?_, .inr (.inr ⟨.i5, by decide, by decide⟩)⟩, by decide +kernel⟩
  rintro (h | h | ⟨i, -, h⟩)
  · exact absurd h (by decide)
  · exact absurd h (by decide)
  · cases i <;> exact absurd h (by decide)

theorem witness_MoveIsQueued :
    MoveCompletes .host (match (powered.port .i0).pendingConfig with | some c => c.maxSpeed | none => (powered.port .i0).config.maxSpeed)
      powered.link.readMask { mv0 with speed := 1000 } ⟨.speed 1000, .coast, 0, none, 0, .brick⟩ ∧
    (let s (n : Nat) : State := onA fun p => { p with queue := List.replicate n (move (.speed 1)), act := runs (move (.timed 5 9)) };
      ((s 7).ready .host && (s 8).ready .host && ((s 8).port .i0).owner == issuerOf .host && !(s 8).powerHeld) = true) ∧
    (grouped (.rest .braked)).isMember 1 .i0 = true ∧ (grouped (.rest .braked)).ready .host = true := by
  refine ⟨⟨.inl ?_, ?_, ?_, .inl ?_, ?_, ?_⟩, ?_, ?_⟩ <;> decide +kernel

theorem witness_DriveRequestRefusals :
    idle.ready .tablet = true ∧ 6 ≤ (6 : Byte).toNat ∧ (idle.port .i5).owner ≠ issuerOf .tablet ∧
    (let s : State := { idle with supply := { idle.supply with mode := .recovery } };
      s.ready .host = true ∧ (s.port .i0).owner = issuerOf .host ∧ s.powerHeld = true) := by decide +kernel

theorem witness_MoveNowReplacesQueue :
    MoveCompletes .host (match (powered.port .i2).pendingConfig with | some c => c.maxSpeed | none => (powered.port .i2).config.maxSpeed)
      powered.link.readMask { mv0 with speed := 1000 } ⟨.speed 1000, .coast, 0, none, 0, .brick⟩ ∧
    MoveCompletes .host 1000 (Six.all false) { mv0 with group := 1 } ⟨.speed 0, .coast, 1, none, 0, .brick⟩ ∧
    ((grouped (.groupWait .free)).ready .host && !(grouped (.groupWait .free)).powerHeld &&
      ((grouped (.groupWait .free)).port .i2).owner == issuerOf .host) = true := by
  refine ⟨⟨.inl ?_, ?_, ?_, .inl ?_, ?_, ?_⟩, ⟨.inl ?_, ?_, ?_, .inl ?_, ?_, ?_⟩, ?_⟩ <;> decide +kernel

theorem witness_QueueClearDiscards :
    (onA fun p => { p with act := runs (move (.speed 5)), queue := [move (.speed 6)] }).ready .host = true ∧
    (powered.port .i0).owner = issuerOf .host ∧ 2 ≤ (2 : Byte).toNat ∧ (grouped (.groupWait .free)).ready .host = true := by
  decide +kernel

theorem witness_PresetSetsPosition :
    powered.ready .host = true ∧ (powered.port .i3).owner = issuerOf .host ∧ (0x80000000 : Word).toInt = -2147483648 ∧
    (onA fun p => { p with owner := .remote, act := .rest .holding }).ready .tablet = true := by decide +kernel
theorem witness_GroupDefineSetsEntry : idle.ready .host = true ∧ (grouped (.rest .free)).ready .tablet = true := by decide +kernel
theorem witness_SetOwnersFailStops :
    idle.ready .host = true ∧
    (let r : OwnersRaw := ⟨Six.all 0, 2⟩; (r.sound :: Idx6.all.map r.motor.get).any (fun b => 2 ≤ b.toNat)) = true := by
  decide +kernel
theorem witness_EncoderTransitionCounts :
    idle.calm = true ∧ ((idle.port .i0).refPair = (false, false)) ∧ (onA fun p => { p with rawCount := 32767, encErrors := 65535 }).calm = true := by
  decide +kernel

theorem witness_RegulationOfIdlePort :
    powered.calm = true ∧ (powered.port .i4).queue = [] ∧ (powered.port .i4).act = .rest .free ∧
    (onA fun p => { p with act := .shutdown }).calm = true := by decide +kernel

/-- What the words of a regulation event find: a group head that waits over FREE, an empty queue in HOLDING, its stall, and a head
whose group has lost the port. -/
theorem witness_RegulationOfIdlePort_stands :
    (let s : State := (grouped (.rest .free)).modPort .i2 fun p => { p with act := .rest .free };
      s.calm = true ∧ (s.port .i0).act ≠ .shutdown ∧ (s.atDecision .i0).standing .i0 = some (.groupWait .free)) ∧
    (∀ n ∈ [0, 195], let s := onA fun p => { p with
        act := .rest .holding, duty := 0, stallTimer := n, holdTarget := 2000, integral := 256000, ceiling := 700 };
      let a := s.atDecision .i0;
      let held := { (a.port .i0).driven (a.port .i0).holdPull with act := .rest .holding }.strained;
      s.calm = true ∧ a.standing .i0 = some (.rest .holding) ∧
        (held.stallTimer < held.config.stallTime ↔ n = 0)) ∧
    (let s := onA fun p => { p with act := .groupWait .braked, queue := [{ move (.speed 1) with group := 3 }] };
      s.calm = true ∧ (s.atDecision .i0).standing .i0 = some (.rest .braked) ∧
        (((s.atDecision .i0).port .i0).outcomes.map (·.outcome)) = [.groupBroken]) := by decide +kernel

theorem witness_RegulationRunsSpeedMove_any :
    (∀ mo ∈ [Motion.rest .hold 5, .rest .coast 600000, .rest .brake 0, .relative 100 9, .timed 5 5], ∀ q ∈ [[], [move (.speed 1)]],
      let s := onA fun p => { p with act := runs (move mo) (some 9), queue := q };
      s.calm = true ∧ (mo = .rest .brake 0 ∧ q ≠ [] ∨ (s.atDecision .i0).standing .i0 = some (runs (move mo) (some 9))) ∧
        (runs (move mo) (some 9) = .running ⟨move mo, .cruise, 0, false, some 9, none⟩) ∧
        Running.arrives ⟨move mo, .cruise, 0, false, some 9, none⟩ ((s.atDecision .i0).port .i0) = false) ∧
    (let s : State := (grouped (runs (move (.speed 8)))).modPort .i2 fun p => { p with act := .rest .free };
      s.calm = true ∧ (s.atDecision .i0).standing .i0 = some (.running ⟨move (.speed 8), .cruise, 0, true, none, none⟩)) := by
  decide +kernel

theorem witness_RegulationRunsSpeedMove :
    (let s := onA fun p => { p with act := runs (move (.speed 300)) };
      s.calm = true ∧ (s.port .i0).act = runs (move (.speed 300)) ∧ (s.port .i0).queue = []) ∧
    (let s := onA fun p => { p with act := runs (move (.timed (-300) 5)), stallTimer := 195 };
      s.calm = true ∧ (s.port .i0).act = runs (move (.timed (-300) 5)) ∧ (s.port .i0).queue = []) := by decide +kernel

theorem witness_RegulationStartsHead :
    (let s := onA fun p => { p with act := .rest .holding, queue := [move (.timed 5 9), move (.speed 1)] };
      s.calm = true ∧ (s.port .i0).queue = move (.timed 5 9) :: [move (.speed 1)] ∧ (s.port .i0).configsInRanges = true) ∧
    (let s := onA fun p => { p with act := runs (move (.speed 8)), queue := [move (.speed 1)] };
      s.calm = true ∧ (s.port .i0).act = runs (move (.speed 8)) ∧ (move (.speed 8)).yields = true) ∧
    (let s := onA fun p => { p with act := runs (move (.timed 8 9)), queue := [move (.speed 1)], replacing := true };
      s.calm = true ∧ (s.port .i0).replacing = true) := by decide +kernel

theorem witness_RegulationStartsHead_any :
    (∀ mo ∈ [Motion.position 100 5, .relative 100 0, .rest .hold 5, .rest .coast 0, .speed 9],
      let head : Move := { move mo with guard := some (guardOf .atLeast true) };
      let s := onA fun p => { p with act := .rest .stalled, queue := [{ move (.speed 1) with group := 3 }, head] };
      s.calm = true ∧ ((s.atDecision .i0).port .i0).act = .rest .stalled ∧ head.group = 0 ∧
        ((s.atDecision .i0).port .i0).queue.head? = some head) ∧
    (∀ replacing ∈ [true, false], let s := onA fun p => { p with
        act := runs (move (.rest .hold 0)), queue := [move (.relative 100 3)], replacing := replacing };
      s.calm = true ∧ ((s.atDecision .i0).port .i0).act = runs (move (.rest .hold 0)) ∧
        ((s.atDecision .i0).port .i0).replacing = replacing ∧ (move (.rest .hold 0)).yields = true ∧
        ((s.atDecision .i0).port .i0).queue.head? = some (move (.relative 100 3))) := by decide +kernel

/-- A move that arrives: with nothing waiting, with a head that starts, and with a group head that waits. -/
theorem witness_RegulationRunsPositionMove_arrives :
    ∀ q ∈ [[], [move (.relative 100 0), move (.speed 1)], [{ move (.speed 1) with group := 1 }]],
      let r : Running := ⟨move (.position 500 3), .approach, 0, false, some 3, none⟩;
      let s : State := ((grouped (.rest .free)).modPort .i0 fun p => { p with act := .running r, queue := q }).modPort .i2 fun p =>
        { p with act := .rest .free };
      s.calm = true ∧ (s.atDecision .i0).standing .i0 = some (.running r) ∧ r.arrives ((s.atDecision .i0).port .i0) = true ∧
        (((s.atDecision .i0).moveEnded .i0 r.move .done).followed .i0).isSome =
          (q.head?.map (·.group) == some 0) := by decide +kernel

theorem witness_RegulationRunsPositionMove :
    ∀ x ∈ [(3 : Int), 4, -5000],
      let s := onA fun p => { p with act := runs (move (.position 500 x)) (some x), config := { p.config with stallSpeed := 0 } };
      (s.calm && (s.port .i0).queue.isEmpty && ((s.port .i0).atEvent s.supply.product).config.stallSpeed == 0 &&
        decide (0 < ((s.port .i0).atEvent s.supply.product).config.stallTime)) = true := by decide +kernel

theorem witness_GuardEndsMove :
    let s (c : Comparison) (strict : Bool) (status : ReadingStatus) (v : Int) (prev : Option (Int × Half)) : State :=
      (onA fun p => { p with
        act := .running ⟨{ move (.speed 100) with guard := some (guardOf c strict) }, .cruise, 0, false, none, prev⟩
        config := { p.config with stallSpeed := 0 } }).modSensor .i0 fun q =>
          { q with record := ⟨.analog, status, 7, 0, 3, ⟨v, 0, 0, 0⟩, 0⟩ };
    (∀ x ∈ [s .atLeast true .fresh 10 none, s .atMost true .fresh 10 none, s .crossUp true .fresh 10 (some (9, 6)),
        s .crossDown true .fresh 10 (some (11, 6)), s .changed true .fresh 10 (some (11, 6)), s .changed true .fresh 10 (some (11, 7)),
        s .atLeast true .fresh 9 none, s .atLeast true .stale 10 none, s .atLeast false .none 10 none],
      (x.calm && (x.port .i0).queue.isEmpty && ((x.port .i0).atEvent x.supply.product).config.stallSpeed == 0 &&
        decide (0 < ((x.port .i0).atEvent x.supply.product).config.stallTime)) = true) := by decide +kernel

/-- Guarded moves of other kinds: a guard that ends the move, and one that does not. -/
theorem witness_GuardEndsMove_any :
    ∀ mo ∈ [Motion.rest .brake 0, .relative 100 90, .timed 5 5], ∀ st ∈ [ReadingStatus.fresh, .stale],
      let r : Running := ⟨{ move mo with guard := some (guardOf .atLeast true) }, .cruise, 0, false, some 90, none⟩;
      let s : State := (onA fun p => { p with act := .running r, queue := [{ move (.speed 1) with group := 1 }] }).modSensor .i0 fun q =>
        { q with record := ⟨.analog, st, 7, 0, 3, ⟨9, 0, 0, 0⟩, 0⟩ };
      let t : State := { s with groups := s.groups.set 0 (some (Six.all true)) };
      t.calm = true ∧ (t.atDecision .i0).standing .i0 = some (.running r) ∧ r.arrives ((t.atDecision .i0).port .i0) = false ∧
        t.guardEnd r = (if st = .fresh then none else some .guardLost) := by decide +kernel

theorem witness_GroupStartsTogether :
    (∀ act ∈ [Activity.rest .braked, .groupWait .holding, runs (move (.speed 8)), runs (move (.rest .hold 0))],
      let s := grouped act;
      let a := s.atDecision .i0;
      s.calm = true ∧ (a.port .i0).queue.head? = some { move (.speed 100) with group := 1 } ∧
        (a.port .i0).replacing = false ∧ a.groupLacks 1 .i0 = false ∧ (a.port .i0).act = act) ∧
    (move (.speed 8)).yields = true ∧ (move (.rest .hold 0)).yields = true ∧ (move (.rest .hold 1)).yields = false := by
  decide +kernel

theorem witness_PowerSetupReplacesThresholds :
    idle.ready .host = true ∧ idle.ready .tablet = true ∧
    ((∀ x ∈ [(5001 : Half), 5000, 5001], 5000 ≤ x.toNat ∧ x.toNat ≤ 9500) ∧ 500 ≤ (500 : Half).toNat ∧
      (500 : Half).toNat ≤ 6000 ∧ (5000 : Half).toNat < (5001 : Half).toNat ∧ (5001 : Half).toNat ≤ (5001 : Half).toNat) ∧
    ((∀ x ∈ [(9500 : Half), 9499, 9500], 5000 ≤ x.toNat ∧ x.toNat ≤ 9500) ∧ (6000 : Half).toNat ≤ 6000 ∧
      (9499 : Half).toNat < (9500 : Half).toNat) ∧
    ¬ (6200 : Half).toNat < (6200 : Half).toNat := by
  refine ⟨by decide +kernel, by decide +kernel, ?_, ?_, ?_⟩ <;> simp

theorem witness_DueChannelsAreServedInOrder :
    let analog (r : ReadingStatus) : State := onS fun p => { p with
      work := .analog ⟨10, 4, [], 0⟩, record := { p.record with mode := .analog, status := r } };
    idle.calm = true ∧ (analog .stale).calm = true ∧ ((analog .stale).sensorAt .i0).work = .analog ⟨10, 4, [], 0⟩ ∧
    ((analog .stale).sensorAt .i0).record.status ≠ .fault ∧ (analog .fault).calm = true ∧
    (idle.sensorAt .i5).mode ≠ .analog ∧
    (let c : Converter := { idle.conv with due := ⟨false, false, Six.all true⟩, lastServed := .i2, inFlight := none };
      ∀ j ∈ Idx6.all, (Idx6.i3.toNat + 5 - c.lastServed.toNat) % 6 ≤ (j.toNat + 5 - c.lastServed.toNat) % 6) := by decide +kernel

/-- A battery conversion in flight in each supply state, with this filtered voltage. -/
def battery (m : SupplyMode) (vf : Nat) (hold : Timer := none) : State :=
  { powered with
    supply := { powered.supply with mode := m, vf := vf, hold := hold }
    conv := { powered.conv with inFlight := some ⟨.battery, false⟩ } }

/-- The filtered voltage after a battery sample of this raw value. -/
def filtered (raw : BitVec 12) (u : Supply) : Nat :=
  if u.seeded then ((u.vf : Int) + (((raw.toNat * 12000 / 4095 : Nat) : Int) - u.vf).tdiv 8).toNat else raw.toNat * 12000 / 4095

/-- The states of PowerSetupReplacesThresholds's clauses on the next filter update, each at its boundary. -/
theorem witness_PowerSetupIsUsedNext :
    ((battery .normal 5800).batterySample 5800).supply.mode = .critical ∧ ((battery .low 6600).batterySample 6600).supply.mode = .normal ∧
    ((battery .normal 6599).batterySample 6599).supply.mode = .low ∧ ((battery .critical 6200).batterySample 6200).supply.mode = .recovery ∧
    ((battery .recovery 6199 (some 0)).batterySample 6199).supply.mode = .recovery ∧
    ((battery .recovery 6199 (some 0)).batterySample 6199).supply.hold = none ∧
    ((battery .recovery 6200 none).batterySample 6200).supply.hold ≠ none := by decide +kernel

theorem witness_ConversionsUpdateSupply :
    (∀ s ∈ [battery .pending 6600, battery .normal 9000, battery .normal 6600, battery .low 6599, battery .critical 6199,
        battery .critical 6210, battery .recovery 6205 (some 0), battery .recovery 6199 none,
        { powered with conv := { powered.conv with inFlight := some ⟨.current, false⟩ } },
        { powered with conv := { powered.conv with inFlight := some ⟨.sensor .i3, true⟩ } }], s.calm = true ∧ s.conv.inFlight.isSome) ∧
    (filtered 4095 (battery .critical 6100).supply, filtered 2048 (battery .normal 9000).supply) = (6837, 8626) := by decide +kernel

theorem witness_CriticalEntryAndReturn :
    (∀ s ∈ [battery .pending 5800, battery .normal 5801, battery .low 5801, battery .recovery 5801 (some 0)],
      s.calm = true ∧ s.conv.inFlight = some ⟨.battery, false⟩ ∧ s.supply.mode ≠ .critical ∧
        filtered 1900 s.supply ≤ s.supply.vCritical) ∧
    (∀ vf ∈ [6600, 6599, 6200], let s := { onSupply fun u => { u with mode := .recovery, vf := vf, hold := some 0 } with
        motor := powered.motor.map Port.enterShutdown };
      s.calm = true ∧ s.supply.mode = .recovery ∧ s.supply.hold ≠ none) ∧
    powered.calm = true ∧ powered.supply.mode ≠ .recovery := by decide +kernel

theorem witness_QueriesChangeNothing :
    idle.ready .host = true ∧ (6 ≤ (6 : Byte).toNat ∧ ((0 : Byte).toNat = 0 ∧ 6 < (7 : Byte).toNat)) ∧
    (idle.ready .tablet = true ∧ idle.link.readMask.get .i5 = false) ∧
    (let s : State := { idle with link := { idle.link with queryAllowed := true, readMask := Six.all true } };
      s.ready .tablet = true ∧ s.link.queryAllowed = true ∧ s.link.readMask.get .i3 = true) ∧
    (∀ x ∈ [LineState.accepting, .starting, .streaming, .switching], let s := smart x;
      s.ready .host = true ∧ (s.sensorAt .i0).work = .smart ∧ (s.sensorAt .i0).smart.running = true ∧
        (s.sensorAt .i0).smart.lineState ≠ .listen ∧ (s.sensorAt .i0).smart.lineState ≠ .announcing ∧
        (s.sensorAt .i0).smart.profile = some profile) ∧ profile.isWhole = true ∧ (smart .listen).ready .host = true := by
  decide +kernel

theorem witness_SensorSetupEntersMode :
    idle.ready .host = true ∧ (smart .streaming).ready .host = true ∧
    ({ idle with link := { idle.link with setupAllowed := true, readMask := Six.all true } } : State).ready .tablet = true ∧
    ((0 : Byte).toNat = 0 ∧ 6 < (7 : Byte).toNat) ∧ ¬ (LineId.tablet = .host ∨ idle.link.setupAllowed = true) ∧
    (5 ≤ (5 : Byte).toNat ∧ 4 ≤ (4 : Byte).toNat) ∧
    ({ setup0 with policy := 2, delta := 2147483647 }.delta.toNat ≤ 2147483647) ∧
    ({ setup0 with policy := 3, interval := 9 }.interval.toNat < 10 ∧ 10000 < { setup0 with policy := 3, interval := 10001 }.interval.toNat) ∧
    (∀ a ∈ [(1 : Byte), 2, 4, 8], a.toNat ∈ [1, 2, 4, 8]) ∧
    (pullOf 0 = some .none ∧ pullOf 1 = some .up ∧ pullOf 2 = some .down) ∧
    (directionOf 0 = some .input ∧ directionOf 1 = some .outputLow ∧ directionOf 2 = some .outputHigh) ∧
    (edgeOf 0 = some .rise ∧ edgeOf 1 = some .fall ∧ edgeOf 2 = some .both ∧ (50 : Byte).toNat ≤ 50) ∧
    ((3 : Byte).toNat ≤ 3 ∧ (7 : Byte).toNat ≤ 7) := by decide +kernel

/-- Setups refused by one field each of R61, and the same field where nothing uses it. -/
theorem witness_SensorSetupRefusals :
    (∀ r ∈ [{ setup0 with mode := 5 }, { setup0 with mode := 1, averaging := 3 }, { setup0 with mode := 2, pullA := 3 },
        { setup0 with mode := 3, pullB := 3 }, { setup0 with mode := 2, directionA := 3 }, { setup0 with mode := 2, directionB := 3 },
        { setup0 with mode := 2, debounceA := 51 }, { setup0 with mode := 2, debounceB := 51 }, { setup0 with mode := 2, edgeA := 3 },
        { setup0 with mode := 2, edgeB := 3 }, { setup0 with mode := 3, countingEdge := 2 }, { setup0 with mode := 3, gate := 2 },
        { setup0 with mode := 4, maxRate := 4 }, { setup0 with mode := 4, preferred := 8 }, { setup0 with policy := 4 },
        { setup0 with policy := 2, delta := 0x80000000 }], ¬ r.fieldsFit) ∧
    (∀ r ∈ [{ setup0 with averaging := 3, pullA := 9, maxRate := 9, delta := 0x80000000 },
        { setup0 with mode := 2, debounceA := 50, debounceB := 50, countingEdge := 2 },
        { setup0 with mode := 4, maxRate := 3, preferred := 7, policy := 2, delta := 0x7FFFFFFF }], r.fieldsFit) := by
  simp [SensorSetupRaw.fieldsFit, setup0]

/-- The pins of a port in every mode, and of a SMART port with its controller stopped. -/
theorem witness_SensorPins :
    idle.inReset = false ∧ (idle.sensorAt .i0).work = .off ∧
    ((onS fun p => { p with work := .analog ⟨5, 1, [], 0⟩ }).sensorAt .i0).work = .analog ⟨5, 1, [], 0⟩ ∧
    (∀ c ∈ [fun c : Smart => c, fun c => { c with tx := some [0xA1, 2, 0x5C] }, fun c => { c with running := false }],
      ((smart .streaming c).sensorAt .i0).work = .smart ∧ (smart .streaming c).inReset = false) := by decide +kernel

theorem witness_AnalogResultIsAveraged :
    ∀ w ∈ [(⟨5, 1, [], 0⟩ : AnalogWork), ⟨1000, 8, List.replicate 8 4095, 0⟩], ∀ d ∈ [Drive.driven true, .nothing],
      let s := onS fun p => { p with work := .analog w, driveA := d, policy := .change 5 (some 10) };
      let t : State := { s with conv := { s.conv with inFlight := some ⟨.sensor .i0, false⟩ } };
      t.calm = true ∧ t.conv.inFlight = some ⟨.sensor .i0, false⟩ ∧ (t.sensorAt .i0).work = .analog w := by decide +kernel

theorem witness_DigitalPinsAreDebounced :
    let s (q : DigitalPin) (r : ReadingStatus) : State := onS fun p => { p with
      work := .digital q switchPin, driveA := .driven true, record := { p.record with status := r } };
    (∀ q ∈ [switchPin, { switchPin with level := false }, { switchPin with debounce := 0 }, { switchPin with timer := some 0 },
        { switchPin with direction := .outputLow }],
      (s q .fresh).calm = true ∧ ((s q .fresh).sensorAt .i0).work = .digital q switchPin) ∧
    ((s switchPin .fresh).sensorAt .i0).driveA ≠ .driven false ∧ ((s switchPin .fresh).sensorAt .i0).record.status ≠ .fault ∧
    (s switchPin .fault).calm = true ∧ ((s switchPin .fault).sensorAt .i0).record.status = .fault := by decide +kernel

theorem witness_CounterCountsEdges :
    let w : CounterWork := ⟨.up, .up, false, true, true, 4294967295, 0, some 0, true⟩;
    let s (w : CounterWork) (r : ReadingStatus) : State := onS fun p => { p with
      work := .counter w, driveA := .driven false, record := { p.record with status := r } };
    (∀ x ∈ [w, { w with falling := true }, { w with armed := false }, { w with gateLevel := false }, { w with gated := false }],
      (s x .fresh).calm = true ∧ ((s x .fresh).sensorAt .i0).work = .counter x) ∧
    ((s w .fresh).sensorAt .i0).driveA ≠ .driven true ∧ (false ≠ w.gateLevel ∧ true = w.gateLevel) ∧
    (s w .fault).calm = true ∧ ((s w .fault).sensorAt .i0).record.status = .fault := by decide +kernel

theorem witness_OverloadAndReportPolicies :
    (let s := smart .streaming;
      s.calm = true ∧ (s.sensorAt .i0).mode ≠ .off ∧ (s.sensorAt .i0).supplyOn = true) ∧
    (idle.calm = true ∧ (idle.sensorAt .i0).mode = .off ∧ (idle.sensorAt .i0).policy = .none) ∧
    (∀ r ∈ [ReadingStatus.fresh, .stale], let s := onS fun p => { p with policy := .interval 10 (some 0), record := { p.record with status := r } };
      s.calm = true ∧ (s.sensorAt .i0).policy = .interval 10 (some 0)) ∧
    ((onS fun p => { p with policy := .every }).sensorAt .i0).policy = .every ∧
    (∀ ref ∈ [none, some (5 : Int), some 6], ((onS fun p => { p with
        policy := .change 5 ref, record := { p.record with status := .fresh, values := ⟨10, 0, 0, 0⟩ } }).sensorAt .i0).policy =
          .change 5 ref) := by decide +kernel

theorem witness_SmartRequestsAct :
    (∀ x ∈ [LineState.listen, .announcing, .accepting, .starting, .streaming, .switching],
      (smart x).ready .host = true ∧ ((smart x).sensorAt .i0).work = .smart ∧ ((smart x).sensorAt .i0).smart.running = true ∧
        ((smart x).sensorAt .i0).smart.profile = some profile) ∧
    (idle.ready .host = true ∧ idle.ready .tablet = true ∧ idle.link.setupAllowed = false) ∧
    (List.replicate 24 (1 : Byte)).length = (24 : Byte).toNat ∧ (List.replicate 236 (1 : Byte)).length ≤ 236 ∧
    ((2 : Byte).toNat < profile.modeCount ∧ profile.modeCount ≤ (3 : Byte).toNat) ∧
    (let s := smart .streaming fun c => { c with tx := some [0xE0, 0x1F], cmdFifo := [List.replicate 20 1] };
      s.ready .host = true ∧ 32 - ((s.sensorAt .i0).smart.cmdFifo.map List.length).sum < 11 + 2 ∧
        10 + 2 ≤ 32 - ((s.sensorAt .i0).smart.cmdFifo.map List.length).sum) := by decide +kernel

/-- Whole records: an ANNOUNCE, a MODE_INFO, an ANNOUNCE_END, a DATA record of mode 1 and one of mode 0. -/
def announceRec : List Byte := [0x24, 0x31, 0, 3, 3, 0xFF ^^^ 0x24 ^^^ 0x31]
def modeInfoRec : List Byte := [0x46, 2, 3, 0, 0, 1, 0x43, 0xFA]
def dataRec : List Byte := [0x83, 1, 0x2C, 1, 0x50]

theorem witness_SmartCharactersAreParsed :
    (idle.calm = true ∧ (idle.sensorAt .i0).smart.running = false) ∧
    (∀ x ∈ [LineState.listen, .announcing, .accepting, .starting, .streaming, .switching],
      let s := smart x fun c => { c with parser := some dataRec.dropLast };
      s.calm = true ∧ (s.sensorAt .i0).smart.running = true ∧ (s.sensorAt .i0).smart.rxFifo = [] ∧
        (s.sensorAt .i0).smart.lostMark = false ∧ (s.sensorAt .i0).smart.profile = some profile ∧ (s.sensorAt .i0).work = .smart) ∧
    (∀ r ∈ [announceRec, modeInfoRec, [0x60, 0x9F], dataRec, [0x01, 0, 0xFE], [0xA1, 2, 0x5C]],
      r.foldl (· ^^^ ·) 0 = 0xFF ∧ r.length = (r.headD 0).toNat % 32 + 2) ∧
    ([announceRec, modeInfoRec, [0x60, 0x9F], dataRec, [0x01, 0, 0xFE], [0xA1, 2, 0x5C]].map fun r => (r.headD 0).toNat / 32) =
      [1, 2, 3, 4, 0, 5] ∧
    (profile.mode 1 = some ⟨1, 1, .int16, 0, [0x41]⟩ ∧ 3 = 1 + 1 * ValueFormat.int16.size) ∧
    -- a character after a loss; DATA records beyond the mode count, of a wrong length, and of another mode; and a busy transmitter
    (smart .streaming fun c => { c with lostMark := true }).calm = true ∧
    (∀ r ∈ [[0x82, 3, 0, 0x7E], [0x82, 1, 0, 0x7C], [0x82, 0, 0x2A, 0x57]],
      r.foldl (· ^^^ ·) (0 : Byte) = 0xFF ∧ (r.headD 0).toNat / 32 = 4 ∧ r.length = (r.headD 0).toNat % 32 + 2) ∧
    (profile.modeCount ≤ (3 : Byte).toNat ∧ 2 ≠ 1 + 1 * ValueFormat.int16.size ∧
      profile.mode 0 = some ⟨0, 1, .int8, 0, [0x52]⟩ ∧ 2 = 1 + 1 * ValueFormat.int8.size ∧ (some 1 : Option Nat) ≠ some 0) ∧
    (smart .announcing fun c => { c with parser := some [0x60], tx := some [0xE0, 0x1F] }).calm = true := by decide +kernel

theorem witness_SmartTimersExpire :
    let s (f : Smart → Smart) : State := smart .streaming f;
    ((s fun c => { c with pauseTimer := some 0, parser := some [0x83] }).calm = true) ∧
    (s id).calm = true ∧ ((s id).sensorAt .i0).smart.pauseTimer = none ∧ ((s id).sensorAt .i0).smart.announceTimer = none ∧
    ((s id).sensorAt .i0).smart.switchTimer = none ∧ ((s id).sensorAt .i0).smart.nudgeTimer = none ∧
    ((s id).sensorAt .i0).smart.lossTimer = none ∧ ((s id).sensorAt .i0).smart.tx = none ∧
    (smart .announcing fun c => { c with announceTimer := some 0 }).calm = true ∧
    (let t := smart .accepting fun c => { c with switchTimer := some 0, preferred := 7 };
      t.calm = true ∧ (t.sensorAt .i0).smart.running = true ∧ (t.sensorAt .i0).smart.tx = none ∧
        (t.sensorAt .i0).smart.profile = some profile) ∧
    (s fun c => { c with nudgeTimer := some 160 }).calm = true ∧
    (s fun c => { c with nudgeTimer := some 160, tx := some [0xE0, 0x1F] }).calm = true ∧
    (s fun c => { c with lossTimer := some 0 }).calm = true ∧
    (smart .accepting fun c => { c with tx := some [0xA1, 2, 0x5C], slot := some [0xC1, 1, 0x3F] }).calm = true := by decide +kernel

theorem witness_SoundRequestsAct :
    (powered.ready .host && powered.ready .tablet && !powered.powerHeld && powered.sound.owner == issuerOf .host &&
      powered.sound.owner != issuerOf .tablet && powered.sound.player == .idle && powered.sound.queue.isEmpty) = true ∧
    (idle.modSupply fun u => { u with mode := .critical }).powerHeld = true ∧
    (idle.modSupply fun u => { u with mode := .critical }).ready .host = true ∧
    (waveformOf 1 = some .sine ∧ formatOf 2 = some .companded8 ∧ (8000 : Half).toNat = 8000 ∧ (16000 : Half).toNat = 16000) ∧
    (∀ n ∈ [3, 4], let s := onE fun e => { e with
        queue := List.replicate n ⟨.tone 50 1 .sine, 0, .brick⟩, player := .playing ⟨1, .brick, .tone (ToneGen.start 50 1 .sine)⟩ };
      s.ready .host = true ∧ s.sound.queue.length = n ∧ s.sound.player ≠ .idle) ∧
    (onE fun e => { e with ring := List.replicate 4096 0, marks := [1, 2, 3, 4] }).ready .host = true ∧
    (onE fun e => { e with player := .immediate (ToneGen.start 50 1 .square) none }).ready .host = true ∧
    (List.replicate 224 (0 : Byte)).length = (224 : Byte).toNat ∧ (List.replicate 236 (0 : Byte)).length ≤ 236 := by decide +kernel

/-- Clip records refused by one field each of R110, and the same fields where nothing uses them. -/
theorem witness_ClipRefusals :
    (∀ c ∈ [{ clip0 with kind := 2 }, { clip0 with waveform := 2 }, { clip0 with kind := 1, format := 3 },
        { clip0 with kind := 1, rate := 8001 }], ¬ c.fieldsFit) ∧
    (∀ c ∈ [{ clip0 with waveform := 1, format := 3, rate := 0 }, { clip0 with kind := 1, format := 2, rate := 16000, waveform := 2 }],
      c.fieldsFit) := by
  unfold ClipRaw.fieldsFit
  decide +kernel

/-- A sample event that goes on from clip to clip: its clip ends on an odd byte before a mark, the next starts and ends on the next mark,
and the one after it sounds. -/
theorem witness_Plays :
    let stream (f : StreamFormat) : PlayCtx := .stream ⟨f, 8000, none, 5, 0, 7, false⟩;
    let e : State := onE fun e => { e with
      player := .immediate ⟨0, 1, 0, .square⟩ (some ⟨1, .brick, stream .linear16⟩)
      queue := [⟨.stream .linear8 8000 none, 2, .brick⟩, ⟨.tone 440 1 .square, 3, .brick⟩], ring := [9], marks := [1, 1] };
    let s : State := { e with host := busy.host };
    s.calm = true ∧ (after .outputSampleEvent s).sound.outcomes.map (·.tag) = [1, 2] ∧
      (after .outputSampleEvent s).sound.queue = [] ∧ (after .outputSampleEvent s).sound.ring = [] ∧
      (after .outputSampleEvent s).sound.marks = [] ∧ (after .outputSampleEvent s).sound.out = 20000 * s.sound.gain / 100 := by
  decide +kernel

theorem witness_SoundStopEndsEverything :
    powered.ready .host = true ∧ powered.ready .tablet = true ∧
    (onE fun e => { e with player := .playing ⟨1, .brick, .tone (ToneGen.start 50 1 .sine)⟩ }).ready .host = true := by decide +kernel

theorem witness_OutputSampleIsMade :
    let tone (n : Nat) : ToneGen := ⟨0, 1, n, .sine⟩;
    let stream (f : StreamFormat) (samples : Option Nat) (hold : Nat) : Player :=
      .playing ⟨1, .brick, .stream ⟨f, 8000, samples, 5, hold, 7, false⟩⟩;
    let s (x : Player) (ring : List Byte) (marks : List Nat) : State :=
      onE fun e => { e with player := x, ring := ring, marks := marks };
    (∀ x ∈ [s .idle [] [], s (.immediate (tone 1) none) [] [], s (.immediate (tone 0) none) [] [],
        s (.immediate (tone 0) (some ⟨1, .brick, .tone (tone 2)⟩)) [] [], s (.playing ⟨1, .brick, .tone (tone 1)⟩) [] [],
        s (.playing ⟨1, .brick, .tone (tone 0)⟩) [] [], s (stream .linear8 none 3) [] [], s (stream .linear8 none 0) [1] [0],
        s (stream .linear8 (some 7) 0) [1] [1], s (stream .linear16 none 0) [1] [],
        s (stream .linear16 none 0) [1, 2] [2], s (stream .companded8 none 0) (List.replicate 1025 0) []],
      x.calm = true ∧ x.sound.queue = []) ∧
    1024 < (List.replicate 1025 (0 : Byte)).length ∧ powered.sound.threshold = 1024 := by decide +kernel

theorem witness_StepKeepsPortRanges :
    step State.reset = .next State.reset ∧ ∀ m ∈ Idx6.all, ((State.reset.port m).configsInRanges &&
      (State.reset.port m).fillsInLimits && (State.reset.port m).valuesInRanges) = true := ⟨rfl, by decide +kernel⟩
theorem witness_StepKeepsPortStates :
    step State.reset = .next State.reset ∧ State.reset.shutdownFits = true ∧
      ∀ m ∈ Idx6.all, ((State.reset.port m).stateFits && (State.reset.port m).issuersFit) = true := ⟨rfl, by decide +kernel⟩
theorem witness_StepKeepsSupplyAndSound :
    step State.reset = .next State.reset ∧ (State.reset.supply.fits && State.reset.ceilingsFit && State.reset.sound.fits &&
      State.reset.sound.issuersFit && State.reset.soundHeldFits) = true := ⟨rfl, by decide +kernel⟩
theorem witness_StepKeepsSensorPorts :
    step State.reset = .next State.reset ∧ ∀ i ∈ Idx6.all, State.reset.sensorFits i = true := ⟨rfl, by decide +kernel⟩
theorem witness_StepKeepsLines :
    step State.reset = .next State.reset ∧ (State.reset.linesFit && State.reset.linkFits && State.reset.attnFits &&
      State.reset.k40ReadyFits) = true := ⟨rfl, by decide +kernel⟩
/-- The same of a state with work under way and a command at the front of its queue. -/
theorem witness_StepKeeps :
    let s : State := { onA fun p => { p with act := runs (move (.speed 100)) } with pending := [.regulationEvent .i0] };
    (∀ m ∈ Idx6.all, ((s.port m).configsInRanges && (s.port m).fillsInLimits && (s.port m).valuesInRanges &&
      (s.port m).stateFits && (s.port m).issuersFit && s.sensorFits m) = true) ∧
    (s.shutdownFits && s.supply.fits && s.ceilingsFit && s.sound.fits && s.sound.issuersFit && s.soundHeldFits && s.linesFit &&
      s.linkFits && s.attnFits && s.k40ReadyFits) = true ∧
    step s = .next (after (.regulationEvent .i0) { s with pending := [] }) := by
  refine ⟨by decide +kernel, by decide +kernel, ?_⟩
  exact exec_after (.regulationEvent .i0) { onA fun p => { p with act := runs (move (.speed 100)) } with pending := [] }

end Sys2Proof.Tests
end

