-- ==== Sys2Proof/Proofs/SoundStop.lean ====
section
/-! What a sound stop leaves, field by field (R125), and the SOUND_STOP request that carries one out (R126). -/

namespace Sys2Proof.Machine

/-- R125: what a sound stop makes of the engine, in full, by the clip that plays or is suspended. -/
theorem Sound.stopped_eq (e : Sound) (x : OutcomeCode) (uptime : Word) :
    e.stopped x uptime = { e with
      queue := [], player := .idle, ring := [], marks := []
      discarded := min 255 (e.discarded + e.queue.length)
      outcomes := match e.player.clip with
        | some p => (if e.outcomes.length < 4 then e.outcomes else e.outcomes.tail) ++ [⟨p.tag, p.issuer, x, uptime⟩]
        | none => e.outcomes
      dropped := if e.player.clip.isSome ∧ 4 ≤ e.outcomes.length then min 255 (e.dropped + 1) else e.dropped } := by
  unfold Sound.stopped
  cases e.player.clip with
  | none => simp [satAdd]
  | some p =>
    by_cases room : e.outcomes.length < 4
    · simp [Sound.addOutcome_eq, satAdd, room, Nat.not_le.mpr room]
    · simp [Sound.addOutcome_eq, satAdd, room, Nat.not_lt.mp room]

/-- A sound stop has work exactly when a clip plays or is suspended, or one waits (R125). -/
theorem Sound.hasWork_iff (e : Sound) : e.hasWork = true ↔ e.player.clip.isSome = true ∨ e.queue ≠ [] := by
  simp [Sound.hasWork]

/-- R125, R161: a sound stop changes the engine, and SOUND's raise count where it had work. -/
theorem State.soundStop_eq (s : State) (x : OutcomeCode) :
    s.soundStop x = { s with
      sound := s.sound.stopped x s.uptime
      attn := if s.sound.player.clip.isSome ∨ s.sound.queue ≠ [] then { s.attn with sound := min 255 (s.attn.sound + 1) }
        else s.attn } := by
  simp only [← Sound.hasWork_iff, State.soundStop, State.raiseIf]
  split <;> rfl

/-- R135: SOUND_STOP may come from either line. -/
theorem lineAllows_soundStop (s : State) (l : LineId) : s.lineAllows l .soundStop = true := by
  cases l <;> rfl

/-- R108: SOUND_STOP from the line that does not own the sound engine is refused. -/
theorem takeSoundStop_notOwner {s : State} {l : LineId} (h : s.sound.owner ≠ issuerOf l) :
    takeSoundStop l s = .error ⟨.notOwner, []⟩ := by
  rw [takeSoundStop, beq_eq_false_iff_ne.mpr h, need_false, Check.bind_of_error]

/-- R126: SOUND_STOP from the owner's line is a sound stop STOPPED, in every supply and player state. -/
theorem takeSoundStop_owner {s : State} {l : LineId} (h : s.sound.owner = issuerOf l) :
    takeSoundStop l s = .ok (s.soundStop .stopped,
      [BitVec.ofNat 8 s.sound.queue.length, if s.sound.player.clip.isSome then 1 else 0]) := by
  rw [takeSoundStop, h, beq_self_eq_true, need_true, Check.bind_of_ok]
  cases s.sound.player.clip <;> rfl

/-- Settles O53: the request reaches its rule from either line (R135), and there the owner check of R108 decides between the
refusal and the sound stop. -/
theorem soundStopEndsEverything : Obligations.SoundStopEndsEverything := by
  intro l tag s hr a e clip stopped
  rw [exec_request rfl, requestCommand_taken hr tag .soundStop rfl, lineAllows_soundStop, if_pos rfl, takeByRule]
  by_cases ho : s.sound.owner = issuerOf l
  · rw [takeSoundStop_owner (by rwa [arrived_sound]), if_pos ho, State.soundStop_eq, Sound.stopped_eq, arrived_sound,
      arrived_uptime]
    rfl
  · rw [takeSoundStop_notOwner (by rwa [arrived_sound]), if_neg ho]

end Sys2Proof.Machine
end

