-- ==== Sys2Proof/Proofs/HostRequests.lean ====
section
/-! IDENTIFY's answer (R141), and what SET_WATCH makes of the host watch from each line (R139). -/

namespace Sys2Proof.Machine

/-! ### IDENTIFY (R141) -/

/-- R135: IDENTIFY may come from either line. -/
theorem lineAllows_identify (s : State) (l : LineId) : s.lineAllows l .identify = true := by
  cases l <;> rfl

/-- R141: IDENTIFY is always accepted, leaves the state alone, and answers the part's codes and the uptime, each field least
significant byte first (R168). -/
theorem takeIdentify_eq (s : State) :
    takeIdentify s = .ok (s, [0x4E, 0x5A, 0x40, 0x04, 3, 6, 6] ++ le32 s.uptime) := rfl

/-- Settles O16: the request reaches its rule from either line (R135), and the arrival does not touch the uptime answered. -/
theorem identifyAnswers : Obligations.IdentifyAnswers := by
  intro l tag s ready
  rw [exec_request rfl, requestCommand_taken ready tag .identify rfl, lineAllows_identify, if_pos rfl, takeByRule,
    takeIdentify_eq, arrived_uptime]
  rfl

/-! ### SET_WATCH (R139) -/

/-- A clamp replaces what lies below a range by its low end and what lies above by its high end. -/
theorem clampNat_eq {lo hi : Nat} (ordered : lo ≤ hi) (n : Nat) :
    clampNat lo hi n = if n < lo then lo else if hi < n then hi else n := by
  unfold clampNat
  split_ifs <;> omega

/-- A clamp changes exactly the values outside its range. -/
theorem clampNat_ne_iff {lo hi : Nat} (ordered : lo ≤ hi) (n : Nat) : clampNat lo hi n ≠ n ↔ n < lo ∨ hi < n := by
  unfold clampNat
  omega

/-- R135: SET_WATCH may come from the host line. -/
theorem lineAllows_setWatch_host (s : State) (period : Half) : s.lineAllows .host (.setWatch period) = true := rfl

/-- R135: SET_WATCH may not come from the tablet line. -/
theorem lineAllows_setWatch_tablet (s : State) (period : Half) : s.lineAllows .tablet (.setWatch period) = false := rfl

/-- R139: a period of 0 turns the watch OFF, with nothing clamped. -/
theorem takeSetWatch_zero {period : Half} (off : period.toNat = 0) (s : State) :
    takeSetWatch period s = .ok (s.modHostUnit fun h => { h with watch := .off, watchPeriod := 0 }, [0]) := by
  rw [takeSetWatch, if_pos off]
  rfl

/-- R139: any other period arms the watch from now with the period clamped, and the answer says whether the clamp changed
it. -/
theorem takeSetWatch_pos {period : Half} (on : period.toNat ≠ 0) (s : State) :
    takeSetWatch period s = .ok
      (s.modHostUnit fun h => { h with
        watch := .armed s.clock
        watchPeriod := if period.toNat < 50 then 50 else if 10000 < period.toNat then 10000 else period.toNat },
      [if (1 ≤ period.toNat ∧ period.toNat ≤ 49) ∨ 10000 < period.toNat then 1 else 0]) := by
  have clamped : clampNat 50 10000 period.toNat ≠ period.toNat ↔
      (1 ≤ period.toNat ∧ period.toNat ≤ 49) ∨ 10000 < period.toNat := by
    rw [clampNat_ne_iff (by decide)]
    omega
  rw [takeSetWatch, if_neg on, ← clampNat_eq (by decide)]
  simp only [flag8, u8, bne_iff_ne, clamped]
  split <;> rfl

/-- What a host frame does to the watch (R140) does not outlast a request that sets the watch and its period. -/
theorem arrived_host_setsWatch (s : State) (w : Watch) (n : Nat) :
    ((s.arrived .host).modHostUnit fun h => { h with watch := w, watchPeriod := n }) =
      { s with hostUnit := { s.hostUnit with watch := w, watchPeriod := n } } := rfl

/-- Settles O17: the tablet is refused before the rule acts (R135); for the host the period decides between turning the watch
OFF and arming it, and either replaces what the arrival of the frame made of the watch. -/
theorem setWatchSetsPeriod : Obligations.SetWatchSetsPeriod := by
  refine ⟨?tablet, rfl, rfl, ?host⟩
  case tablet =>
    intro tag period s ready
    rw [exec_request rfl, requestCommand_taken ready tag (.setWatch period) rfl, lineAllows_setWatch_tablet]
    rfl
  case host =>
    intro tag period s ready n
    rw [exec_request rfl, requestCommand_taken ready tag (.setWatch period) rfl, lineAllows_setWatch_host, if_pos rfl,
      takeByRule]
    by_cases off : period.toNat = 0
    · have unclamped : ¬((1 ≤ n ∧ n ≤ 49) ∨ 10000 < n) := by omega
      rw [takeSetWatch_zero off, if_pos off, if_neg unclamped]
      dsimp only
      rw [arrived_host_setsWatch]
    · rw [takeSetWatch_pos off, if_neg off]
      dsimp only
      rw [arrived_clock, arrived_host_setsWatch]

end Sys2Proof.Machine
end

-- ==== Sys2Proof/Proofs/SettledCommands.lean ====

section
/-! Every command ends with nothing left to do at once, or inside a reset (log entry 7). -/

namespace Sys2Proof.Machine

/-- What every meaning ends in: a reset holds, or nothing is left that happens at once (R133, R136, R42). -/
def State.rests (s : State) : Prop := s.inReset = true ∨ s.isQuiet = true

theorem settle_rests (s : State) : s.settle.rests := .inr (settle_quiet s)

/-- A command settles last, or does nothing in a reset (R143). -/
theorem command_rests (s : State) (effect : State → State) : (s.command effect).rests := by
  unfold State.command
  split
  · next held => exact .inl held
  · exact settle_rests _

/-- A level noted in a reset leaves the reset holding (R143). -/
theorem commandNoting_rests {note : State → State} (kept : ∀ s, (note s).inReset = s.inReset) (effect : State → State)
    (s : State) : (s.commandNoting note effect).rests := by
  unfold State.commandNoting
  split
  · next held => exact .inl ((kept s).trans held)
  · exact command_rests s effect

theorem powerFalls_rests (s : State) : s.powerFalls.rests := by
  left
  unfold State.powerFalls
  split
  · next held => simp [State.inReset, held]
  · rfl

theorem pinFalls_rests (s : State) : s.pinFalls.rests := by
  left
  unfold State.pinFalls
  split
  · next held => simp [State.inReset, held]
  · simp [State.inReset]

theorem powerRises_rests (s : State) : s.powerRises.rests := by
  unfold State.powerRises
  split
  · split
    · next low => exact .inl (by simp [State.inReset, low])
    · exact settle_rests _
  · exact command_rests s id

theorem pinRises_rests (s : State) : s.pinRises.rests := by
  unfold State.pinRises
  split
  · split
    · next held => exact .inl (by simp [State.inReset, held])
    · exact settle_rests _
  · exact command_rests s id

/-- Settles O3: a command's last act is to settle; only a reset's beginning, or a level noted in it, is not followed by that. -/
theorem nothingIsLeftToDo : Obligations.NothingIsLeftToDo := by
  intro c s t h
  show t.rests
  cases c <;> cases h
  case radioReadyRise | radioReadyFall | encoderTransition | digitalPinChange | counterPinAChange | counterPinBChange =>
    refine commandNoting_rests ?_ _ s
    exact fun _ => rfl
  case powerOnResetBegin => exact powerFalls_rests s
  case powerOnResetEnd => exact powerRises_rests s
  case resetnLow => exact pinFalls_rests s
  case resetnRise => exact pinRises_rests s
  all_goals exact command_rests s _

end Sys2Proof.Machine
end

-- ==== Sys2Proof/Proofs/Acts.lean ====

section
/-! What a step is made of: every command is a chain of acts, each of one unit of the part (the inversion that the statements about
what every step keeps are read from). -/

namespace Sys2Proof.Machine

/-! ### The acts of each unit -/

/-- The acts of the drive unit (chapters 1, 2, 6). -/
inductive DriveAct (s : State) : State → Prop
  | regulation (m : Idx6) : DriveAct s (s.regulation m)
  | encoder (m : Idx6) (pair : Bool × Bool) : DriveAct s (s.modPort m (·.encoderChange pair))
  | noteEncoder (m : Idx6) (pair : Bool × Bool) : DriveAct s (s.noteEncoder m pair)
  | failStop (who : Six Bool) (x : OutcomeCode) : DriveAct s (s.failStop who x)
  | allStop : DriveAct s (s.clearPorts (Six.all true) (some .allStop) Port.brakeRest)
  | owners (o : Six Owner) : DriveAct s (s.setMotorOwners o)
  | portSetup {port c t d} : takePortSetup port c s = .ok (t, d) → DriveAct s t
  | move {l port r t d} : takeMove l port r s = .ok (t, d) → DriveAct s t
  | moveNow {l port r t d} : takeMoveNow l port r s = .ok (t, d) → DriveAct s t
  | queueClear {l port f t d} : takeQueueClear l port f s = .ok (t, d) → DriveAct s t
  | preset {l port v t d} : takePreset l port v s = .ok (t, d) → DriveAct s t
  | groupDefine {l g w t d} : takeGroupDefine l g w s = .ok (t, d) → DriveAct s t

/-- The acts of the converter, the sensor ports and the smart lines (chapters 3, 4, 5). -/
inductive SensorAct (s : State) : State → Prop
  | beginConversion : SensorAct s (s.modConv Converter.begin)
  | supplyDue : SensorAct s (s.modConv Converter.supplyDue)
  | completes : SensorAct s (s.modConv fun c => { c with inFlight := none })
  | converted {i dropped} (raw : Nat) : s.conv.inFlight = some ⟨.sensor i, dropped⟩ → SensorAct s (s.conversionDone raw)
  | drivePin (i : Idx6) (pin : PinId) (level : Bool) : SensorAct s (s.drivePin i pin level)
  | analogDue (i : Idx6) : SensorAct s (s.analogDue i)
  | digitalPin (i : Idx6) (pin : PinId) (level : Bool) : SensorAct s (s.digitalPin i pin level)
  | debounce (i : Idx6) (pin : PinId) : SensorAct s (s.debounceExpires i pin)
  | counterPinA (i : Idx6) (level : Bool) (us : Nat) : SensorAct s (s.counterPinA i level us)
  | counterPinB (i : Idx6) (level : Bool) : SensorAct s (s.counterPinB i level)
  | overload (i : Idx6) : SensorAct s (s.overload i)
  | interval (i : Idx6) : SensorAct s (s.intervalExpires i)
  | smartChar (i : Idx6) (char : Byte) (framing : Bool) : SensorAct s (s.smartChar i char framing)
  | smartPause (i : Idx6) : SensorAct s (s.smartPause i)
  | announceLimit (i : Idx6) : SensorAct s (s.smartAnnounceLimit i)
  | smartSwitch (i : Idx6) : SensorAct s (s.smartSwitch i)
  | smartNudge (i : Idx6) : SensorAct s (s.smartNudge i)
  | smartLoss (i : Idx6) : SensorAct s (s.smartLoss i)
  | smartSent (i : Idx6) : SensorAct s (s.smartSent i)
  | setup (i : Idx6) {r : SensorSetupRaw} {setup policy b c} : checkModeSetup r = .ok (setup, b) →
      checkPolicy r s.clock = .ok (policy, c) → SensorAct s (s.modeEntry i setup policy)
  | select {l port mode t d} : takeSmartSelect l port mode s = .ok (t, d) → SensorAct s t
  | write {l port bytes t d} {n : Byte} : takeSmartWrite l port n bytes s = .ok (t, d) → bytes.length = n.toNat → SensorAct s t

/-- The acts of the sound engine (chapter 7). -/
inductive SoundAct (s : State) : State → Prop
  | sample : SoundAct s s.outputSample
  | stop (x : OutcomeCode) : SoundAct s (s.soundStop x)
  | owner (o : Owner) : SoundAct s (s.setSoundOwner o)
  | setup {l a v h t d} : takeSoundSetup l a v h s = .ok (t, d) → SoundAct s t
  | clip {l r t d} : takeClip l r s = .ok (t, d) → SoundAct s t
  | data {l e bytes t d} {n : Byte} : takeSoundData l n e bytes s = .ok (t, d) → bytes.length = n.toNat → SoundAct s t
  | tone {l f h t d} : takeImmediateTone l f h s = .ok (t, d) → SoundAct s t

/-- The acts of the supply monitor (chapter 3). -/
inductive SupplyAct (s : State) : State → Prop
  | battery (v : Nat) : SupplyAct s (s.batterySample v)
  | current (v : Nat) : SupplyAct s (s.currentReading v)
  | holdExpires : SupplyAct s s.holdExpires
  | setup {a b c l t d} : takePowerSetup a b c l s = .ok (t, d) → SupplyAct s t

/-- The acts of the two lines, the host watch, the tablet link and the clock (chapters 8 to 10). -/
inductive LineAct (s : State) : State → Prop
  | leaves {l : LineId} {body : List Byte} {rest : List (List Byte)} :
      (s.lineAt l).fifo = body :: rest → LineAct s (s.withFifo l rest)
  | reply {l : LineId} (body : List Byte) : (s.lineAt l).replies.length < 4 → LineAct s (s.addReply l body)
  | beginReply {l : LineId} : s.mayBegin l = true → LineAct s (s.beginReply l)
  | beginRelay {l : LineId} : s.mayBegin l = true → (s.lineAt l).replies = [] → LineAct s (s.beginRelay l)
  | arrives (l : LineId) (body : List Byte) : LineAct s (s.frameArrives l body)
  | failure (l : LineId) : LineAct s (s.hunterFailure l)
  | holds (l : LineId) (held : List Byte) (timer : Timer) :
      LineAct s (s.modLine l fun u => { u with held := held, rxTimer := timer })
  | transmissionEnds (l : LineId) : LineAct s (s.transmissionEnds l)
  | radio (level : Bool) : LineAct s (s.setRadio level)
  | breakEnds : LineAct s s.breakEnds
  | tick : LineAct s s.tick
  | watchExpired : LineAct s ((s.modHostUnit fun h => { h with watch := .expired, watchFlag := true }).raise .hostLink)
  | strike : LineAct s ((s.modLink fun k => { k with strikes := satAdd 255 k.strikes 1 }).raise .tablet)
  | quietAgain : s.link.quietTimer.isSome = true → LineAct s (s.modLink fun k => { k with quietTimer := some s.clock })
  | goesQuiet : LineAct s ((s.setLinkState .quiet).modLink fun k => { k with quietTimer := none })
  | resetTaken : LineAct s { s with softReset := some false }
  | setWatch {p t d} : takeSetWatch p s = .ok (t, d) → LineAct s t
  | setMask (mask : Half) : LineAct s { s with attn := { s.attn with mask := mask } }
  | linkSetup {r t d} : takeLinkSetup r s = .ok (t, d) → LineAct s t
  | tabletSend {p t d} : takeTabletSend p s = .ok (t, d) → LineAct s t
  | linkReset {t d} : takeLinkReset s = .ok (t, d) → LineAct s t
  | relayUp {p t d} : takeRelayUp p s = .ok (t, d) → LineAct s t
  | flags (por low : Bool) : LineAct s { s with porActive := por, resetnLow := low }

/-- One act: of a unit, or the notice, which clears what it reports in the unit that owns it (R164), or of a reset (R143). -/
inductive Act (s : State) : State → Prop
  | drive {t} : DriveAct s t → Act s t
  | sensor {t} : SensorAct s t → Act s t
  | sound {t} : SoundAct s t → Act s t
  | supply {t} : SupplyAct s t → Act s t
  | line {t} : LineAct s t → Act s t
  | notice {l : LineId} : s.mayBegin l = true → (s.lineAt l).replies = [] → Act s (s.beginAttention l)
  | resetBegins : Act s s.resetBegins
  | resetEnds (cause : PowerCause) : Act s (s.resetTo cause)

/-- A chain of acts. -/
abbrev Acts : State → State → Prop := Relation.ReflTransGen Act

/-- What every act keeps, every chain of acts keeps. -/
theorem Acts.keep {I : State → Prop} (each : ∀ {s t}, Act s t → I s → I t) {s t : State} (h : Acts s t) (start : I s) : I t := by
  induction h with
  | refl => exact start
  | tail _ last ih => exact each last ih

theorem Act.acts {s t : State} (h : Act s t) : Acts s t := .single h
theorem LineAct.acts {s t : State} (h : LineAct s t) : Acts s t := .single (.line h)
theorem SensorAct.acts {s t : State} (h : SensorAct s t) : Acts s t := .single (.sensor h)
theorem DriveAct.acts {s t : State} (h : DriveAct s t) : Acts s t := .single (.drive h)
theorem SoundAct.acts {s t : State} (h : SoundAct s t) : Acts s t := .single (.sound h)
theorem SupplyAct.acts {s t : State} (h : SupplyAct s t) : Acts s t := .single (.supply h)

/-- A fold whose every pass is a chain of acts is one. -/
theorem Acts.foldl {α : Type} {f : State → α → State} (each : ∀ s a, Acts s (f s a)) (l : List α) (s : State) :
    Acts s (l.foldl f s) := by
  induction l generalizing s with
  | nil => exact .refl
  | cons a l ih => exact (each s a).trans (ih _)

/-! ### Requests -/

theorem takeSensorSetup_ok {l : LineId} {port : Byte} {r : SensorSetupRaw} {s t : State} {d : List Byte}
    (h : takeSensorSetup l port r s = .ok (t, d)) : SensorAct s t := by
  simp only [takeSensorSetup, Check.bind_ok, Check.pure_ok, Prod.exists, Prod.mk.injEq] at h
  obtain ⟨i, _, setup, b, hm, policy, c, hp, rfl, _⟩ := h
  exact .setup i hm hp

theorem takeAllStop_acts (s : State) :
    Acts s ((s.clearPorts (Six.all true) (some .allStop) Port.brakeRest).soundStop .allStop) :=
  (DriveAct.allStop).acts.trans (SoundAct.stop .allStop).acts

/-- A counted request carries as many bytes as its count says (R135, R169). -/
def carriesItsCount : Request → Prop
  | .smartWrite _ n bytes => bytes.length = n.toNat
  | .soundData n _ bytes => bytes.length = n.toNat
  | _ => True

/-- What the decoder's length check leaves to the rules. -/
theorem decodecarriesItsCount {body : List Byte} {r : Request} (h : decodeRequest body = .request r) : carriesItsCount r := by
  unfold decodeRequest at h
  split at h
  · cases h
  · cases h
  · next long =>
    split at h
    · cases h
    · next q read =>
      cases h
      unfold rdRequest at read
      split at read <;> cases read
      case h_17 kind | h_21 kind =>
        simp only [lengthAllowed, kind, Option.some.injEq, Bool.and_eq_true, decide_eq_true_eq, beq_iff_eq] at long
        simp only [carriesItsCount, List.length_drop]
        omega
      all_goals trivial

/-- An accepted request is a chain of acts (R133, R135). -/
theorem take_acts {r : Request} {l : LineId} {s t : State} {d : List Byte} (counted : carriesItsCount r)
    (h : takeByRule r l s = .ok (t, d)) : Acts s t := by
  cases r <;> rw [takeByRule] at h
  case identify | powerQuery | linkStatus => cases h; exact .refl
  case reset => cases h; exact LineAct.resetTaken.acts
  case setWatch => exact (LineAct.setWatch h).acts
  case setMask => cases h; exact (LineAct.setMask _).acts
  case allStop => cases h; exact takeAllStop_acts s
  case portSetup => exact (DriveAct.portSetup h).acts
  case setOwners =>
    simp only [takeSetOwners, Check.bind_ok, Check.pure_ok, Prod.mk.injEq] at h
    obtain ⟨_, _, _, _, rfl, _⟩ := h
    exact (DriveAct.owners _).acts.trans (SoundAct.owner _).acts
  case move => exact (DriveAct.move h).acts
  case moveNow => exact (DriveAct.moveNow h).acts
  case queueClear => exact (DriveAct.queueClear h).acts
  case preset => exact (DriveAct.preset h).acts
  case portQuery =>
    simp only [takePortQuery, Check.bind_ok, Check.pure_ok, Prod.mk.injEq] at h
    obtain ⟨_, _, rfl, _⟩ := h; exact .refl
  case groupDefine => exact (DriveAct.groupDefine h).acts
  case sensorSetup => exact (takeSensorSetup_ok h).acts
  case sensorRead =>
    simp only [takeSensorRead, Check.bind_ok, Check.pure_ok, Prod.mk.injEq] at h
    obtain ⟨_, _, rfl, _⟩ := h; exact .refl
  case smartSelect => exact (SensorAct.select h).acts
  case smartWrite => exact (SensorAct.write h counted).acts
  case smartProfile =>
    simp only [takeSmartProfile, Check.bind_ok] at h
    obtain ⟨_, _, h⟩ := h
    split at h
    · split at h
      · cases h; exact .refl
      · cases h
    · cases h
  case soundSetup => exact (SoundAct.setup h).acts
  case clip => exact (SoundAct.clip h).acts
  case soundData => exact (SoundAct.data h counted).acts
  case immediateTone => exact (SoundAct.tone h).acts
  case soundStop =>
    simp only [takeSoundStop, Check.bind_ok, Check.pure_ok, Prod.mk.injEq] at h
    obtain ⟨_, _, rfl, _⟩ := h; exact (SoundAct.stop _).acts
  case powerSetup => exact (SupplyAct.setup h).acts
  case linkSetup => exact (LineAct.linkSetup h).acts
  case tabletSend => exact (LineAct.tabletSend h).acts
  case linkReset => exact (LineAct.linkReset h).acts
  case relayUp => exact (LineAct.relayUp h).acts

/-- No request takes a reply from the queue of the line it came on (R133; LINK_SETUP and LINK_RESET come from the host). -/
theorem take_replies {r : Request} {l : LineId} {s u t : State} {d : List Byte} (allowed : u.lineAllows l r = true)
    (h : takeByRule r l s = .ok (t, d)) : (t.lineAt l).replies = (s.lineAt l).replies := by
  cases l
  · exact (take_fifo h).2.1
  · have notSetup : ∀ x, r ≠ .linkSetup x := by rintro x rfl; exact absurd allowed (by simp [State.lineAllows, hostOnly])
    have notReset : r ≠ .linkReset := by rintro rfl; exact absurd allowed (by simp [State.lineAllows, hostOnly])
    exact congrArg LineUnit.replies (sameLines_take h notSetup notReset).tablet

/-- A frame taken whole is a chain of acts, the last its reply (R133). -/
theorem takeBody_acts {s : State} {l : LineId} (room : (s.lineAt l).replies.length < 4) (body : List Byte) :
    Acts s (s.takeBody l body) := by
  unfold State.takeBody
  split
  · next t d h =>
    unfold State.answer at h
    split at h
    · cases h
    · cases h
    · next r decoded =>
      simp only [Check.bind_ok, need_ok] at h
      obtain ⟨_, allowed, h⟩ := h
      have kept := take_replies allowed h
      exact (take_acts (decodecarriesItsCount decoded) h).trans (LineAct.reply _ (by rw [kept]; exact room)).acts
  · exact (LineAct.reply _ room).acts

/-! ### What happens at once -/

theorem takeRequest_acts (s : State) (l : LineId) : Acts s (s.takeRequest l) := by
  cases hm : s.mayTake l with
  | false => rw [takeRequest_of_not hm]
  | true =>
    have room : (s.lineAt l).replies.length < 4 := by
      simp only [State.mayTake, Bool.and_eq_true, decide_eq_true_eq] at hm; exact hm.1.2
    cases hf : (s.lineAt l).fifo with
    | nil => simp [State.mayTake, hf] at hm
    | cons body rest =>
      rw [takeRequest_of_mayTake hf hm]
      refine (LineAct.leaves hf).acts.trans (takeBody_acts ?_ body)
      rw [(withFifo_keeps s l rest).2.2.1]; exact room

/-- A frame of a class other than REPLY is begun only where no reply waits (R136). -/
theorem choice_noReply {s : State} {l : LineId} {c : FrameClass} (h : s.choice l = some c) (hc : c ≠ .reply) :
    (s.lineAt l).replies = [] := by
  unfold State.choice at h
  split at h
  · cases h; exact absurd rfl hc
  · next hr => simpa using hr

theorem beginFrame_acts (s : State) (l : LineId) : Acts s (s.beginFrame l) := by
  unfold State.beginFrame
  split
  · next hm =>
    split
    · exact (LineAct.beginReply hm).acts
    · next hc => exact (Act.notice hm (choice_noReply hc (by decide))).acts
    · next hc => exact (LineAct.beginRelay hm (choice_noReply hc (by decide))).acts
    · exact .refl
  · exact .refl

theorem serveOnce_acts (s : State) : Acts s s.serveOnce :=
  (((takeRequest_acts s _).trans (takeRequest_acts _ _)).trans (beginFrame_acts _ _)).trans (beginFrame_acts _ _)

theorem serve_acts (n : Nat) (s : State) : Acts s (s.serve n) := by
  induction n generalizing s with
  | zero => exact .refl
  | succ n ih => exact (serveOnce_acts s).trans (ih _)

theorem settle_acts (s : State) : Acts s s.settle := (serve_acts _ s).trans SensorAct.beginConversion.acts

theorem command_acts {effect : State → State} (acts : ∀ s, Acts s (effect s)) (s : State) : Acts s (s.command effect) := by
  unfold State.command
  split
  · exact .refl
  · exact ((settle_acts s).trans (acts _)).trans (settle_acts _)

theorem commandNoting_acts {note effect : State → State} (notes : ∀ s, Acts s (note s)) (acts : ∀ s, Acts s (effect s))
    (s : State) : Acts s (s.commandNoting note effect) := by
  unfold State.commandNoting
  split
  · exact notes s
  · exact command_acts acts s

/-! ### The events that are more than one act -/

theorem byteArrives_chain (s : State) (l : LineId) (b : Byte) : Acts s (s.byteArrives l b) := by
  unfold State.byteArrives
  refine (LineAct.holds l _ _).acts.trans (Acts.foldl (fun t f => ?_) _ _)
  cases f with
  | failure => exact (LineAct.failure l).acts.trans (settle_acts _)
  | valid body => exact (LineAct.arrives l body).acts.trans (settle_acts _)

theorem byteTimeout_acts (s : State) (l : LineId) : Acts s (s.byteTimeout l) := by
  unfold State.byteTimeout
  split
  · exact (LineAct.holds l _ _).acts
  · exact .refl

/-- A sound stop on a condition. -/
theorem soundStopIf_acts (s : State) (o : Owner) (x : OutcomeCode) (u : State) (h : Acts s u) :
    Acts s (if s.sound.owner = o then u.soundStop x else u) := by
  split
  · exact h.trans (SoundAct.stop x).acts
  · exact h

theorem watchExpires_acts (s : State) : Acts s s.watchExpires := by
  unfold State.watchExpires
  split
  · exact (soundStopIf_acts s .brick .watch _ (DriveAct.failStop _ _).acts).trans LineAct.watchExpired.acts
  · exact .refl

theorem strikeLimit_acts (s : State) : Acts s s.strikeLimit :=
  (soundStopIf_acts s .remote .quiet _ (DriveAct.failStop _ _).acts).trans LineAct.goesQuiet.acts

theorem quietExpires_acts (s : State) : Acts s s.quietExpires := by
  unfold State.quietExpires
  split
  · next running =>
    dsimp only
    split
    · exact LineAct.strike.acts.trans (strikeLimit_acts _)
    · refine LineAct.strike.acts.trans (LineAct.acts ?_)
      exact .quietAgain running
  · exact .refl

theorem conversionDone_acts (s : State) (raw : Nat) : Acts s (s.conversionDone raw) := by
  cases hf : s.conv.inFlight with
  | none => rw [State.conversionDone, hf]
  | some f =>
    obtain ⟨channel, dropped⟩ := f
    cases channel with
    | battery => rw [State.conversionDone, hf]; exact SensorAct.completes.acts.trans (SupplyAct.battery _).acts
    | current => rw [State.conversionDone, hf]; exact SensorAct.completes.acts.trans (SupplyAct.current _).acts
    | sensor i => exact (SensorAct.converted raw hf).acts

theorem softResets_acts (s : State) : Acts s s.softResets := by
  unfold State.softResets
  split
  · exact (Act.resetEnds .soft).acts.trans (settle_acts _)
  · exact .refl

theorem powerFalls_acts (s : State) : Acts s s.powerFalls := by
  unfold State.powerFalls
  split
  · exact .refl
  · exact Act.resetBegins.acts.trans (LineAct.flags true s.resetnLow).acts

theorem pinFalls_acts (s : State) : Acts s s.pinFalls := by
  unfold State.pinFalls
  split
  · exact .refl
  · exact Act.resetBegins.acts.trans (LineAct.flags s.porActive true).acts

theorem powerRises_acts (s : State) : Acts s s.powerRises := by
  unfold State.powerRises
  split
  · split
    · exact (LineAct.flags false s.resetnLow).acts
    · exact (Act.resetEnds .powerOn).acts.trans (settle_acts _)
  · exact command_acts (fun _ => .refl) s

theorem pinRises_acts (s : State) : Acts s s.pinRises := by
  unfold State.pinRises
  split
  · split
    · exact (LineAct.flags s.porActive false).acts
    · exact (LineAct.flags s.porActive false).acts.trans ((Act.resetEnds .pin).acts.trans (settle_acts _))
  · exact command_acts (fun _ => .refl) s

/-! ### Every command -/

/-- Every command is a chain of acts. -/
theorem exec_acts {c : Instr} {s t : State} (h : exec c s = .next t) : Acts s t := by
  cases c <;> cases h
  case byteReceived l b => exact command_acts (byteArrives_chain · l b) s
  case interByteTimeout l => exact command_acts (byteTimeout_acts · l) s
  case transmissionEnd l => exact command_acts (fun _ => (LineAct.transmissionEnds l).acts) s
  case radioReadyRise | radioReadyFall =>
    exact commandNoting_acts (fun _ => (LineAct.radio _).acts) (fun _ => (LineAct.radio _).acts) s
  case breakEnd => exact command_acts (fun _ => LineAct.breakEnds.acts) s
  case softResetEffect => exact command_acts softResets_acts s
  case hostWatchExpiry => exact command_acts watchExpires_acts s
  case quietTimerExpiry => exact command_acts quietExpires_acts s
  case powerOnResetBegin => exact powerFalls_acts s
  case powerOnResetEnd => exact powerRises_acts s
  case resetnLow => exact pinFalls_acts s
  case resetnRise => exact pinRises_acts s
  case regulationEvent m => exact command_acts (fun _ => (DriveAct.regulation m).acts) s
  case encoderTransition m a b =>
    exact commandNoting_acts (fun _ => (DriveAct.noteEncoder m (a, b)).acts) (fun _ => (DriveAct.encoder m (a, b)).acts) s
  case supplyChannelsDue => exact command_acts (fun _ => SensorAct.supplyDue.acts) s
  case analogChannelDue i => exact command_acts (fun _ => (SensorAct.analogDue i).acts) s
  case conversionComplete raw => exact command_acts (conversionDone_acts · raw.toNat) s
  case recoveryHoldExpiry => exact command_acts (fun _ => SupplyAct.holdExpires.acts) s
  case digitalPinChange i pin level =>
    exact commandNoting_acts (fun _ => (SensorAct.drivePin i pin level).acts) (fun _ => (SensorAct.digitalPin i pin level).acts) s
  case debounceExpiry i pin => exact command_acts (fun _ => (SensorAct.debounce i pin).acts) s
  case counterPinAChange i level us =>
    exact commandNoting_acts (fun _ => (SensorAct.drivePin i .a level).acts) (fun _ => (SensorAct.counterPinA i level us).acts) s
  case counterPinBChange i level =>
    exact commandNoting_acts (fun _ => (SensorAct.drivePin i .b level).acts) (fun _ => (SensorAct.counterPinB i level).acts) s
  case sensorSupplyOverload i => exact command_acts (fun _ => (SensorAct.overload i).acts) s
  case intervalExpiry i => exact command_acts (fun _ => (SensorAct.interval i).acts) s
  case smartCharacterReceived i c f => exact command_acts (fun _ => (SensorAct.smartChar i c f).acts) s
  case pauseExpiry i => exact command_acts (fun _ => (SensorAct.smartPause i).acts) s
  case announceLimitExpiry i => exact command_acts (fun _ => (SensorAct.announceLimit i).acts) s
  case switchDelayExpiry i => exact command_acts (fun _ => (SensorAct.smartSwitch i).acts) s
  case nudgeTimerExpiry i => exact command_acts (fun _ => (SensorAct.smartNudge i).acts) s
  case lossTimerExpiry i => exact command_acts (fun _ => (SensorAct.smartLoss i).acts) s
  case smartRecordSent i => exact command_acts (fun _ => (SensorAct.smartSent i).acts) s
  case outputSampleEvent => exact command_acts (fun _ => SoundAct.sample.acts) s
  case uptimeTick => exact command_acts (fun _ => LineAct.tick.acts) s
  all_goals exact command_acts (fun _ => (LineAct.arrives _ _).acts) s

/-- An invariant that every act keeps and that is not about the waiting commands, every step keeps. -/
theorem step_keeps {I : State → Prop} (each : ∀ {s t}, Act s t → I s → I t)
    (aside : ∀ {s : State} (waiting : List Instr), I s → I { s with pending := waiting }) {s t : State} (h : step s = .next t)
    (start : I s) : I t := by
  unfold step at h
  split at h
  · cases h; exact start
  · next c rest _ => exact Acts.keep each (exec_acts h) (aside rest start)

end Sys2Proof.Machine
end

-- ==== Sys2Proof/Proofs/ActFrames.lean ====

section
/-! What the acts of each unit leave alone: each changes its own unit's part of the state, and raises. -/

namespace Sys2Proof.Machine

/-- What raises alone make of the attention table: every count is the old one, or one that a raise counted up to 255 (R161). -/
def Attention.Raised (a b : Attention) : Prop := ∀ src, b.count src = a.count src ∨ b.count src ≤ 255

theorem Attention.Raised.refl (a : Attention) : a.Raised a := fun _ => .inl rfl

theorem Attention.Raised.trans {a b c : Attention} (h : a.Raised b) (k : b.Raised c) : a.Raised c := by
  intro src
  rcases k src with e | e
  · rw [e]; exact h src
  · exact .inr e

/-- One raise (R161). -/
theorem Attention.Raised.raise (a : Attention) (src : Source) : a.Raised (a.setCount src (satAdd 255 (a.count src) 1)) := by
  intro other
  by_cases h : other = src
  · rw [h, Attention.setCount_same]; exact .inr (Nat.min_le_left _ _)
  · rw [Attention.setCount_ne _ _ h]; exact .inl rfl

/-- `t` is `s` but for the drive unit and the raises. -/
structure OnlyDrive (s t : State) : Prop where
  rest : t = { s with motor := t.motor, groups := t.groups, attn := t.attn }
  attn : s.attn.Raised t.attn
/-- `t` is `s` but for the converter, the sensor ports, the free values and the raises. -/
structure OnlySensors (s t : State) : Prop where
  rest : t = { s with conv := t.conv, sensor := t.sensor, freeIdx := t.freeIdx, attn := t.attn }
  attn : s.attn.Raised t.attn
/-- `t` is `s` but for the sound engine and the raises. -/
structure OnlySound (s t : State) : Prop where
  rest : t = { s with sound := t.sound, attn := t.attn }
  attn : s.attn.Raised t.attn
/-- `t` is `s` but for the supply monitor, what it does to ports and sound engine and the raises. -/
structure OnlySupply (s t : State) : Prop where
  rest : t = { s with supply := t.supply, motor := t.motor, sound := t.sound, attn := t.attn }
  attn : s.attn.Raised t.attn
/-- `t` is `s` but for the lines, the host unit, the link, the clock, the resets that hold and the raises. -/
structure OnlyLines (s t : State) : Prop where
  rest : t = { s with
    host := t.host, tablet := t.tablet, hostUnit := t.hostUnit, link := t.link, attn := t.attn, clock := t.clock
    softReset := t.softReset, porActive := t.porActive, resetnLow := t.resetnLow }
  attn : s.attn.Raised t.attn

theorem OnlyDrive.trans {s t u : State} (h : OnlyDrive s t) (k : OnlyDrive t u) : OnlyDrive s u :=
  ⟨by rw [k.rest, h.rest], h.attn.trans k.attn⟩
theorem OnlySensors.trans {s t u : State} (h : OnlySensors s t) (k : OnlySensors t u) : OnlySensors s u :=
  ⟨by rw [k.rest, h.rest], h.attn.trans k.attn⟩
theorem OnlySound.trans {s t u : State} (h : OnlySound s t) (k : OnlySound t u) : OnlySound s u :=
  ⟨by rw [k.rest, h.rest], h.attn.trans k.attn⟩
theorem OnlySupply.trans {s t u : State} (h : OnlySupply s t) (k : OnlySupply t u) : OnlySupply s u :=
  ⟨by rw [k.rest, h.rest], h.attn.trans k.attn⟩
theorem OnlyLines.trans {s t u : State} (h : OnlyLines s t) (k : OnlyLines t u) : OnlyLines s u :=
  ⟨by rw [k.rest, h.rest], h.attn.trans k.attn⟩

/-! ### The lines -/

theorem onlyLines_modLine (s : State) (l : LineId) (f : LineUnit → LineUnit) : OnlyLines s (s.modLine l f) := by
  cases l <;> exact ⟨rfl, .refl _⟩
theorem onlyLines_modLink (s : State) (f : Link → Link) : OnlyLines s (s.modLink f) := ⟨rfl, .refl _⟩
theorem onlyLines_raiseIf (s : State) (b : Bool) (src : Source) : OnlyLines s (s.raiseIf b src) := by
  cases b
  · exact ⟨rfl, .refl _⟩
  · exact ⟨rfl, .raise _ _⟩

theorem onlyLines_evalReady (s : State) : OnlyLines s s.evalReady := by rw [evalReady_eq]; exact ⟨rfl, .refl _⟩

theorem onlyLines_fifoChanged (s : State) (l : LineId) : OnlyLines s (s.fifoChanged l) := by
  cases l
  · exact ⟨rfl, .refl _⟩
  · exact onlyLines_evalReady s

theorem onlyLines_setLinkState (s : State) (x : LinkState) : OnlyLines s (s.setLinkState x) :=
  (onlyLines_modLink s _).trans (onlyLines_raiseIf _ _ _)

theorem onlyLines_fifoOverrun (s : State) (l : LineId) : OnlyLines s (s.fifoOverrun l) := by
  cases l
  · exact OnlyLines.trans (t := s.modHostUnit _) ⟨rfl, .refl _⟩ (onlyLines_raiseIf _ _ _)
  · exact OnlyLines.trans (t := s.modLink _) ⟨rfl, .refl _⟩ (onlyLines_raiseIf _ _ _)

theorem onlyLines_enterFifo (s : State) (l : LineId) (body : List Byte) : OnlyLines s (s.enterFifo l body) := by
  unfold State.enterFifo
  split
  · exact (onlyLines_modLine s l _).trans (onlyLines_fifoChanged _ l)
  · exact onlyLines_fifoOverrun s l

theorem onlyLines_frameArrives (s : State) (l : LineId) (body : List Byte) : OnlyLines s (s.frameArrives l body) := by
  cases l
  · exact OnlyLines.trans (t := s.watchFrame) ⟨rfl, .refl _⟩ (onlyLines_enterFifo _ _ _)
  · refine OnlyLines.trans (t := s.linkFrame) ?_ (onlyLines_enterFifo _ _ _)
    exact (onlyLines_setLinkState s _).trans (onlyLines_modLink _ _)

theorem onlyLines_hunterFailure (s : State) (l : LineId) : OnlyLines s (s.hunterFailure l) := by
  cases l
  · exact OnlyLines.trans (t := s.modHostUnit _) ⟨rfl, .refl _⟩ (onlyLines_raiseIf _ _ _)
  · exact ⟨rfl, .refl _⟩

theorem onlyLines_beginReply (s : State) (l : LineId) : OnlyLines s (s.beginReply l) := by
  unfold State.beginReply
  split
  · exact (onlyLines_modLine s l _).trans (onlyLines_modLine _ l _)
  · exact ⟨rfl, .refl _⟩

theorem onlyLines_beginRelay (s : State) (l : LineId) : OnlyLines s (s.beginRelay l) := by
  unfold State.beginRelay
  split
  · exact (((onlyLines_modLink s _).trans (onlyLines_evalReady _)).trans (onlyLines_modLine _ _ _)).trans (onlyLines_modLine _ _ _)
  · exact ⟨rfl, .refl _⟩
  · exact ⟨rfl, .refl _⟩

theorem onlyLines_transmissionEnds (s : State) (l : LineId) : OnlyLines s (s.transmissionEnds l) := by
  unfold State.transmissionEnds
  split
  · dsimp only
    split
    · exact (onlyLines_modLine s l _).trans ⟨rfl, .refl _⟩
    · exact onlyLines_modLine s l _
  · exact ⟨rfl, .refl _⟩

/-- What an act of the lines leaves alone. -/
theorem LineAct.only {s t : State} (h : LineAct s t) : OnlyLines s t := by
  cases h with
  | @leaves l => cases l <;> exact ⟨rfl, .refl _⟩
  | reply _ _ => exact onlyLines_modLine s _ _
  | beginReply _ => exact onlyLines_beginReply s _
  | beginRelay _ _ => exact onlyLines_beginRelay s _
  | arrives l body => exact onlyLines_frameArrives s l body
  | failure l => exact onlyLines_hunterFailure s l
  | holds l _ _ => exact onlyLines_modLine s l _
  | transmissionEnds l => exact onlyLines_transmissionEnds s l
  | radio | breakEnds | tick | quietAgain | resetTaken | flags => exact ⟨rfl, .refl _⟩
  | setMask => exact ⟨rfl, fun src => .inl (by cases src <;> rfl)⟩
  | watchExpired | strike => exact ⟨rfl, .raise _ _⟩
  | goesQuiet => exact (onlyLines_setLinkState s _).trans (onlyLines_modLink _ _)
  | setWatch h => unfold takeSetWatch at h; dsimp only at h; split at h <;> cases h <;> exact ⟨rfl, .refl _⟩
  | linkSetup h =>
    simp only [takeLinkSetup, Check.bind_ok, Check.pure_ok, Prod.mk.injEq] at h
    obtain ⟨_, _, _, _, _, _, _, _, _, _, _, _, _, _, rfl, _⟩ := h
    split <;> exact ⟨rfl, .refl _⟩
  | tabletSend h =>
    simp only [takeTabletSend, Check.bind_ok, Check.pure_ok, Prod.mk.injEq] at h
    obtain ⟨_, _, rfl, _⟩ := h; exact ⟨rfl, .refl _⟩
  | linkReset h =>
    simp only [takeLinkReset, Except.ok.injEq, Prod.mk.injEq] at h
    obtain ⟨rfl, _⟩ := h
    exact (((onlyLines_modLine s _ _).trans (onlyLines_setLinkState _ _)).trans (onlyLines_modLink _ _)).trans
      (onlyLines_evalReady _)
  | relayUp h =>
    simp only [takeRelayUp, Check.bind_ok, Check.pure_ok, Prod.mk.injEq] at h
    obtain ⟨_, _, rfl, _⟩ := h
    exact (onlyLines_modLink s _).trans (onlyLines_evalReady _)

/-! ### The sensor ports -/

theorem onlySensors_modSmart (s : State) (i : Idx6) (f : Smart → Smart) : OnlySensors s (s.modSmart i f) := ⟨rfl, .refl _⟩

theorem onlySensors_samplePolicy (s : State) (i : Idx6) : OnlySensors s (s.samplePolicy i) := by
  unfold State.samplePolicy
  dsimp only
  split
  · exact ⟨rfl, .refl _⟩
  · exact ⟨rfl, .raise _ _⟩
  · split <;> split
    · exact ⟨rfl, .raise _ _⟩
    · exact ⟨rfl, .refl _⟩
    · exact ⟨rfl, .raise _ _⟩
    · exact ⟨rfl, .refl _⟩
  · exact ⟨rfl, .refl _⟩

theorem onlySensors_readPin (s : State) (d : Drive) (p : Pull) : OnlySensors s (s.readPin d p).2 := by
  unfold State.readPin; split <;> exact ⟨rfl, .refl _⟩

theorem onlySensors_enterPin (s : State) (d : Drive) (p : Pull) (dir : Direction) (n : Nat) (e : Edge) :
    OnlySensors s (s.enterPin d p dir n e).2 := by
  unfold State.enterPin; split
  · exact onlySensors_readPin _ _ _
  · exact ⟨rfl, .refl _⟩
  · exact ⟨rfl, .refl _⟩

theorem onlySensors_modeEntry (s : State) (i : Idx6) (m : ModeSetup) (p : Policy) : OnlySensors s (s.modeEntry i m p) := by
  have entered (u : State) : OnlySensors u (u.enterMode i m) := by
    cases m with
    | off | analog | smart => exact ⟨rfl, .refl _⟩
    | digital =>
      exact ((onlySensors_enterPin u _ _ _ _ _).trans (onlySensors_enterPin _ _ _ _ _ _)).trans ⟨rfl, .refl _⟩
    | counter => exact ((onlySensors_readPin u _ _).trans (onlySensors_readPin _ _ _)).trans ⟨rfl, .refl _⟩
  exact OnlySensors.trans (t := s.endWork i) ⟨rfl, .refl _⟩ ((entered _).trans ⟨rfl, .raise _ _⟩)

/-- A value set with its policy's act, on whatever of the sensor ports came before. -/
theorem OnlySensors.thenSample {s t : State} (h : OnlySensors s t) (i : Idx6) (x : ReadingStatus) (n : Nat) (v : Values)
    (d : Nat) : OnlySensors s ((t.valueSet i x n v d).samplePolicy i) :=
  (h.trans (u := t.valueSet i x n v d) ⟨rfl, .refl _⟩).trans (onlySensors_samplePolicy _ i)

theorem onlySensors_analogResult (s : State) (i : Idx6) (raw : Nat) : OnlySensors s (s.analogResult i raw) := by
  unfold State.analogResult
  dsimp only
  split
  · exact (((onlySensors_readPin s _ _).trans (onlySensors_readPin _ _ _)).trans (u := State.setWork _ _ _) ⟨rfl, .refl _⟩).thenSample _ _ _ _ _
  · exact ⟨rfl, .refl _⟩

theorem onlySensors_debouncedChange (s : State) (i : Idx6) (pin : PinId) (level : Bool) :
    OnlySensors s (s.debouncedChange i pin level) := by
  unfold State.debouncedChange
  split
  · cases pin <;> exact OnlySensors.thenSample (t := s.setWork _ _) ⟨rfl, .refl _⟩ _ _ _ _ _
  · exact ⟨rfl, .refl _⟩

theorem onlySensors_setDebounce (s : State) (i : Idx6) (pin : PinId) (t : Timer) : OnlySensors s (s.setDebounce i pin t) := by
  unfold State.setDebounce; split <;> exact ⟨rfl, .refl _⟩

theorem onlySensors_digitalPin (s : State) (i : Idx6) (pin : PinId) (level : Bool) : OnlySensors s (s.digitalPin i pin level) := by
  have driven : OnlySensors s (s.drivePin i pin level) := ⟨rfl, .refl _⟩
  unfold State.digitalPin
  dsimp only
  split
  · split
    · exact driven
    · split
      · exact driven.trans (onlySensors_setDebounce _ _ _ _)
      · split
        · exact driven.trans (onlySensors_debouncedChange _ _ _ _)
        · exact driven.trans (onlySensors_setDebounce _ _ _ _)
  · exact driven

theorem onlySensors_counterPinA (s : State) (i : Idx6) (level : Bool) (us : Nat) : OnlySensors s (s.counterPinA i level us) := by
  have driven : OnlySensors s (s.drivePin i .a level) := ⟨rfl, .refl _⟩
  unfold State.counterPinA
  dsimp only
  split
  · split
    · exact driven
    · split
      · exact driven.trans ⟨rfl, .refl _⟩
      · split
        · exact (driven.trans (u := State.setWork _ _ _) ⟨rfl, .refl _⟩).thenSample _ _ _ _ _
        · exact driven
  · exact driven

theorem onlySensors_counterPinB (s : State) (i : Idx6) (level : Bool) : OnlySensors s (s.counterPinB i level) := by
  have driven : OnlySensors s (s.drivePin i .b level) := ⟨rfl, .refl _⟩
  unfold State.counterPinB
  dsimp only
  split
  · split
    · exact driven
    · exact (driven.trans (u := State.setWork _ _ _) ⟨rfl, .refl _⟩).thenSample _ _ _ _ _
  · exact driven

theorem onlySensors_intervalExpires (s : State) (i : Idx6) : OnlySensors s (s.intervalExpires i) := by
  unfold State.intervalExpires
  split
  · dsimp only
    split
    · exact ⟨rfl, .raise _ _⟩
    · exact ⟨rfl, .refl _⟩
  · exact ⟨rfl, .refl _⟩

theorem onlySensors_smartData (s : State) (i : Idx6) (body : List Byte) : OnlySensors s (s.smartData i body) := by
  have accepted (m : ModeInfo) :
      OnlySensors s ((s.modSmart i fun c => { c with lineState := .streaming }).dataAccepted i m body) :=
    OnlySensors.thenSample (s := s) (t := State.modSmart (s.modSmart i _) i _) ⟨rfl, .refl _⟩ _ _ _ _ _
  unfold State.smartData
  dsimp only
  split
  · exact ⟨rfl, .refl _⟩
  · split
    · split
      · exact (accepted _).trans ⟨rfl, .raise _ _⟩
      · exact (accepted _).trans ⟨rfl, .raise _ _⟩
      · exact accepted _
    · exact ⟨rfl, .refl _⟩

theorem onlySensors_smartRecordReceived (s : State) (i : Idx6) (header : Byte) (body : List Byte) :
    OnlySensors s (s.smartRecordReceived i header body) := by
  unfold State.smartRecordReceived
  split <;> try split
  all_goals first | exact ⟨rfl, .refl _⟩ | exact onlySensors_smartData s i body

theorem onlySensors_parseEntry (s : State) (i : Idx6) (e : RxEntry) : OnlySensors s (s.parseEntry i e) := by
  unfold State.parseEntry
  split
  · exact ⟨rfl, .refl _⟩
  · dsimp only
    split
    · exact ⟨rfl, .refl _⟩
    · split
      · exact (onlySensors_modSmart s i _).trans (onlySensors_smartRecordReceived _ _ _ _)
      · exact ⟨rfl, .refl _⟩

theorem onlySensors_smartChar (s : State) (i : Idx6) (char : Byte) (framing : Bool) : OnlySensors s (s.smartChar i char framing) := by
  have folded (l : List RxEntry) (u : State) : OnlySensors u (l.foldl (fun t e => t.parseEntry i e) u) := by
    induction l generalizing u with
    | nil => exact ⟨rfl, .refl _⟩
    | cons e l ih => exact (onlySensors_parseEntry u i e).trans (ih _)
  unfold State.smartChar
  split
  · exact ((onlySensors_modSmart s i _).trans ((onlySensors_modSmart _ i _).trans (folded _ _))).trans (onlySensors_modSmart _ i _)
  · exact ⟨rfl, .refl _⟩

/-- What an act of the sensor ports leaves alone. -/
theorem SensorAct.only {s t : State} (h : SensorAct s t) : OnlySensors s t := by
  cases h with
  | beginConversion | supplyDue | completes | drivePin => exact ⟨rfl, .refl _⟩
  | converted raw hf =>
    rw [State.conversionDone, hf]
    dsimp only
    split
    · exact ⟨rfl, .refl _⟩
    · exact OnlySensors.trans (t := s.modConv _) ⟨rfl, .refl _⟩ (onlySensors_analogResult _ _ _)
  | analogDue i =>
    unfold State.analogDue
    split
    · split <;> exact ⟨rfl, .refl _⟩
    · exact ⟨rfl, .refl _⟩
  | digitalPin i pin level => exact onlySensors_digitalPin s i pin level
  | debounce i pin =>
    unfold State.debounceExpires
    split
    · dsimp only
      split
      · exact onlySensors_debouncedChange s i pin _
      · exact ⟨rfl, .refl _⟩
    · exact ⟨rfl, .refl _⟩
  | counterPinA i level us => exact onlySensors_counterPinA s i level us
  | counterPinB i level => exact onlySensors_counterPinB s i level
  | overload i => unfold State.overload; dsimp only; split; exacts [⟨rfl, .refl _⟩, ⟨rfl, .raise _ _⟩]
  | interval i => exact onlySensors_intervalExpires s i
  | smartChar i c f => exact onlySensors_smartChar s i c f
  | smartPause i => unfold State.smartPause; split <;> exact ⟨rfl, .refl _⟩
  | announceLimit i => unfold State.smartAnnounceLimit; split <;> exact ⟨rfl, .refl _⟩
  | smartSwitch i => unfold State.smartSwitch; split <;> exact ⟨rfl, .refl _⟩
  | smartNudge i => unfold State.smartNudge; split <;> exact ⟨rfl, .refl _⟩
  | smartLoss i => unfold State.smartLoss; split; exacts [⟨rfl, .raise _ _⟩, ⟨rfl, .refl _⟩]
  | smartSent i => unfold State.smartSent; split <;> exact ⟨rfl, .refl _⟩
  | setup i _ _ => exact onlySensors_modeEntry s i _ _
  | select h =>
    simp only [takeSmartSelect, Check.bind_ok, Check.pure_ok, Prod.mk.injEq] at h
    obtain ⟨_, _, _, _, _, _, _, _, _, _, rfl, _⟩ := h; exact ⟨rfl, .refl _⟩
  | write h _ =>
    simp only [takeSmartWrite, Check.bind_ok, Check.pure_ok, Prod.mk.injEq] at h
    obtain ⟨_, _, _, _, _, _, _, _, rfl, _⟩ := h; exact ⟨rfl, .refl _⟩

/-! ### The sound engine -/

theorem onlySound_startClip (s : State) : OnlySound s s.startClip := by
  unfold State.startClip
  split
  · exact ⟨rfl, .refl _⟩
  · dsimp only
    split
    · exact ⟨rfl, .raise _ _⟩
    · exact ⟨rfl, .refl _⟩

theorem onlySound_soundStop (s : State) (x : OutcomeCode) : OnlySound s (s.soundStop x) := by
  unfold State.soundStop State.raiseIf
  split
  · exact ⟨rfl, .raise _ _⟩
  · exact ⟨rfl, .refl _⟩

theorem onlySound_ringConsumed (s : State) (n : Nat) : OnlySound s (s.ringConsumed n) := by
  unfold State.ringConsumed; dsimp only; split; exacts [⟨rfl, .raise _ .sound⟩, ⟨rfl, .refl _⟩]

theorem onlySound_fetchEnds (s : State) (c : StreamCtx) : OnlySound s (s.fetchEnds c) := by
  unfold State.fetchEnds
  split
  · exact ⟨rfl, .refl _⟩
  · split
    · exact ⟨rfl, .refl _⟩
    · exact (onlySound_ringConsumed s 1).trans ⟨rfl, .refl _⟩

theorem onlySound_clipStarves (s : State) (p : Playing) (c : StreamCtx) : OnlySound s (s.clipStarves p c) := by
  unfold State.clipStarves
  dsimp only
  generalize (if c.starved = true then s.sound.underruns else min 65535 (s.sound.underruns + 1)) = n
  split
  · exact ⟨rfl, .refl _⟩
  · exact ⟨rfl, .raise _ .sound⟩

theorem Plays.only {s t : State} {x : Int} (h : Plays s t x) : OnlySound s t := by
  induction h with
  | silent | sounds | tone | holds => exact ⟨rfl, .refl _⟩
  | starts _ _ _ ih => exact (onlySound_startClip _).trans (State.startClip_eq _ ▸ ih)
  | @resumes _ _ _ w _ _ _ _ ih => exact OnlySound.trans (t := State.withPlayer _ (Player.afterTone w)) ⟨rfl, .refl _⟩ ih
  | toneEnds _ _ _ _ ih => exact OnlySound.trans (t := State.clipEnds _ _) ⟨rfl, .raise _ .sound⟩ ih
  | streamEnds _ _ _ _ _ ih => exact ((onlySound_fetchEnds _ _).trans (u := State.clipEnds _ _) ⟨rfl, .raise _ .sound⟩).trans ih
  | starves => exact onlySound_clipStarves _ _ _
  | takes => exact (onlySound_ringConsumed _ _).trans ⟨rfl, .refl _⟩

/-- The output sample event is one way to play, and its output (R112). -/
theorem outputSample_plays (s : State) : ∃ t x, Plays s t x ∧
    s.outputSample = t.modSound fun e => { e with out := (x * (s.sound.gain : Int)).tdiv 100 } :=
  ⟨_, _, playerSample_plays _ s (Sound.passes_lt_playFuel _), rfl⟩

/-- What an act of the sound engine leaves alone. -/
theorem SoundAct.only {s t : State} (h : SoundAct s t) : OnlySound s t := by
  cases h with
  | sample =>
    obtain ⟨t, x, hp, e⟩ := outputSample_plays s
    rw [e]; exact hp.only.trans ⟨rfl, .refl _⟩
  | stop x => exact onlySound_soundStop s x
  | owner o =>
    unfold State.setSoundOwner
    split
    · exact ⟨rfl, .refl _⟩
    · exact (onlySound_soundStop s _).trans ⟨rfl, .refl _⟩
  | setup h =>
    simp only [takeSoundSetup, Check.bind_ok] at h
    obtain ⟨_, _, _, _, h⟩ := h
    split at h
    · simp only [Check.bind_ok, Check.pure_ok, Prod.mk.injEq] at h
      obtain ⟨_, _, rfl, _⟩ := h; exact ⟨rfl, .refl _⟩
    · cases h; exact ⟨rfl, .refl _⟩
  | clip h =>
    simp only [takeClip, Check.bind_ok, Check.pure_ok, Prod.exists, Prod.mk.injEq] at h
    obtain ⟨_, _, _, _, _, _, _, _, _, rfl, _⟩ := h
    split
    · exact OnlySound.trans (t := s.modSound _) ⟨rfl, .refl _⟩ (onlySound_startClip _)
    · exact ⟨rfl, .refl _⟩
  | data h _ =>
    simp only [takeSoundData, Check.bind_ok, Check.pure_ok, Prod.mk.injEq] at h
    obtain ⟨_, _, _, _, _, _, _, _, _, _, _, _, rfl, _⟩ := h; exact ⟨rfl, .refl _⟩
  | tone h =>
    simp only [takeImmediateTone, Check.bind_ok, Check.pure_ok, Prod.mk.injEq] at h
    obtain ⟨_, _, _, _, _, _, rfl, _⟩ := h; exact ⟨rfl, .refl _⟩

end Sys2Proof.Machine
end

-- ==== Sys2Proof/Proofs/PortChanges.lean ====

section
/-! What one event of the drive unit can do to a port: a chain of changes of one port each (R8 to R22, R27 to R41), and nothing
outside the ports and their MOTOR raises. -/

namespace Sys2Proof.Machine

/-! ### The changes of one port -/

/-- What a port loses by a stopping event, its own or another port's. -/
inductive PortLoss (p : Port) : Port → Prop
  /-- An outcome record is made (R18). -/
  | records (mv : Move) (x : OutcomeCode) (uptime : Word) : PortLoss p (p.addOutcome mv x uptime)
  /-- The queue head goes, and the port no longer waits for its group (R9, R22). -/
  | dropsHead {mv : Move} {rest : List Move} :
      p.queue = mv :: rest → PortLoss p ({ p with queue := rest, replacing := false } : Port).leaveWait
  /-- The whole queue goes (R13). -/
  | discards : PortLoss p p.discardQueue.leaveWait

/-- One change that the drive unit makes of a port. -/
inductive PortAct (p : Port) : Port → Prop
  | loses {q : Port} : PortLoss p q → PortAct p q
  /-- The queue head starts (R9). -/
  | starts (carry : Bool) : PortAct p (p.startHead carry)
  /-- A rest is entered (R15). -/
  | rests (r : Rest) : PortAct p (p.enterRest r)
  /-- A group head must wait (R20). -/
  | marks : p.headGroup ≠ 0 → PortAct p p.markReady
  /-- The ramp moves v_p (R27 to R32). -/
  | ramps (vp : Int) : p.isRegulated = true → PortAct p { p with vp := vp }
  /-- The regulator acts (R34 to R36). -/
  | regulates : p.isRegulated = true → PortAct p p.regulate
  /-- Phase, elapsed time, ready flag or guard state of the running move change (R6, R8, R41, R98). -/
  | runsOn {r r' : Running} : p.act = .running r → r'.move = r.move → PortAct p { p with act := .running r' }
  /-- The stall timer changes (R39). -/
  | strains (t : Nat) : PortAct p { p with stallTimer := t }

/-- A chain of changes of one port. -/
abbrev PortActs : Port → Port → Prop := Relation.ReflTransGen PortAct

theorem PortAct.acts {p q : Port} (h : PortAct p q) : PortActs p q := .single h

/-- What every change of a port keeps, every chain of changes keeps. -/
theorem PortActs.keep {K : Port → Prop} (each : ∀ {p q}, PortAct p q → K p → K q) {p q : Port} (h : PortActs p q)
    (start : K p) : K q := by
  induction h with
  | refl => exact start
  | tail _ last ih => exact each last ih

/-- A chain of losses. -/
abbrev PortLosses : Port → Port → Prop := Relation.ReflTransGen PortLoss

theorem PortLoss.losses {p q : Port} (h : PortLoss p q) : PortLosses p q := .single h

theorem PortLosses.acts {p q : Port} (h : PortLosses p q) : PortActs p q := Relation.ReflTransGen.mono (fun _ _ => PortAct.loses) _ _ h

/-- What every loss keeps, every chain of losses keeps. -/
theorem PortLosses.keep {K : Port → Prop} (each : ∀ {p q}, PortLoss p q → K p → K q) {p q : Port} (h : PortLosses p q)
    (start : K p) : K q := by
  induction h with
  | refl => exact start
  | tail _ last ih => exact each last ih

theorem portLosses_endRunning (p : Port) (x : OutcomeCode) (uptime : Word) : PortLosses p (p.endRunning x uptime) := by
  unfold Port.endRunning
  split
  · exact (PortLoss.records _ _ _).losses
  · exact .refl

theorem portLosses_cleared (p : Port) (ending : Option OutcomeCode) (uptime : Word) : PortLosses p (p.cleared ending uptime) := by
  cases ending with
  | none => exact PortLoss.discards.losses
  | some x => exact (portLosses_endRunning p x uptime).trans PortLoss.discards.losses

/-- A waiting head lost with its record GROUP_BROKEN (R22). -/
theorem portLosses_broken {p : Port} {mv : Move} {rest : List Move} (h : p.queue = mv :: rest) (x : OutcomeCode) (uptime : Word) :
    PortLosses p ((({ p with queue := rest, replacing := false } : Port).leaveWait).addOutcome mv x uptime) :=
  (PortLoss.dropsHead h).losses.trans (PortLoss.records _ _ _).losses

theorem portActs_failRest (p : Port) : PortActs p p.failRest := by
  unfold Port.failRest
  split
  · exact .refl
  · exact (PortAct.rests _).acts

theorem portActs_brakeRest (p : Port) : PortActs p p.brakeRest := by
  unfold Port.brakeRest
  split
  · exact .refl
  · exact (PortAct.rests _).acts

theorem portActs_setPhase (p : Port) (phase : Phase) : PortActs p (p.setPhase phase) := by
  unfold Port.setPhase
  split
  · next h => exact PortAct.acts (.runsOn h (by rfl))
  · exact .refl

/-! ### The changes of the state -/

/-- `t` comes of `s` by changes of ports and raises alone. -/
structure DriveSteps (s t : State) : Prop where
  rest : t = { s with motor := t.motor, attn := t.attn }
  attn : s.attn.Raised t.attn
  ports : ∀ q, PortActs (s.port q) (t.port q)

theorem DriveSteps.refl (s : State) : DriveSteps s s := ⟨rfl, .refl _, fun _ => .refl⟩

theorem DriveSteps.trans {s t u : State} (h : DriveSteps s t) (k : DriveSteps t u) : DriveSteps s u :=
  ⟨by rw [k.rest, h.rest], h.attn.trans k.attn, fun q => (h.ports q).trans (k.ports q)⟩

theorem driveSteps_raise (s : State) (src : Source) : DriveSteps s (s.raise src) := ⟨rfl, .raise _ _, fun _ => .refl⟩

theorem driveSteps_raiseIf (s : State) (b : Bool) (src : Source) : DriveSteps s (s.raiseIf b src) := by
  cases b
  · exact .refl s
  · exact driveSteps_raise s src

theorem driveSteps_modPort {s : State} {m : Idx6} {f : Port → Port} (h : PortActs (s.port m) (f (s.port m))) :
    DriveSteps s (s.modPort m f) := by
  refine ⟨rfl, .refl _, fun q => ?_⟩
  rw [State.modPort_port]
  split
  · next e => rw [e]; exact h
  · exact .refl

theorem driveSteps_foldl {α : Type} {f : State → α → State} (each : ∀ s a, DriveSteps s (f s a)) (l : List α) (s : State) :
    DriveSteps s (l.foldl f s) := by
  induction l generalizing s with
  | nil => exact .refl s
  | cons a l ih => exact (each s a).trans (ih _)

/-! ### Outcomes and groups -/

theorem driveSteps_endMove (s : State) (m : Idx6) (x : OutcomeCode) : DriveSteps s (s.endMove m x) := by
  unfold State.endMove
  split
  · exact (driveSteps_modPort (portLosses_endRunning _ _ _).acts).trans (driveSteps_raise _ _)
  · exact .refl s

theorem driveSteps_breakHead (s : State) (m : Idx6) : DriveSteps s (s.breakHead m) := by
  unfold State.breakHead
  split
  · next h =>
    exact (driveSteps_modPort (portLosses_broken h _ _).acts).trans (driveSteps_raise _ _)
  · exact .refl s

theorem driveSteps_clearPort (s : State) (m : Idx6) (ending : Option OutcomeCode) {after : Port → Port}
    (h : ∀ p, PortActs p (after p)) : DriveSteps s (s.clearPort m ending after) := by
  rw [clearPort_eq]
  exact (driveSteps_modPort ((portLosses_cleared _ _ _).acts.trans (h _))).trans (driveSteps_raiseIf _ _ _)

/-- One event that clears several ports, and the group waits it breaks (R13, R16, R17, R22, R40). -/
theorem driveSteps_clearPorts (s : State) (who : Six Bool) (ending : Option OutcomeCode) {after : Port → Port}
    (h : ∀ p, PortActs p (after p)) : DriveSteps s (s.clearPorts who ending after) := by
  unfold State.clearPorts State.breakGroups
  refine (driveSteps_foldl (fun t m => ?_) _ s).trans (driveSteps_foldl (fun t q => ?_) _ _)
  · split
    · exact driveSteps_clearPort t m ending h
    · exact .refl t
  · dsimp only
    split
    · exact driveSteps_breakHead t q
    · exact .refl t

theorem driveSteps_failStop (s : State) (who : Six Bool) (x : OutcomeCode) : DriveSteps s (s.failStop who x) :=
  driveSteps_clearPorts s who (some x) portActs_failRest

/-! ### The start decision -/

theorem driveSteps_dropForeignHeads (m : Idx6) (n : Nat) (s : State) : DriveSteps s (State.dropForeignHeads m n s) := by
  induction n generalizing s with
  | zero => exact .refl s
  | succ n ih =>
    unfold State.dropForeignHeads
    dsimp only
    split
    · exact (driveSteps_breakHead s m).trans (ih _)
    · exact .refl s

theorem driveSteps_startHead (s : State) (m : Idx6) (carry : Bool) : DriveSteps s (s.modPort m (Port.startHead carry)) :=
  driveSteps_modPort (PortAct.starts carry).acts

theorem driveSteps_startMember (s : State) (q : Idx6) : DriveSteps s (s.startMember q) := by
  unfold State.startMember
  split
  · exact (driveSteps_endMove s q .done).trans (driveSteps_startHead _ q true)
  · exact driveSteps_startHead s q false

theorem driveSteps_groupStart (s : State) (m : Idx6) (g : Nat) (ended : Bool) : DriveSteps s (s.groupStart m g ended) := by
  unfold State.groupStart
  refine driveSteps_foldl (fun t q => ?_) _ s
  split
  · split
    · exact driveSteps_startHead t q true
    · exact driveSteps_startMember t q
  · exact .refl t

theorem driveSteps_startDecision (s : State) (m : Idx6) (ended : Bool) : DriveSteps s (s.startDecision m ended).1 := by
  unfold State.startDecision
  refine (driveSteps_dropForeignHeads m (s.port m).queue.length s).trans ?_
  generalize State.dropForeignHeads m (s.port m).queue.length s = u
  have started (v : State) (h : DriveSteps u v) (carry : Bool) : DriveSteps u (v.modPort m (Port.startHead carry)) :=
    h.trans (driveSteps_startHead v m carry)
  dsimp only
  split
  · exact .refl u
  · next head rest hq =>
    have waits (h : head.group ≠ 0) : DriveSteps u (u.modPort m Port.markReady) :=
      driveSteps_modPort (PortAct.marks (by simpa [Port.headGroup, hq] using h)).acts
    have grouped (canBe : Bool) (h : head.group ≠ 0) : DriveSteps u
        (if !canBe then (u, false)
          else if u.othersReady head.group m then (u.groupStart m head.group false, true)
          else (u.modPort m Port.markReady, false)).1 := by
      split
      · exact .refl u
      · split
        · exact driveSteps_groupStart u m head.group false
        · exact waits h
    split
    · split
      · exact started u (.refl u) true
      · split
        · exact driveSteps_groupStart u m head.group true
        · exact .refl u
    · split
      · split
        · exact started _ (driveSteps_endMove u m .replaced) true
        · exact started u (.refl u) false
      · split
        · split
          · exact started u (.refl u) false
          · split
            · exact started _ (driveSteps_endMove u m .done) true
            · exact .refl u
          · exact .refl u
        · next hg => exact grouped _ hg

theorem driveSteps_settleEnd (s : State) (m : Idx6) (e : StopStyle) : DriveSteps s (s.settleEnd m e) := by
  refine driveSteps_modPort ((PortAct.rests (restOf e)).acts.trans ?_)
  dsimp only
  split
  · next h => exact (PortAct.marks h).acts
  · exact .refl

theorem driveSteps_endLater (s : State) (m : Idx6) (mv : Move) (x : OutcomeCode) : DriveSteps s (s.endLater m mv x).1 := by
  have decided := (driveSteps_endMove s m x).trans (driveSteps_startDecision (s.endMove m x) m true)
  unfold State.endLater
  dsimp only
  split
  · exact decided
  · exact decided.trans (driveSteps_settleEnd _ m mv.endAction)

/-! ### The steps after it -/

theorem isRegulated_of_holds {p : Port} (h : p.act.holds = true) : p.isRegulated = true := by
  unfold Port.isRegulated
  split
  · next ha => rw [ha] at h; cases h
  · exact h

theorem portActs_holdProfile {p : Port} (h : p.isRegulated = true) : PortActs p p.holdProfile := (PortAct.ramps _ h).acts

theorem portActs_speedProfile {p : Port} (h : p.isRegulated = true) (v : Int) : PortActs p (p.speedProfile v) :=
  (PortAct.ramps _ h).acts.trans (portActs_setPhase _ _)

theorem portActs_positionProfile {p : Port} (h : p.isRegulated = true) (phase : Phase) (v : Nat) (d : Int) :
    PortActs p (p.positionProfile phase v d) := by
  unfold Port.positionProfile
  dsimp only
  split <;> exact (PortAct.ramps _ h).acts.trans (portActs_setPhase _ _)

theorem driveSteps_profileStep (m : Idx6) (fuel : Nat) (f : Passed) (s : State) :
    DriveSteps s (State.profileStep m fuel f s).1 := by
  induction fuel generalizing f s with
  | zero => exact .refl s
  | succ fuel ih =>
    have arrives (r : Running) : DriveSteps s
        (let (s1, started) := s.endLater m r.move .done
          if started then State.profileStep m fuel { f with started := true } s1
          else if (s1.port m).act.holds then (s1.modPort m Port.holdProfile, { f with enteredHold := true })
          else (s1, f)).1 := by
      have ended := driveSteps_endLater s m r.move .done
      dsimp only
      split
      · exact ended.trans (ih _ _)
      · split
        · next h => exact ended.trans (driveSteps_modPort (portActs_holdProfile (isRegulated_of_holds h)))
        · exact ended
    unfold State.profileStep
    dsimp only
    split
    · next r h =>
      split
      · next hv =>
        have regulated : (s.port m).isRegulated = true := by simp [Port.isRegulated, h, hv]
        dsimp only
        exact driveSteps_modPort (portActs_speedProfile regulated _)
      · next hv =>
        have regulated : (s.port m).isRegulated = true := by simp [Port.isRegulated, h, hv]
        dsimp only
        exact driveSteps_modPort (portActs_speedProfile regulated _)
      · next hv =>
        have regulated : (s.port m).isRegulated = true := by simp [Port.isRegulated, h, hv]
        split
        · exact arrives r
        · dsimp only
          exact driveSteps_modPort (portActs_positionProfile regulated _ _ _)
      · next hv =>
        have regulated : (s.port m).isRegulated = true := by simp [Port.isRegulated, h, hv]
        split
        · exact arrives r
        · dsimp only
          exact driveSteps_modPort (portActs_positionProfile regulated _ _ _)
      · next hv =>
        have regulated : (s.port m).isRegulated = true := by simp [Port.isRegulated, h, hv]
        dsimp only
        exact driveSteps_modPort (portActs_holdProfile regulated)
      · exact .refl s
    · split
      · next h => exact driveSteps_modPort (portActs_holdProfile (isRegulated_of_holds h))
      · exact .refl s

theorem driveSteps_regulatorStep (s : State) (m : Idx6) : DriveSteps s (s.regulatorStep m) := by
  refine driveSteps_modPort ?_
  split
  · next h => exact (PortAct.regulates h).acts
  · exact .refl

theorem driveSteps_guardStep (s : State) (m : Idx6) : DriveSteps s (s.guardStep m).1 := by
  unfold State.guardStep
  split
  · next r h =>
    split
    · split
      · exact .refl s
      · dsimp only
        exact driveSteps_modPort (PortAct.acts (.runsOn h (by rfl)))
      · exact driveSteps_endLater s m _ _
      · exact driveSteps_endLater s m _ _
    · exact .refl s
  · exact .refl s

theorem driveSteps_stallStep (s : State) (m : Idx6) : DriveSteps s (s.stallStep m).1 := by
  unfold State.stallStep
  dsimp only
  split
  · have strained : DriveSteps s (s.modPort m fun p => { p with stallTimer := (s.port m).nextStallTimer }) :=
      driveSteps_modPort (PortAct.strains _).acts
    split
    · exact strained.trans (driveSteps_clearPorts _ _ _ fun _ => (PortAct.rests _).acts)
    · exact strained
  · exact .refl s

theorem driveSteps_timedStep (s : State) (m : Idx6) (started : Bool) : DriveSteps s (s.timedStep m started) := by
  unfold State.timedStep
  split
  · next r h =>
    split
    · exact .refl s
    · have elapsed (n : Nat) : DriveSteps s (s.modPort m fun p => { p with act := .running { r with elapsed := n } }) :=
        driveSteps_modPort (PortAct.acts (.runsOn h (by rfl)))
      dsimp only
      split
      · exact (elapsed _).trans (driveSteps_endLater _ m _ _)
      · exact elapsed _
  · exact .refl s

theorem driveSteps_afterProfile (m : Idx6) (x : State × Passed) : DriveSteps x.1 (State.afterProfile m x) := by
  have guarded := (driveSteps_regulatorStep x.1 m).trans (driveSteps_guardStep (x.1.regulatorStep m) m)
  unfold State.afterProfile
  dsimp only
  split
  · exact guarded
  · split
    · split
      · exact guarded
      · exact guarded.trans (driveSteps_timedStep _ m _)
    · split
      · exact guarded.trans (driveSteps_stallStep _ m)
      · exact (guarded.trans (driveSteps_stallStep _ m)).trans (driveSteps_timedStep _ m _)

/-- The regulation event of a port that is not in SHUTDOWN, after its first three steps (R23). -/
theorem driveSteps_regulation (s : State) (m : Idx6) (awake : (s.port m).isShutdown = false) :
    DriveSteps (s.modPort m fun p => p.atEvent s.supply.product) (s.regulation m) := by
  rw [State.regulation_eq, awake]
  exact ((driveSteps_startDecision _ m false).trans (driveSteps_profileStep m _ _ _)).trans (driveSteps_afterProfile m _)

/-- In SHUTDOWN the regulation event is its first three steps (R23). -/
theorem regulation_asleep (s : State) (m : Idx6) (asleep : (s.port m).isShutdown = true) :
    s.regulation m = s.modPort m fun p => p.atEvent s.supply.product := by
  rw [State.regulation_eq, asleep]; rfl

/-! ### What the drive unit leaves alone -/

theorem DriveSteps.only {s t : State} (h : DriveSteps s t) : OnlyDrive s t := ⟨by rw [h.rest], h.attn⟩

theorem onlyDrive_modPort (s : State) (m : Idx6) (f : Port → Port) : OnlyDrive s (s.modPort m f) := ⟨rfl, .refl _⟩

theorem onlyDrive_foldl {α : Type} {f : State → α → State} (each : ∀ s a, OnlyDrive s (f s a)) (l : List α) (s : State) :
    OnlyDrive s (l.foldl f s) := by
  induction l generalizing s with
  | nil => exact ⟨rfl, .refl _⟩
  | cons a l ih => exact (each s a).trans (ih _)

/-- Stopping events, whatever they put the ports into (R13, R16, R17, R22, R52). -/
theorem onlyDrive_clearPorts (s : State) (who : Six Bool) (ending : Option OutcomeCode) (after : Port → Port) :
    OnlyDrive s (s.clearPorts who ending after) := by
  unfold State.clearPorts State.breakGroups
  refine (onlyDrive_foldl (fun t m => ?_) _ s).trans (onlyDrive_foldl (fun t q => ?_) _ _)
  · split
    · rw [clearPort_eq]
      exact (onlyDrive_modPort t m _).trans (driveSteps_raiseIf _ _ _).only
    · exact ⟨rfl, .refl _⟩
  · dsimp only
    split
    · exact (driveSteps_breakHead t q).only
    · exact ⟨rfl, .refl _⟩

/-- What an act of the drive unit leaves alone. -/
theorem DriveAct.only {s t : State} (act : DriveAct s t) : OnlyDrive s t := by
  cases act with
  | regulation m =>
    have first := onlyDrive_modPort s m fun p => p.atEvent s.supply.product
    cases asleep : (s.port m).isShutdown with
    | true => rw [regulation_asleep s m asleep]; exact first
    | false => exact first.trans (driveSteps_regulation s m asleep).only
  | encoder m pair => exact onlyDrive_modPort s m _
  | noteEncoder m pair => exact onlyDrive_modPort s m _
  | failStop who x => exact onlyDrive_clearPorts s _ _ _
  | allStop => exact onlyDrive_clearPorts s _ _ _
  | owners o => exact (onlyDrive_clearPorts s _ _ _).trans ⟨rfl, .refl _⟩
  | portSetup h =>
    simp only [takePortSetup, Check.bind_ok, Check.pure_ok, Prod.exists, Prod.mk.injEq] at h
    obtain ⟨m, _, _, _, _, _, _, rfl, _⟩ := h
    exact onlyDrive_modPort s m _
  | move h =>
    simp only [takeMove, Check.bind_ok, Check.pure_ok, Prod.exists, Prod.mk.injEq] at h
    obtain ⟨m, _, _, _, _, _, _, _, _, _, _, rfl, _⟩ := h
    exact onlyDrive_modPort s m _
  | moveNow h =>
    simp only [takeMoveNow, Check.bind_ok, Check.pure_ok, Prod.exists, Prod.mk.injEq] at h
    obtain ⟨m, _, _, _, _, _, _, _, _, rfl, _⟩ := h
    exact onlyDrive_clearPorts s _ _ _
  | queueClear h =>
    simp only [takeQueueClear, Check.bind_ok] at h
    obtain ⟨m, _, _, _, _, _, h⟩ := h
    split at h <;> cases h <;> exact onlyDrive_clearPorts s _ _ _
  | preset h =>
    simp only [takePreset, Check.bind_ok, Check.pure_ok, Prod.mk.injEq] at h
    obtain ⟨m, _, _, _, _, _, _, _, rfl, _⟩ := h
    exact onlyDrive_modPort s m _
  | groupDefine h =>
    simp only [takeGroupDefine, Check.bind_ok, Check.pure_ok, Prod.mk.injEq] at h
    obtain ⟨_, _, _, _, _, _, _, _, _, _, rfl, _⟩ := h
    exact ⟨rfl, .refl _⟩

end Sys2Proof.Machine
end

-- ==== Sys2Proof/Proofs/PortRanges.lean ====

section
/-! The ranges of every motor port's configuration, queue, counts and values, kept by every step (R1, R5, R18, R24, R25, R34, R37). -/

namespace Sys2Proof.Machine

/-! ### What holds of every port -/

/-- `K m` holds of every port m. -/
def State.allPorts (K : Idx6 → Port → Prop) (s : State) : Prop := ∀ m, K m (s.port m)

section
variable {K : Idx6 → Port → Prop}

theorem allPorts_of_motor {s t : State} (h : t.motor = s.motor) (all : s.allPorts K) : t.allPorts K := by
  intro m; unfold State.port; rw [h]; exact all m

theorem allPorts_modPort {s : State} {m : Idx6} {f : Port → Port} (all : s.allPorts K) (kept : K m (s.port m) → K m (f (s.port m))) :
    (s.modPort m f).allPorts K := by
  intro q
  rw [State.modPort_port]
  split
  · next e => rw [e]; exact kept (all m)
  · exact all q

theorem allPorts_driveSteps (each : ∀ m p q, PortAct p q → K m p → K m q) {s t : State} (h : DriveSteps s t)
    (all : s.allPorts K) : t.allPorts K :=
  fun m => PortActs.keep (each m _ _) (h.ports m) (all m)

/-- One event that clears several ports and puts each where `after` says (R13, R16, R17, R22, R52). -/
theorem allPorts_clearPorts (each : ∀ m p q, PortLoss p q → K m p → K m q) {s : State} {who : Six Bool}
    {ending : Option OutcomeCode} {after : Port → Port}
    (kept : ∀ m (p : Port) u, who.get m = true → K m (p.cleared ending u) → K m (after (p.cleared ending u)))
    (all : s.allPorts K) : (s.clearPorts who ending after).allPorts K := by
  have folded {α : Type} (f : State → α → State) (one : ∀ u a, u.allPorts K → (f u a).allPorts K) (l : List α) (u : State)
      (hu : u.allPorts K) : (l.foldl f u).allPorts K := by
    induction l generalizing u with
    | nil => exact hu
    | cons a l ih => exact ih _ (one u a hu)
  unfold State.clearPorts State.breakGroups
  refine folded _ (fun u q hu => ?_) _ _ (folded _ (fun u m hu => ?_) _ _ all)
  · dsimp only
    split
    · unfold State.breakHead
      split
      · next h =>
        refine allPorts_of_motor (State.raise_motor _ _) (allPorts_modPort hu fun hk => ?_)
        exact PortLosses.keep (each q _ _) (portLosses_broken h _ _) hk
      · exact hu
    · exact hu
  · split
    · next hw =>
      rw [clearPort_eq]
      refine allPorts_of_motor (State.raiseIf_motor _ _ _) (allPorts_modPort hu fun hk => ?_)
      exact kept m _ _ hw (PortLosses.keep (each m _ _) (portLosses_cleared _ _ _) hk)
    · exact hu

end

/-! ### The ranges -/

/-- The ranges and limits of a motor port together (R1, R5, R18, R24, R25, R34, R37). -/
def Port.inBounds (p : Port) : Prop :=
  p.configsInRanges = true ∧ p.fillsInLimits = true ∧ p.valuesInRanges = true

theorem Port.fillsInLimits_iff (p : Port) : p.fillsInLimits = true ↔
    p.queue.length ≤ 8 ∧ p.outcomes.length ≤ 4 ∧ p.dropped ≤ 255 ∧ p.discarded ≤ 255 ∧ p.encErrors ≤ 65535 ∧
      p.rawCount.natAbs ≤ 32767 := by
  simp [Port.fillsInLimits, and_assoc]

theorem Port.valuesInRanges_iff (p : Port) : p.valuesInRanges = true ↔
    p.position.natAbs ≤ 2147483647 ∧ p.integral.natAbs ≤ 256000 ∧ p.duty.natAbs ≤ p.ceiling := by
  simp [Port.valuesInRanges, and_assoc]

/-- Ports that agree in configurations have them in range together. -/
theorem Port.configsInRanges_congr {p q : Port} (h : q.config = p.config) (k : q.pendingConfig = p.pendingConfig) :
    q.configsInRanges = p.configsInRanges := by
  unfold Port.configsInRanges; rw [h, k]

theorem clampInt_natAbs_le {n : Int} (h : 0 ≤ n) (x : Int) : (clampInt (-n) n x).natAbs ≤ n.natAbs := by
  unfold clampInt; omega

/-- An outcome list keeps its limit, its dropped count its width (R18, R127). -/
theorem pushOutcome_limits {α : Type} {list : List α} {dropped : Nat} (r : α) (h : list.length ≤ 4) (k : dropped ≤ 255) :
    (pushOutcome list dropped r).1.length ≤ 4 ∧ (pushOutcome list dropped r).2 ≤ 255 := by
  unfold pushOutcome satAdd
  split
  · simp only [List.length_append, List.length_singleton]; omega
  · simp only [List.length_append, List.length_tail, List.length_singleton]; omega

theorem Port.addOutcome_inBounds {p : Port} (mv : Move) (x : OutcomeCode) (uptime : Word) (h : p.inBounds) :
    (p.addOutcome mv x uptime).inBounds := by
  obtain ⟨hc, hf, hv⟩ := h
  obtain ⟨hq, ho, hd, hdis, he, hr⟩ := p.fillsInLimits_iff.mp hf
  have pushed := pushOutcome_limits (⟨mv.tag, mv.issuer, x, p.position, uptime⟩ : MotorOutcome) ho hd
  exact ⟨hc, (Port.fillsInLimits_iff _).mpr ⟨hq, pushed.1, pushed.2, hdis, he, hr⟩, hv⟩

theorem Port.leaveWait_eq (p : Port) : p.leaveWait = { p with act := p.act.notWaiting } := by
  cases p with
  | mk _ _ _ act => cases act <;> rfl

/-- A port that differs in nothing that has a range, but for a shorter queue and values at 0, stays in bounds. -/
theorem Port.inBounds_of_less {p q : Port} (h : p.inBounds) (config : q.config = p.config)
    (pending : q.pendingConfig = p.pendingConfig) (queue : q.queue.length ≤ p.queue.length) (outcomes : q.outcomes = p.outcomes)
    (dropped : q.dropped = p.dropped) (discarded : q.discarded ≤ 255) (errors : q.encErrors = p.encErrors)
    (raw : q.rawCount = p.rawCount) (position : q.position = p.position) (integral : q.integral = p.integral ∨ q.integral = 0)
    (duty : q.duty = p.duty ∨ q.duty = 0) (ceiling : q.ceiling = p.ceiling) : q.inBounds := by
  obtain ⟨hc, hf, hv⟩ := h
  obtain ⟨hq, ho, hd, hdis, he, hr⟩ := p.fillsInLimits_iff.mp hf
  obtain ⟨hp, hi, hu⟩ := p.valuesInRanges_iff.mp hv
  refine ⟨(Port.configsInRanges_congr config pending).trans hc, (Port.fillsInLimits_iff _).mpr ?_, (Port.valuesInRanges_iff _).mpr ?_⟩
  · rw [outcomes, dropped, errors, raw]
    exact ⟨queue.trans hq, ho, hd, discarded, he, hr⟩
  · rw [position, ceiling]
    refine ⟨hp, ?_, ?_⟩
    · rcases integral with e | e <;> rw [e]
      · exact hi
      · decide
    · rcases duty with e | e <;> rw [e]
      · exact hu
      · exact Nat.zero_le _

theorem Port.discarded_le {p : Port} (h : p.inBounds) : p.discarded ≤ 255 := (p.fillsInLimits_iff.mp h.2.1).2.2.2.1

theorem Port.enterRest_inBounds {p : Port} (r : Rest) (h : p.inBounds) : (p.enterRest r).inBounds := by
  have k := Port.discarded_le h
  cases r <;>
    exact Port.inBounds_of_less h rfl rfl le_rfl rfl rfl k rfl rfl rfl (by simp [Port.enterRest]) (by simp [Port.enterRest]) rfl

theorem Port.startHead_inBounds {p : Port} (carry : Bool) (h : p.inBounds) : (p.startHead carry).inBounds := by
  have k := Port.discarded_le h
  unfold Port.startHead
  split
  · next mv rest hq =>
    have shorter : rest.length ≤ p.queue.length := by rw [hq]; exact Nat.le_succ _
    have carried : (if carry then p.integral else 0) = p.integral ∨ (if carry then p.integral else 0) = 0 := by
      cases carry <;> simp
    unfold Port.startMove
    dsimp only
    split <;> exact Port.inBounds_of_less h rfl rfl shorter rfl rfl k rfl rfl rfl (by first | exact carried | exact .inr rfl)
      (by simp) rfl
  · exact h

/-- R34 to R36: the regulator keeps the integral in its range and the duty within the ceiling. -/
theorem Port.regulate_inBounds {p : Port} (h : p.inBounds) : p.regulate.inBounds := by
  obtain ⟨hc, hf, hv⟩ := h
  obtain ⟨hp, hi, hu⟩ := p.valuesInRanges_iff.mp hv
  refine ⟨hc, hf, (Port.valuesInRanges_iff _).mpr ⟨hp, ?_, ?_⟩⟩
  · have candidate := clampInt_natAbs_le (by decide : (0 : Int) ≤ 256000)
      (p.integral + p.config.ki * clampInt (-4000) 4000 (p.vp - p.vm))
    unfold Port.regulate
    dsimp only
    split
    · exact hi
    · split
      · exact hi
      · exact candidate
  · unfold Port.regulate
    dsimp only
    split <;> split <;> omega

theorem PortLoss.inBounds {p q : Port} (loss : PortLoss p q) (h : p.inBounds) : q.inBounds := by
  have k := Port.discarded_le h
  cases loss with
  | records mv x uptime => exact Port.addOutcome_inBounds mv x uptime h
  | dropsHead hq =>
    rw [Port.leaveWait_eq]
    exact Port.inBounds_of_less h rfl rfl (by rw [hq]; exact Nat.le_succ _) rfl rfl k rfl rfl rfl (.inl rfl) (.inl rfl) rfl
  | discards =>
    rw [Port.leaveWait_eq]
    exact Port.inBounds_of_less h rfl rfl (Nat.zero_le _) rfl rfl (Nat.min_le_left _ _) rfl rfl rfl (.inl rfl) (.inl rfl) rfl

theorem PortAct.inBounds {p q : Port} (act : PortAct p q) (h : p.inBounds) : q.inBounds := by
  have k := Port.discarded_le h
  cases act with
  | loses loss => exact loss.inBounds h
  | starts carry => exact Port.startHead_inBounds carry h
  | rests r => exact Port.enterRest_inBounds r h
  | marks _ =>
    unfold Port.markReady
    split <;> exact Port.inBounds_of_less h rfl rfl le_rfl rfl rfl k rfl rfl rfl (.inl rfl) (.inl rfl) rfl
  | ramps | runsOn | strains => exact h
  | regulates _ => exact Port.regulate_inBounds h

theorem Port.storeCeiling_inBounds {p : Port} (c : Nat) (h : p.inBounds) : (p.storeCeiling c).inBounds := by
  obtain ⟨hc, hf, hv⟩ := h
  obtain ⟨hp, hi, _⟩ := p.valuesInRanges_iff.mp hv
  refine ⟨hc, hf, (Port.valuesInRanges_iff _).mpr ⟨hp, hi, ?_⟩⟩
  unfold Port.storeCeiling clampInt
  dsimp only
  omega

theorem Port.enterShutdown_inBounds {p : Port} (h : p.inBounds) : p.enterShutdown.inBounds :=
  Port.inBounds_of_less h rfl rfl le_rfl rfl rfl (Port.discarded_le (p := p) h) rfl rfl rfl (.inr rfl) (.inr rfl) rfl

/-- R1, R25, R26, R37: the first steps of a regulation event. -/
theorem Port.atEvent_inBounds {p : Port} (product : Nat) (h : p.inBounds) : (p.atEvent product).inBounds := by
  obtain ⟨hc, hf, hv⟩ := h
  obtain ⟨hq, ho, hd, hdis, he, hr⟩ := p.fillsInLimits_iff.mp hf
  obtain ⟨hp, hi, hu⟩ := p.valuesInRanges_iff.mp hv
  refine ⟨?_, (Port.fillsInLimits_iff _).mpr ⟨hq, ho, hd, hdis, he, Nat.zero_le _⟩, (Port.valuesInRanges_iff _).mpr ⟨?_, hi, ?_⟩⟩
  · unfold Port.configsInRanges at hc ⊢
    unfold Port.atEvent
    dsimp only
    cases hpc : p.pendingConfig with
    | none => simpa [hpc] using hc
    | some c => simp only [hpc, Bool.and_eq_true] at hc; simpa using hc.2
  · unfold Port.atEvent; dsimp only; omega
  · unfold Port.atEvent
    dsimp only
    cases p.pendingConfig with
    | none => simpa using hu
    | some c => simp only [Option.isSome_some, if_true]; omega

/-- R24: a change of the encoder channels keeps the raw count and the error count in their ranges. -/
theorem Port.encoderChange_inBounds {p : Port} (pair : Bool × Bool) (h : p.inBounds) : (p.encoderChange pair).inBounds := by
  obtain ⟨hc, hf, hv⟩ := h
  obtain ⟨hq, ho, hd, hdis, he, hr⟩ := p.fillsInLimits_iff.mp hf
  have counted (n : Int) := clampInt_natAbs_le (by decide : (0 : Int) ≤ 32767) n
  unfold Port.encoderChange
  dsimp only
  split
  · exact ⟨hc, (Port.fillsInLimits_iff _).mpr ⟨hq, ho, hd, hdis, he, counted _⟩, hv⟩
  · exact ⟨hc, (Port.fillsInLimits_iff _).mpr ⟨hq, ho, hd, hdis, he, counted _⟩, hv⟩
  · exact ⟨hc, (Port.fillsInLimits_iff _).mpr ⟨hq, ho, hd, hdis, Nat.min_le_left _ _, hr⟩, hv⟩
  · exact ⟨hc, hf, hv⟩

/-- R1: a configuration that its checks accept lies in its ranges. -/
theorem checkPortConfig_inRanges {r : PortConfigRaw} {c : PortConfig} {b : Bool} (h : checkPortConfig r = .ok (c, b)) :
    c.inRanges = true := by
  simp only [checkPortConfig, Check.bind_ok, require_ok, inRange_ok, Check.pure_ok, Prod.mk.injEq] at h
  obtain ⟨_, _, _, _, maxSpeed, ⟨hm, rfl⟩, kp, ⟨hkp, rfl⟩, ki, ⟨hki, rfl⟩, kf, ⟨hkf, rfl⟩, limit, ⟨hl, rfl⟩, sd, ⟨hsd, rfl⟩, ss,
    ⟨hss, rfl⟩, st, ⟨hst, rfl⟩, tol, ⟨htol, rfl⟩, hold, ⟨hh, rfl⟩, fail, _, rfl, _⟩ := h
  have accel : 100 ≤ clampNat 100 20000 r.accel.toNat ∧ clampNat 100 20000 r.accel.toNat ≤ 20000 := by
    unfold clampNat; omega
  simp only [PortConfig.inRanges, Bool.and_eq_true, decide_eq_true_eq]
  omega

/-! ### Every act keeps them -/

/-- Every motor port is in bounds. -/
abbrev State.portsInBounds (s : State) : Prop := s.allPorts fun _ p => p.inBounds

theorem DriveAct.inBounds {s t : State} (act : DriveAct s t) (all : s.portsInBounds) : t.portsInBounds := by
  have steps {u v : State} (h : DriveSteps u v) (hu : u.portsInBounds) : v.portsInBounds :=
    allPorts_driveSteps (fun _ _ _ => PortAct.inBounds) h hu
  have only {m : Idx6} {ending : Option OutcomeCode} {after : Port → Port} (kept : ∀ p : Port, p.inBounds → (after p).inBounds) :
      (s.clearPorts ((Six.all false).set m true) ending after).portsInBounds :=
    allPorts_clearPorts (fun _ _ _ => PortLoss.inBounds) (fun _ p _ _ hp => kept _ hp) all
  cases act with
  | regulation m =>
    have first : (s.modPort m fun p => p.atEvent s.supply.product).portsInBounds :=
      allPorts_modPort all (Port.atEvent_inBounds _)
    cases asleep : (s.port m).isShutdown with
    | true => rw [regulation_asleep s m asleep]; exact first
    | false => exact steps (driveSteps_regulation s m asleep) first
  | encoder m pair => exact allPorts_modPort all (Port.encoderChange_inBounds pair)
  | noteEncoder m pair => exact allPorts_modPort all id
  | failStop who x => exact steps (driveSteps_failStop s who x) all
  | allStop => exact steps (driveSteps_clearPorts s _ _ portActs_brakeRest) all
  | owners o =>
    intro m
    have stopped := steps (driveSteps_failStop s (Six.ofFn fun m => (s.port m).owner != o.get m) .ownerChanged) all m
    unfold State.setMotorOwners State.port
    rw [Six.get_ofFn]
    exact stopped
  | portSetup h =>
    simp only [takePortSetup, Check.bind_ok, Check.pure_ok, Prod.exists, Prod.mk.injEq] at h
    obtain ⟨m, _, config, _, hc, _, _, rfl, _⟩ := h
    refine allPorts_modPort all fun ⟨hp, hf, hv⟩ => ⟨?_, hf, hv⟩
    simp only [Port.configsInRanges, Bool.and_eq_true] at hp ⊢
    exact ⟨hp.1, checkPortConfig_inRanges hc⟩
  | move h =>
    simp only [takeMove, Check.bind_ok, need_ok, Check.pure_ok, Prod.exists, Prod.mk.injEq, decide_eq_true_eq] at h
    obtain ⟨m, _, _, _, _, _, mv, _, _, _, room, rfl, _⟩ := h
    refine allPorts_modPort all fun ⟨hc, hf, hv⟩ => ⟨hc, ?_, hv⟩
    obtain ⟨_, rest⟩ := (Port.fillsInLimits_iff _).mp hf
    exact (Port.fillsInLimits_iff _).mpr ⟨by simp only [List.length_append, List.length_singleton]; omega, rest⟩
  | moveNow h =>
    simp only [takeMoveNow, Check.bind_ok, Check.pure_ok, Prod.exists, Prod.mk.injEq] at h
    obtain ⟨m, _, _, _, _, _, mv, _, _, rfl, _⟩ := h
    refine only fun p ⟨hc, hf, hv⟩ => ⟨hc, ?_, hv⟩
    obtain ⟨_, rest⟩ := (Port.fillsInLimits_iff _).mp hf
    exact (Port.fillsInLimits_iff _).mpr ⟨by simp, rest⟩
  | queueClear h =>
    simp only [takeQueueClear, Check.bind_ok] at h
    obtain ⟨m, _, _, _, f, _, h⟩ := h
    split at h
    · cases h; exact only fun p => Port.enterRest_inBounds _
    · cases h; exact only fun p hp => hp
  | preset h =>
    simp only [takePreset, Check.bind_ok, need_ok, Check.pure_ok, Prod.mk.injEq, bne_iff_ne] at h
    obtain ⟨m, _, _, _, _, inRange, _, _, rfl, _⟩ := h
    refine allPorts_modPort all fun ⟨hc, hf, hv⟩ => ⟨hc, ?_, ?_⟩
    · obtain ⟨hq, ho, hd, hdis, he, _⟩ := (Port.fillsInLimits_iff _).mp hf
      exact (Port.fillsInLimits_iff _).mpr ⟨hq, ho, hd, hdis, he, Nat.zero_le _⟩
    · obtain ⟨_, rest⟩ := (Port.valuesInRanges_iff _).mp hv
      refine (Port.valuesInRanges_iff _).mpr ⟨?_, rest⟩
      have lo := @BitVec.le_toInt 32
      have hi := @BitVec.toInt_lt 32
      grind
  | groupDefine h =>
    simp only [takeGroupDefine, Check.bind_ok, Check.pure_ok, Prod.mk.injEq] at h
    obtain ⟨_, _, _, _, _, _, _, _, _, _, rfl, _⟩ := h; exact all

theorem recomputeCeilings_port (s : State) (m : Idx6) :
    s.recomputeCeilings.port m = (s.port m).storeCeiling (min (s.port m).config.dutyLimit s.supply.product) := by
  rw [recomputeCeilings_eq]
  cases m <;> rfl

theorem recomputeCeilings_inBounds {s : State} (all : s.portsInBounds) : s.recomputeCeilings.portsInBounds := by
  intro m; rw [recomputeCeilings_port]; exact Port.storeCeiling_inBounds _ (all m)

theorem changeSupply_inBounds {s : State} (mode : SupplyMode) (all : s.portsInBounds) : (s.changeSupply mode).portsInBounds := by
  have stored : ((s.modSupply fun u => { u with mode := mode, scale := u.scaleFor mode }).recomputeCeilings).portsInBounds :=
    recomputeCeilings_inBounds all
  have entered : ((s.modSupply fun u => { u with mode := mode, scale := u.scaleFor mode }).recomputeCeilings).criticalEntry.portsInBounds :=
    allPorts_of_motor (congrArg State.motor (onlySound_soundStop _ _).rest)
      (allPorts_clearPorts (fun _ _ _ => PortLoss.inBounds) (fun _ _ _ _ => Port.enterShutdown_inBounds) stored)
  have returned (u : State) (hu : u.portsInBounds) : u.leaveShutdown.portsInBounds := by
    intro m
    have e : u.leaveShutdown.port m = if (u.port m).isShutdown then (u.port m).enterRest .braked else u.port m := by
      unfold State.leaveShutdown State.port; rw [Six.get_map]
    rw [e]
    split
    · exact Port.enterRest_inBounds _ (hu m)
    · exact hu m
  have raised (u : State) (c : PowerCause) (hu : u.portsInBounds) : (u.raisePower c).portsInBounds :=
    allPorts_of_motor (State.raisePower_motor u c) hu
  unfold State.changeSupply
  dsimp only
  by_cases critical : mode = .critical
  · rw [if_pos critical]
    split
    · exact raised _ _ (returned _ (raised _ _ entered))
    · exact raised _ _ (raised _ _ entered)
  · rw [if_neg critical]
    split
    · exact raised _ _ (returned _ stored)
    · exact raised _ _ stored

theorem SupplyAct.inBounds {s t : State} (act : SupplyAct s t) (all : s.portsInBounds) : t.portsInBounds := by
  cases act with
  | battery v =>
    unfold State.batterySample
    dsimp only
    split
    · exact changeSupply_inBounds _ all
    · split
      · split
        · exact recomputeCeilings_inBounds all
        · exact all
      · exact all
  | current v =>
    unfold State.currentReading
    dsimp only
    split
    · split
      · exact recomputeCeilings_inBounds all
      · exact recomputeCeilings_inBounds all
    · exact all
  | holdExpires =>
    unfold State.holdExpires
    split
    · exact changeSupply_inBounds _ all
    · exact all
  | setup h =>
    simp only [takePowerSetup, Check.bind_ok, Check.pure_ok, Prod.mk.injEq] at h
    obtain ⟨_, _, _, _, _, _, _, _, _, _, rfl, _⟩ := h; exact all

/-- What a notice makes of a port: nothing, or its reported items cleared (R165). -/
theorem beginAttention_port (s : State) (l : LineId) (m : Idx6) :
    (s.beginAttention l).port m = s.port m ∨
      (s.beginAttention l).port m = { s.port m with outcomes := [], dropped := 0, discarded := 0 } := by
  unfold State.beginAttention
  split
  · next src _ =>
    have e : ((({ s with attn := s.attn.setCount src 0 } : State).clearReported src).startTx l .attention (s.noticeBody src)
        |>.setMarker l .relay).port m = (({ s with attn := s.attn.setCount src 0 } : State).clearReported src).port m := by
      cases l <;> rfl
    rw [e]
    cases src with
    | motor k =>
      unfold State.clearReported
      rw [State.modPort_port]
      split
      · next h => subst h; exact .inr rfl
      · exact .inl rfl
    | _ => exact .inl rfl
  · exact .inl rfl

theorem Port.reset_inBounds (levels : Bool × Bool) : (Port.reset levels).inBounds := ⟨rfl, rfl, rfl⟩

theorem resetTo_port (s : State) (cause : PowerCause) (m : Idx6) : (s.resetTo cause).port m = Port.reset (s.port m).encLevels := by
  unfold State.resetTo State.port; rw [Six.get_map]

/-- Every act keeps every port in bounds. -/
theorem Act.inBounds {s t : State} (act : Act s t) (all : s.portsInBounds) : t.portsInBounds := by
  cases act with
  | drive h => exact h.inBounds all
  | sensor h => exact allPorts_of_motor (congrArg State.motor h.only.rest) all
  | sound h => exact allPorts_of_motor (congrArg State.motor h.only.rest) all
  | supply h => exact h.inBounds all
  | line h => exact allPorts_of_motor (congrArg State.motor h.only.rest) all
  | @notice l _ _ =>
    intro m
    rcases beginAttention_port s l m with e | e <;> rw [e]
    · exact all m
    · obtain ⟨hc, hf, hv⟩ := all m
      obtain ⟨hq, _, _, _, he, hr⟩ := (Port.fillsInLimits_iff _).mp hf
      exact ⟨hc, (Port.fillsInLimits_iff _).mpr ⟨hq, Nat.zero_le _, Nat.zero_le _, Nat.zero_le _, he, hr⟩, hv⟩
  | resetBegins => exact all
  | resetEnds cause => intro m; rw [resetTo_port]; exact Port.reset_inBounds _

/-- Settles O55: every step is a chain of acts, and every act keeps every port in bounds. -/
theorem stepKeepsPortRanges : Obligations.StepKeepsPortRanges := by
  intro s t h all
  exact step_keeps (I := State.portsInBounds) Act.inBounds (fun _ k => k) h all

end Sys2Proof.Machine
end

-- ==== Sys2Proof/Proofs/PortStates.lean ====

section
/-! What each port state drives, the issuers of records, and SHUTDOWN with the supply state, kept by every step (R2, R7, R8, R52,
R54). -/

namespace Sys2Proof.Machine

/-! ### One port -/

@[simp] theorem Activity.rest_beq_shutdown (x : Rest) : (Activity.rest x == .shutdown) = false := rfl
@[simp] theorem Activity.groupWait_beq_shutdown (x : Rest) : (Activity.groupWait x == .shutdown) = false := rfl
@[simp] theorem Activity.running_beq_shutdown (r : Running) : (Activity.running r == .shutdown) = false := rfl

/-- A port as its state, its owner and the supply have it: in SHUTDOWN exactly where the supply holds it (R52, R54), driving what its
state drives (R7, R8), every record its owner's (R2). -/
def Port.sits (held : Bool) (o : Owner) (p : Port) : Prop :=
  p.isShutdown = held ∧ p.stateFits = true ∧ p.issuersFit = true ∧ p.owner = o

theorem Port.isStill_iff (p : Port) : p.isStill = true ↔ p.vp = 0 ∧ p.integral = 0 ∧ p.duty = 0 := by
  simp [Port.isStill, and_assoc]

section
variable {held : Bool} {o : Owner} {p : Port}

/-- What leaves state, queue and drive alone leaves a port sitting as it sat. -/
theorem Port.sits_congr {q : Port} (h : p.sits held o) (act : q.act = p.act) (queue : q.queue = p.queue)
    (replacing : q.replacing = p.replacing) (vp : q.vp = p.vp) (integral : q.integral = p.integral) (duty : q.duty = p.duty)
    (owner : q.owner = p.owner) : q.sits held o := by
  unfold Port.sits Port.isShutdown Port.stateFits Port.issuersFit Port.isStill Port.headGroup at *
  rw [act, queue, replacing, vp, integral, duty, owner]
  exact h

/-- Records waiting are the owner's, and so are those behind the head. -/
theorem Port.issuers_tail {mv : Move} {rest : List Move} (hq : p.queue = mv :: rest) (h : p.issuersFit = true) :
    mv.issuer = p.owner ∧ rest.all (fun r => r.issuer == p.owner) = true := by
  simp only [Port.issuersFit, hq, List.all_cons, Bool.and_eq_true, beq_iff_eq] at h
  exact ⟨h.1.1, h.1.2⟩

/-- A port that loses waiting records, and with the head its wait for a group, sits (R13, R22). -/
theorem Port.sits_lessQueue {queue : List Move} (n : Nat) (h : p.sits held o) (fewer : ∀ r ∈ queue, r ∈ p.queue) :
    ({ p with queue := queue, replacing := false, discarded := n, act := p.act.notWaiting } : Port).sits held o := by
  obtain ⟨hs, hf, hi, ho⟩ := h
  have issuers : queue.all (fun r => r.issuer == p.owner) = true := by
    simp only [Port.issuersFit, Bool.and_eq_true, List.all_eq_true] at hi
    exact List.all_eq_true.mpr fun r hr => hi.1 r (fewer r hr)
  have empty (none : p.queue.isEmpty = true) : queue.isEmpty = true := by
    rw [List.isEmpty_iff] at none ⊢
    exact List.eq_nil_iff_forall_not_mem.mpr fun r hr => by have := fewer r hr; simp [none] at this
  unfold Port.sits Port.isShutdown Port.stateFits Port.issuersFit Port.isStill at *
  cases ha : p.act with
  | rest x => cases x <;> simp_all [Activity.notWaiting]
  | groupWait x => cases x <;> simp_all [Activity.notWaiting]
  | running r => simp_all [Activity.notWaiting]
  | shutdown => simp_all [Activity.notWaiting]

theorem PortLoss.sits {q : Port} (loss : PortLoss p q) (h : p.sits held o) : q.sits held o := by
  cases loss with
  | records mv x uptime => exact Port.sits_congr h rfl rfl rfl rfl rfl rfl rfl
  | dropsHead hq =>
    rw [Port.leaveWait_eq]
    exact Port.sits_lessQueue (p := p) p.discarded h (by rw [hq]; exact fun _ => List.mem_cons_of_mem _)
  | discards =>
    rw [Port.leaveWait_eq]
    exact Port.sits_lessQueue (p := p) _ h fun _ hr => absurd hr List.not_mem_nil

theorem Port.enterRest_sits (x : Rest) (h : p.sits false o) : (p.enterRest x).sits false o := by
  obtain ⟨hs, hf, hi, ho⟩ := h
  unfold Port.stateFits at hf
  unfold Port.issuersFit at hi
  simp only [Bool.and_eq_true] at hf hi
  cases x <;> simp [Port.enterRest, Port.sits, Port.isShutdown, Port.stateFits, Port.issuersFit, Port.isStill, ho] <;>
    exact ⟨by simpa using hf.2, by simpa [ho] using hi.1⟩

theorem Port.failRest_sits (h : p.sits held o) : p.failRest.sits held o := by
  unfold Port.failRest
  split
  · exact h
  · next awake =>
    have e : held = false := by rw [← h.1]; simpa using awake
    subst e; exact Port.enterRest_sits _ h

theorem Port.brakeRest_sits (h : p.sits held o) : p.brakeRest.sits held o := by
  unfold Port.brakeRest
  split
  · exact h
  · next awake =>
    have e : held = false := by rw [← h.1]; simpa using awake
    subst e; exact Port.enterRest_sits _ h

/-- The started head is the owner's, and a COAST or BRAKE rest drives nothing (R8, R9). -/
theorem Port.startHead_sits (carry : Bool) (h : p.sits false o) : (p.startHead carry).sits false o := by
  unfold Port.startHead
  split
  · next mv rest hq =>
    obtain ⟨_, _, hi, ho⟩ := h
    obtain ⟨head, tail⟩ := Port.issuers_tail hq hi
    unfold Port.startMove
    dsimp only
    split <;>
      simp_all [Port.sits, Port.isShutdown, Port.stateFits, Port.issuersFit, Port.isStill]
  · exact h

/-- A port whose regulator runs is in a state that may drive: v_p, integral and duty may change (R7, R8, R38). -/
theorem Port.sits_driven {q : Port} (regulated : p.isRegulated = true) (h : p.sits held o) (act : q.act = p.act)
    (queue : q.queue = p.queue) (replacing : q.replacing = p.replacing) (owner : q.owner = p.owner) : q.sits held o := by
  unfold Port.sits Port.isShutdown Port.stateFits Port.issuersFit Port.headGroup at *
  rw [act, queue, replacing, owner]
  refine ⟨h.1, ?_, h.2.2⟩
  have hf := h.2.1
  unfold Port.isRegulated at regulated
  cases ha : p.act with
  | rest x => cases x <;> simp_all [Activity.holds]
  | groupWait x => cases x <;> simp_all [Activity.holds]
  | running r =>
    cases hm : r.move.motion with
    | rest x d => cases x <;> simp_all
    | _ => simp_all
  | shutdown => simp_all [Activity.holds]

theorem Port.markReady_sits (hg : p.headGroup ≠ 0) (h : p.sits held o) : p.markReady.sits held o := by
  obtain ⟨hs, hf, hi, ho⟩ := h
  unfold Port.markReady
  split
  · next x ha =>
    unfold Port.sits Port.isShutdown Port.stateFits Port.issuersFit Port.isStill Port.headGroup at *
    cases x <;> simp_all
  · next r ha =>
    unfold Port.sits Port.isShutdown Port.stateFits Port.issuersFit Port.isStill at *
    simp_all
  · exact ⟨hs, hf, hi, ho⟩

theorem PortAct.sits {q : Port} (act : PortAct p q) (h : p.sits false o) : q.sits false o := by
  cases act with
  | loses loss => exact loss.sits h
  | starts carry => exact Port.startHead_sits carry h
  | rests x => exact Port.enterRest_sits x h
  | marks hg => exact Port.markReady_sits hg h
  | ramps vp regulated => exact Port.sits_driven regulated h rfl rfl rfl rfl
  | regulates regulated => exact Port.sits_driven regulated h rfl rfl rfl rfl
  | runsOn ha hm =>
    unfold Port.sits Port.isShutdown Port.stateFits Port.issuersFit Port.isStill at *
    simp_all
  | strains t => exact Port.sits_congr h rfl rfl rfl rfl rfl rfl rfl

/-- A stored ceiling leaves a duty of 0 at 0 (R37). -/
theorem Port.sits_clamped {q : Port} (h : p.sits held o) (act : q.act = p.act) (queue : q.queue = p.queue)
    (replacing : q.replacing = p.replacing) (vp : q.vp = p.vp) (integral : q.integral = p.integral)
    (duty : p.duty = 0 → q.duty = 0) (owner : q.owner = p.owner) : q.sits held o := by
  have still (hp : p.isStill = true) : q.isStill = true := by
    obtain ⟨a, b, c⟩ := p.isStill_iff.mp hp
    exact q.isStill_iff.mpr ⟨vp.trans a, integral.trans b, duty c⟩
  obtain ⟨hs, hf, hi, ho⟩ := h
  unfold Port.sits Port.isShutdown Port.stateFits Port.issuersFit Port.headGroup at *
  rw [act, queue, replacing, owner]
  refine ⟨hs, ?_, hi, ho⟩
  cases ha : p.act with
  | rest x => cases x <;> simp_all
  | groupWait x => cases x <;> simp_all
  | running r =>
    cases hm : r.move.motion with
    | rest x d => cases x <;> simp_all
    | _ => simp_all
  | shutdown => simp_all; tauto

theorem Port.storeCeiling_sits (c : Nat) (h : p.sits held o) : (p.storeCeiling c).sits held o := by
  refine Port.sits_clamped h rfl rfl rfl rfl rfl (fun e => ?_) rfl
  simp only [Port.storeCeiling, e, clampInt]; omega

theorem Port.atEvent_sits (product : Nat) (h : p.sits held o) : (p.atEvent product).sits held o := by
  refine Port.sits_clamped h rfl rfl rfl rfl rfl (fun e => ?_) rfl
  unfold Port.atEvent
  dsimp only
  split
  · rw [e]; omega
  · exact e

/-- A port put into SHUTDOWN with its queue gone (R52). -/
theorem Port.enterShutdown_sits (hq : p.queue = []) (hr : p.replacing = false) (ho : p.owner = o) :
    p.enterShutdown.sits true o := by
  simp [Port.enterShutdown, Port.sits, Port.isShutdown, Port.stateFits, Port.issuersFit, Port.isStill, hq, hr, ho]

/-- A port that leaves SHUTDOWN for BRAKED (R54). -/
theorem Port.leaveShutdown_sits (h : p.sits true o) : (p.enterRest .braked).sits false o := by
  obtain ⟨hs, hf, hi, ho⟩ := h
  simp_all [Port.enterRest, Port.sits, Port.isShutdown, Port.stateFits, Port.issuersFit, Port.isStill]
  tauto

/-- What a cleared port has left (R13). -/
theorem Port.cleared_parts (p : Port) (ending : Option OutcomeCode) (u : Word) :
    (p.cleared ending u).queue = [] ∧ (p.cleared ending u).replacing = false ∧ (p.cleared ending u).owner = p.owner ∧
      (p.cleared ending u).act = p.act.notWaiting := by
  have ended (x : OutcomeCode) : (p.endRunning x u).owner = p.owner ∧ (p.endRunning x u).act = p.act := by
    unfold Port.endRunning
    split
    · exact ⟨rfl, rfl⟩
    · exact ⟨rfl, rfl⟩
  unfold Port.cleared
  rw [Port.leaveWait_eq]
  cases ending with
  | none => exact ⟨rfl, rfl, rfl, rfl⟩
  | some x => exact ⟨rfl, rfl, (ended x).1, congrArg Activity.notWaiting (ended x).2⟩

end

theorem Port.cleared_discarded (p : Port) (ending : Option OutcomeCode) (u : Word) :
    (p.cleared ending u).discarded = satAdd 255 p.discarded p.queue.length := by
  unfold Port.cleared
  rw [Port.leaveWait_eq]
  cases ending with
  | none => rfl
  | some x =>
    show ((p.endRunning x u).discardQueue).discarded = _
    unfold Port.endRunning
    split <;> rfl

theorem Port.failRest_discarded (p : Port) : p.failRest.discarded = p.discarded := by
  unfold Port.failRest
  split
  · rfl
  · unfold Port.enterRest; split <;> rfl

/-- What a fail stop leaves of a port: no record waits and none runs (R16). -/
theorem Port.failRest_cleared_empty (p : Port) (x : OutcomeCode) (u : Word) :
    let q := (p.cleared (some x) u).failRest
    q.queue = [] ∧ ∀ r, q.act ≠ .running r := by
  obtain ⟨queue, _, _, act⟩ := p.cleared_parts (some x) u
  intro q
  show (Port.failRest _).queue = [] ∧ ∀ r, (Port.failRest _).act ≠ .running r
  unfold Port.failRest
  split
  · next asleep =>
    refine ⟨queue, fun r hr => ?_⟩
    rw [Port.isShutdown, hr] at asleep
    cases asleep
  · exact ⟨by cases (p.cleared (some x) u).config.failAction <;> exact queue,
      fun r => by cases (p.cleared (some x) u).config.failAction <;> simp [Port.enterRest]⟩

/-- A port on which no record waits or runs may take another owner (R2). -/
theorem Port.sits_newOwner {p : Port} {held : Bool} {o : Owner} (n : Owner) (h : p.sits held o) (queue : p.queue = [])
    (rests : ∀ r, p.act ≠ .running r) : ({ p with owner := n } : Port).sits held n := by
  obtain ⟨hs, hf, _, _⟩ := h
  refine ⟨hs, hf, ?_, rfl⟩
  unfold Port.issuersFit
  dsimp only
  rw [queue]
  split
  · next r ha => exact absurd ha (rests r)
  · rfl

theorem Port.sits_sameOwner {p : Port} {held : Bool} {o n : Owner} (h : p.sits held o) (e : o = n) :
    ({ p with owner := n } : Port).sits held n := by
  obtain ⟨hs, hf, hi, ho⟩ := h
  subst e ho
  exact ⟨hs, hf, hi, rfl⟩

/-! ### The whole drive unit -/

/-- Every port sits as the supply state and its owner have it. -/
def State.portsSit (s : State) : Prop := ∀ m, (s.port m).sits s.powerHeld (s.port m).owner

/-- Ports that sit for given owners sit. -/
theorem portsSit_of {t : State} {held : Bool} {o : Idx6 → Owner} (e : t.powerHeld = held)
    (h : t.allPorts fun m p => p.sits held (o m)) : t.portsSit := by
  intro m
  rw [e, (h m).2.2.2]
  exact h m

theorem portsSit_of_motor {s t : State} (h : t.motor = s.motor) (k : t.supply = s.supply) (all : s.portsSit) : t.portsSit :=
  portsSit_of (o := fun m => (s.port m).owner) (by unfold State.powerHeld; rw [k]) (allPorts_of_motor h all)

theorem DriveSteps.supply {s t : State} (h : DriveSteps s t) : t.supply = s.supply := by
  rw [h.rest]

/-- The stopping events keep how ports sit, and their owners. -/
theorem clearPorts_sitAs {s : State} (who : Six Bool) (ending : Option OutcomeCode) {after : Port → Port} (all : s.portsSit)
    (kept : ∀ m (p : Port) u, who.get m = true → (p.cleared ending u).sits s.powerHeld (s.port m).owner →
      (after (p.cleared ending u)).sits s.powerHeld (s.port m).owner) :
    (s.clearPorts who ending after).allPorts fun m p => p.sits s.powerHeld (s.port m).owner :=
  allPorts_clearPorts (K := fun m p => p.sits s.powerHeld (s.port m).owner) (fun _ _ _ => PortLoss.sits) kept all

theorem clearPorts_sit {s : State} (who : Six Bool) (ending : Option OutcomeCode) {after : Port → Port} (all : s.portsSit)
    (kept : ∀ m (p : Port) u, who.get m = true → (p.cleared ending u).sits s.powerHeld (s.port m).owner →
      (after (p.cleared ending u)).sits s.powerHeld (s.port m).owner) : (s.clearPorts who ending after).portsSit :=
  portsSit_of (o := fun m => (s.port m).owner) (by unfold State.powerHeld; rw [clearPorts_supply])
    (clearPorts_sitAs who ending all kept)

theorem modPort_sit {s : State} {m : Idx6} {f : Port → Port} (all : s.portsSit)
    (kept : (s.port m).sits s.powerHeld (s.port m).owner → (f (s.port m)).sits s.powerHeld (s.port m).owner) :
    (s.modPort m f).portsSit :=
  portsSit_of (o := fun m => (s.port m).owner) rfl
    (allPorts_modPort (K := fun m p => p.sits s.powerHeld (s.port m).owner) all kept)

/-- A regulation event keeps how ports sit: in SHUTDOWN it only measures, elsewhere the supply holds nothing (R23, R52). -/
theorem regulation_sit {s : State} (m : Idx6) (all : s.portsSit) : (s.regulation m).portsSit := by
  cases asleep : (s.port m).isShutdown with
  | true => rw [regulation_asleep s m asleep]; exact modPort_sit all (Port.atEvent_sits _)
  | false =>
    have steps := driveSteps_regulation s m asleep
    have held : s.powerHeld = false := (all m).1.symm.trans asleep
    have awake : s.allPorts fun q p => p.sits false (s.port q).owner := fun q => held ▸ all q
    exact portsSit_of (o := fun q => (s.port q).owner) (held := false) (by unfold State.powerHeld at held ⊢; rw [steps.supply]; exact held)
      (allPorts_driveSteps (K := fun q p => p.sits false (s.port q).owner) (fun _ _ _ => PortAct.sits) steps
        (allPorts_modPort awake (Port.atEvent_sits _)))

/-- SET_OWNERS keeps how ports sit: a port whose owner changes has nothing left of the old one (R2, R16). -/
theorem setMotorOwners_sit {s : State} (o : Six Owner) (all : s.portsSit) : (s.setMotorOwners o).portsSit := by
  have stopped : (s.failStop (Six.ofFn fun m => (s.port m).owner != o.get m) .ownerChanged).allPorts
      fun m p => p.sits s.powerHeld (s.port m).owner := clearPorts_sitAs _ _ all fun _ _ _ _ => Port.failRest_sits
  have ports := (clearPorts_stops s (Six.ofFn fun m => (s.port m).owner != o.get m) (some .ownerChanged) Port.failRest
    (fun p => (p.cleared (some .ownerChanged) s.uptime).failRest) (fun _ _ => rfl)
    (fun m _ => (Port.failRest_discarded _).trans (Port.cleared_discarded _ _ _))).ports
  intro m
  have sat := stopped m
  have at_m : (s.setMotorOwners o).port m =
      { (s.failStop (Six.ofFn fun m => (s.port m).owner != o.get m) .ownerChanged).port m with owner := o.get m } := by
    cases m <;> rfl
  have held : (s.setMotorOwners o).powerHeld = s.powerHeld := by
    show (s.clearPorts _ _ _).powerHeld = _
    unfold State.powerHeld; rw [clearPorts_supply]
  rw [at_m, held]
  have now := ports m
  rw [Six.get_ofFn] at now
  by_cases changed : (s.port m).owner = o.get m
  · exact Port.sits_sameOwner sat changed
  · have empty := Port.failRest_cleared_empty (s.port m) .ownerChanged s.uptime
    rw [if_pos (by simpa using changed)] at now
    refine Port.sits_newOwner _ sat ?_ ?_
    · exact (congrArg Port.queue now).trans empty.1
    · exact fun r hr => empty.2 r ((congrArg Port.act now).symm.trans hr)

theorem checkMove_issuer {l : LineId} {m : Idx6} {now : Bool} {r : MoveRaw} {s : State} {mv : Move} {b : Bool}
    (h : checkMove l m now r s = .ok (mv, b)) : mv.issuer = issuerOf l ∧ (now = true → mv.group = 0) := by
  simp only [checkMove, Check.bind_ok, require_ok, need_ok, Check.pure_ok, Prod.exists, Prod.mk.injEq, Bool.or_eq_true,
    beq_iff_eq, Bool.and_eq_true] at h
  obtain ⟨_, _, _, _, _, _, group, _, _, rfl, _⟩ := h
  refine ⟨rfl, fun e => ?_⟩
  rcases group with g | g
  · exact g
  · simp [e] at g

/-- Records of the port's owner put into the queue of a port that is not in SHUTDOWN, whose head, where the port waits for it, stays
(R2, R5, R11). -/
theorem Port.sits_queued {p q : Port} {o : Owner} (h : p.sits false o) (act : q.act = p.act) (nonempty : q.queue ≠ [])
    (own : ∀ r ∈ q.queue, r.issuer = o) (head : (∀ x, p.act ≠ .groupWait x) ∨ q.headGroup = p.headGroup) (vp : q.vp = p.vp)
    (integral : q.integral = p.integral) (duty : q.duty = p.duty) (owner : q.owner = p.owner) : q.sits false o := by
  obtain ⟨hs, hf, hi, ho⟩ := h
  have still : q.isStill = p.isStill := by unfold Port.isStill; rw [vp, integral, duty]
  have filled : q.queue.isEmpty = false := by rw [← Bool.not_eq_true, List.isEmpty_iff]; exact nonempty
  refine ⟨by unfold Port.isShutdown at hs ⊢; rw [act, hs], ?_, ?_, owner.trans ho⟩
  · unfold Port.stateFits at hf ⊢
    unfold Port.isShutdown at hs
    rw [act, still, filled]
    cases ha : p.act with
    | rest x => cases x <;> simp_all
    | groupWait x => cases x <;> simp_all
    | running r => simp_all
    | shutdown => simp_all
  · unfold Port.issuersFit at hi ⊢
    rw [act, owner]
    simp only [Bool.and_eq_true, List.all_eq_true, beq_iff_eq, ho] at hi ⊢
    exact ⟨own, hi.2⟩

theorem DriveAct.sit {s t : State} (h : DriveAct s t) (all : s.portsSit) : t.portsSit := by
  cases h with
  | regulation m => exact regulation_sit m all
  | encoder m pair =>
    refine modPort_sit all fun hp => ?_
    unfold Port.encoderChange
    dsimp only
    split <;> exact Port.sits_congr hp rfl rfl rfl rfl rfl rfl rfl
  | noteEncoder m pair => exact modPort_sit all fun hp => Port.sits_congr hp rfl rfl rfl rfl rfl rfl rfl
  | failStop who x => exact clearPorts_sit who _ all fun _ _ _ _ => Port.failRest_sits
  | allStop => exact clearPorts_sit _ _ all fun _ _ _ _ => Port.brakeRest_sits
  | owners o => exact setMotorOwners_sit o all
  | portSetup h =>
    simp only [takePortSetup, Check.bind_ok, Check.pure_ok, Prod.exists, Prod.mk.injEq] at h
    obtain ⟨m, _, config, _, hc, _, _, rfl, _⟩ := h
    exact modPort_sit all fun hp => Port.sits_congr hp rfl rfl rfl rfl rfl rfl rfl
  | @move l _ _ _ _ h =>
    simp only [takeMove, Check.bind_ok, need_ok, Check.pure_ok, Prod.exists, Prod.mk.injEq, beq_iff_eq, Bool.not_eq_true'] at h
    obtain ⟨m, _, _, owner, _, held, mv, _, hmv, _, _, rfl, _⟩ := h
    refine modPort_sit all fun hp => ?_
    rw [held] at hp ⊢
    have queued := hp.2.2.1
    simp only [Port.issuersFit, Bool.and_eq_true, List.all_eq_true, beq_iff_eq] at queued
    refine Port.sits_queued hp rfl (by simp) (fun r hr => ?_) ?_ rfl rfl rfl rfl
    · rcases List.mem_append.mp hr with old | new
      · exact queued.1 r old
      · rw [List.mem_singleton.mp new, (checkMove_issuer hmv).1, owner]
    · cases hq : (s.port m).queue with
      | nil =>
        left
        intro x hx
        have hf := hp.2.1
        unfold Port.stateFits Port.headGroup at hf
        rw [hx, hq] at hf
        cases x <;> simp at hf
      | cons head rest => right; simp [Port.headGroup, hq]
  | @moveNow l _ _ _ _ h =>
    simp only [takeMoveNow, Check.bind_ok, need_ok, Check.pure_ok, Prod.exists, Prod.mk.injEq, beq_iff_eq, Bool.not_eq_true'] at h
    obtain ⟨m, _, _, owner, _, held, mv, _, hmv, rfl, _⟩ := h
    refine clearPorts_sit _ _ all fun q p u hq hp => ?_
    have e : q = m := by
      rw [Six.get_set] at hq
      by_contra ne
      rw [if_neg ne] at hq
      cases q <;> cases hq
    subst e
    rw [held] at hp ⊢
    refine Port.sits_queued hp rfl (by simp) (fun r hr => ?_) (.inl fun x hx => ?_) rfl rfl rfl rfl
    · rw [List.mem_singleton.mp hr, (checkMove_issuer hmv).1, owner]
    · rw [(Port.cleared_parts p none u).2.2.2] at hx
      cases ha : p.act <;> rw [ha] at hx <;> cases hx
  | queueClear h =>
    simp only [takeQueueClear, Check.bind_ok] at h
    obtain ⟨m, _, _, _, f, _, h⟩ := h
    split at h
    · next r run _ =>
      cases h
      have awake : s.powerHeld = false := by rw [← (all m).1, Port.isShutdown, run]; rfl
      exact clearPorts_sit _ _ all fun q p u _ hp => by rw [awake] at hp ⊢; exact Port.enterRest_sits _ hp
    · cases h; exact clearPorts_sit _ _ all fun _ _ _ _ hp => hp
  | preset h =>
    simp only [takePreset, Check.bind_ok, need_ok, Check.pure_ok, Prod.mk.injEq, bne_iff_ne] at h
    obtain ⟨m, _, _, _, _, inRange, _, _, rfl, _⟩ := h
    exact modPort_sit all fun hp => Port.sits_congr hp rfl rfl rfl rfl rfl rfl rfl
  | groupDefine h =>
    simp only [takeGroupDefine, Check.bind_ok, Check.pure_ok, Prod.mk.injEq] at h
    obtain ⟨_, _, _, _, _, _, _, _, _, _, rfl, _⟩ := h; exact all

/-! ### The supply states -/

theorem powerHeld_of {s : State} {mode : SupplyMode} (h : s.supply.mode = mode) :
    s.powerHeld = (mode == .critical || mode == .recovery) := by
  unfold State.powerHeld; rw [h]

theorem changeSupply_mode (s : State) (mode : SupplyMode) : (s.changeSupply mode).supply.mode = mode := by
  obtain ⟨_, e⟩ := changeSupply_supply s mode
  rw [e]

/-- The ports at a change of supply state, before it stops or releases them: their ceilings stored (R51). -/
theorem ceilingsStored_sit {s : State} (mode : SupplyMode) (all : s.portsSit) :
    ((s.modSupply fun u => { u with mode := mode, scale := u.scaleFor mode }).recomputeCeilings).allPorts
      fun m p => p.sits s.powerHeld (s.port m).owner := by
  intro m
  rw [recomputeCeilings_port]
  exact Port.storeCeiling_sits _ (all m)

theorem soundStop_motor (s : State) (x : OutcomeCode) : (s.soundStop x).motor = s.motor := by
  rw [show s.soundStop x = _ from (onlySound_soundStop s x).rest]

/-- The CRITICAL entry puts every port into SHUTDOWN, wherever it was (R52). -/
theorem criticalEntry_sit {s : State} {held : Bool} {o : Idx6 → Owner} (all : s.allPorts fun m p => p.sits held (o m)) :
    s.criticalEntry.allPorts fun m p => p.sits true (o m) := by
  refine allPorts_of_motor (s := s.clearPorts (Six.all true) (some .power) Port.enterShutdown)
    (soundStop_motor _ _) fun m => ?_
  have shut := (clearPorts_stops s (Six.all true) (some .power) Port.enterShutdown
    (fun p => (p.cleared (some .power) s.uptime).enterShutdown) (fun _ _ => rfl) (fun _ _ => Port.cleared_discarded _ _ _)).ports m
  rw [if_pos (by cases m <;> rfl)] at shut
  obtain ⟨queue, replacing, owner, _⟩ := (s.port m).cleared_parts (some .power) s.uptime
  rw [shut]
  exact Port.enterShutdown_sits queue replacing (owner.trans (all m).2.2.2)

/-- The return from SHUTDOWN puts every port into BRAKED (R54). -/
theorem leaveShutdown_sit {s : State} {o : Idx6 → Owner} (all : s.allPorts fun m p => p.sits true (o m)) :
    s.leaveShutdown.allPorts fun m p => p.sits false (o m) := by
  intro m
  have e : s.leaveShutdown.port m = if (s.port m).isShutdown then (s.port m).enterRest .braked else s.port m := by
    unfold State.leaveShutdown State.port; rw [Six.get_map]
  rw [e, if_pos (all m).1]
  exact Port.leaveShutdown_sits (all m)

/-- The changes of supply state that there are (R47, R48, R54). -/
inductive SupplyMode.Follows : SupplyMode → SupplyMode → Prop
  | falls (a : SupplyMode) : Follows a .critical
  | recovers : Follows .critical .recovery
  | released {b : SupplyMode} : b = .normal ∨ b = .low → Follows .recovery b
  | levels {a b : SupplyMode} : (a == .critical || a == .recovery) = false → b = .normal ∨ b = .low → Follows a b

theorem nextMode_follows {u : Supply} (h : u.nextMode ≠ u.mode) : u.mode.Follows u.nextMode := by
  unfold Supply.nextMode at h ⊢
  cases hm : u.mode <;> rw [hm] at h <;> dsimp only at h ⊢
  case pending | normal | low =>
    split
    · exact .falls _
    · split
      · exact .levels rfl (by simp)
      · exact .levels rfl (by simp)
  case critical =>
    split
    · exact .recovers
    · next x => rw [if_neg x] at h; exact absurd rfl h
  case recovery =>
    split
    · exact .falls _
    · next x => rw [if_neg x] at h; exact absurd rfl h

theorem changeSupply_sit {s : State} {mode : SupplyMode} (follows : s.supply.mode.Follows mode) (all : s.portsSit) :
    (s.changeSupply mode).portsSit := by
  have stored := ceilingsStored_sit mode all
  have raised {u : State} {c : PowerCause} {held : Bool} (hu : u.allPorts fun m p => p.sits held (s.port m).owner) :
      (u.raisePower c).allPorts fun m p => p.sits held (s.port m).owner := allPorts_of_motor (State.raisePower_motor u c) hu
  have now := powerHeld_of (changeSupply_mode s mode)
  refine portsSit_of (o := fun m => (s.port m).owner) now ?_
  have before := powerHeld_of (s := s) rfl
  unfold State.changeSupply
  dsimp only
  generalize hs : s.supply.mode = old at follows before
  cases follows with
  | falls =>
    have returns : (old == .recovery && (SupplyMode.critical == .normal || SupplyMode.critical == .low)) = false := by
      cases old <;> rfl
    rw [if_pos rfl, returns]
    exact raised (raised (criticalEntry_sit stored))
  | recovers =>
    rw [before] at stored
    exact raised stored
  | released normal =>
    rw [before] at stored
    rcases normal with rfl | rfl <;> exact raised (leaveShutdown_sit stored)
  | levels awake normal =>
    rw [before, awake] at stored
    have returns : (old == .recovery) = false := by cases old <;> simp_all
    rw [returns]
    rcases normal with rfl | rfl <;> exact raised stored

theorem recomputeCeilings_sit {s : State} (all : s.portsSit) : s.recomputeCeilings.portsSit :=
  portsSit_of (o := fun m => (s.port m).owner) (powerHeld_of (by rw [recomputeCeilings_supply])) fun m => by
    rw [recomputeCeilings_port]; exact Port.storeCeiling_sits _ (all m)

theorem SupplyAct.sit {s t : State} (h : SupplyAct s t) (all : s.portsSit) : t.portsSit := by
  cases h with
  | battery v =>
    unfold State.batterySample
    dsimp only
    split
    · next changes => exact changeSupply_sit (nextMode_follows (u := s.supply.filterUpdate v) changes) all
    · split
      · split
        · exact recomputeCeilings_sit (s := { s with supply := _ }) all
        · exact all
      · exact all
  | current v =>
    unfold State.currentReading
    dsimp only
    have stored : (s.modSupply fun u => { u with itotal := v, foldback := s.supply.nextFoldback v }).recomputeCeilings.portsSit :=
      recomputeCeilings_sit (s := { s with supply := _ }) all
    split
    · split
      · exact portsSit_of_motor rfl rfl stored
      · exact stored
    · exact all
  | holdExpires =>
    unfold State.holdExpires
    split
    · next held =>
      simp only [Bool.and_eq_true, decide_eq_true_eq] at held
      refine changeSupply_sit ?_ all
      show s.supply.mode.Follows _
      rw [held.2]
      exact .released (by split <;> simp)
    · exact all
  | setup h =>
    simp only [takePowerSetup, Check.bind_ok, Check.pure_ok, Prod.mk.injEq] at h
    obtain ⟨_, _, _, _, _, _, _, _, _, _, rfl, _⟩ := h; exact all

/-! ### Every act -/

theorem beginAttention_mode (s : State) (l : LineId) : (s.beginAttention l).supply.mode = s.supply.mode := by
  unfold State.beginAttention
  split
  · next src _ => cases l <;> cases src <;> rfl
  · rfl

theorem Act.sit {s t : State} (act : Act s t) (all : s.portsSit) : t.portsSit := by
  cases act with
  | drive h => exact h.sit all
  | sensor h => exact portsSit_of_motor (congrArg State.motor h.only.rest) (congrArg State.supply h.only.rest) all
  | sound h => exact portsSit_of_motor (congrArg State.motor h.only.rest) (congrArg State.supply h.only.rest) all
  | supply h => exact h.sit all
  | line h => exact portsSit_of_motor (congrArg State.motor h.only.rest) (congrArg State.supply h.only.rest) all
  | @notice l _ _ =>
    refine portsSit_of (o := fun m => (s.port m).owner) (powerHeld_of (beginAttention_mode s l)) fun m => ?_
    rcases beginAttention_port s l m with e | e <;> rw [e]
    · exact all m
    · exact Port.sits_congr (all m) rfl rfl rfl rfl rfl rfl rfl
  | resetBegins => exact all
  | resetEnds cause =>
    intro m
    rw [resetTo_port]
    exact ⟨rfl, rfl, rfl, rfl⟩

theorem portsSit_iff (s : State) :
    s.portsSit ↔ s.shutdownFits = true ∧ ∀ m, (s.port m).stateFits = true ∧ (s.port m).issuersFit = true := by
  have every : ∀ m, m ∈ Idx6.all := by intro m; cases m <;> decide
  simp only [State.portsSit, Port.sits, State.shutdownFits, List.all_eq_true, beq_iff_eq, every, forall_const, and_true]
  exact ⟨fun h => ⟨fun m => (h m).1, fun m => (h m).2⟩, fun h m => ⟨h.1 m, h.2 m⟩⟩

/-- Settles O56: every step is a chain of acts, and every act leaves every port sitting as its owner and the supply have it. -/
theorem stepKeepsPortStates : Obligations.StepKeepsPortStates := by
  intro s t h fits
  exact (portsSit_iff t).mp (step_keeps (I := State.portsSit) Act.sit (fun _ k => k) h ((portsSit_iff s).mpr fits))

end Sys2Proof.Machine
end

-- ==== Sys2Proof/Proofs/SoundKept.lean ====

section
/-! The sound engine's fills, counts, settings and issuers, and its silence while the supply holds it, kept by every act of the engine
(R108 to R127, R52, R53). -/

namespace Sys2Proof.Machine

/-- The sound engine's fills, counts and settings, and the issuers of its clips, by name. -/
structure Sound.Sits (e : Sound) : Prop where
  queue : e.queue.length ≤ 4
  ring : e.ring.length ≤ 4096
  marks : e.marks.length ≤ 4
  depths : ∀ d ∈ e.marks, d ≤ e.ring.length
  volume : e.volume ≤ 100
  low : 256 ≤ e.threshold
  high : e.threshold ≤ 3840
  gain : e.gain = Sound.gainOf e.volume e.ceiling
  outcomes : e.outcomes.length ≤ 4
  dropped : e.dropped ≤ 255
  discarded : e.discarded ≤ 255
  underruns : e.underruns ≤ 65535
  waiting : ∀ c ∈ e.queue, c.issuer = e.owner
  playing : ∀ p, e.player.clip = some p → p.issuer = e.owner

theorem Sound.sits_iff (e : Sound) : e.Sits ↔ e.fits = true ∧ e.issuersFit = true := by
  simp only [Sound.fits, Sound.issuersFit, Bool.and_eq_true, decide_eq_true_eq, List.all_eq_true, beq_iff_eq, Option.all_eq_true_iff_get]
  constructor
  · rintro ⟨a, b, c, d, f, g, h, i, j, k, l, m, n, o⟩
    exact ⟨⟨⟨⟨⟨⟨⟨⟨⟨⟨⟨⟨a, b⟩, c⟩, d⟩, f⟩, g⟩, h⟩, i⟩, j⟩, k⟩, l⟩, m⟩, n, fun p => o _ (by simp)⟩
  · rintro ⟨⟨⟨⟨⟨⟨⟨⟨⟨⟨⟨⟨a, b⟩, c⟩, d⟩, f⟩, g⟩, h⟩, i⟩, j⟩, k⟩, l⟩, m⟩, n, o⟩
    exact ⟨a, b, c, d, f, g, h, i, j, k, l, m, n, fun p hp => by have := o (by simp [hp]); simpa [hp] using this⟩

/-- The engine plays nothing, and nothing waits in it (R52, R53). -/
def Sound.isSilent (e : Sound) : Prop := e.player = .idle ∧ e.queue = [] ∧ e.ring = [] ∧ e.marks = []

theorem soundHeldFits_iff (s : State) : s.soundHeldFits = true ↔ (s.powerHeld = true → s.sound.isSilent) := by
  unfold State.soundHeldFits Sound.isSilent
  cases s.powerHeld <;> simp [and_assoc]

/-! ### The operations of the engine -/

section
variable {e : Sound}

/-- A sound stop leaves a silent engine, its records and counts within their limits (R125). -/
theorem Sound.stopped_sits (x : OutcomeCode) (uptime : Word) (h : e.Sits) : (e.stopped x uptime).Sits := by
  have kept := h.outcomes
  have drops := h.dropped
  rw [Sound.stopped_eq]
  refine { h with
    queue := Nat.zero_le _, ring := Nat.zero_le _, marks := Nat.zero_le _, depths := nofun, waiting := nofun, playing := nofun
    discarded := Nat.min_le_left _ _, outcomes := ?_, dropped := ?_ }
  · dsimp only
    split
    · split <;> simp only [List.length_append, List.length_tail, List.length_singleton] <;> omega
    · exact kept
  · dsimp only
    split
    · exact Nat.min_le_left _ _
    · exact drops

theorem Sound.stopped_isSilent (x : OutcomeCode) (uptime : Word) : (e.stopped x uptime).isSilent := by
  rw [Sound.stopped_eq]; exact ⟨rfl, rfl, rfl, rfl⟩

/-- A ceiling stored sets the gain with it (R51, R122). -/
theorem Sound.storeCeiling_sits (c : Nat) (h : e.Sits) : (e.storeCeiling c).Sits := { h with gain := rfl }

end

/-! ### The output sample event -/

section
variable {s : State}

/-- Another player state, its clip the owner's. -/
theorem withPlayer_sits {p : Player} (h : s.sound.Sits) (own : ∀ c, p.clip = some c → c.issuer = s.sound.owner) :
    (s.withPlayer p).sound.Sits := { h with playing := own }

theorem ringConsumed_sound (n : Nat) : ∃ refill, (s.ringConsumed n).sound =
    { s.sound with ring := s.sound.ring.drop n, marks := s.sound.marks.map fun d => d - n, refill := refill } := by
  unfold State.ringConsumed
  dsimp only
  split
  · exact ⟨true, rfl⟩
  · exact ⟨s.sound.refill, rfl⟩

theorem ringConsumed_sits (n : Nat) (h : s.sound.Sits) : (s.ringConsumed n).sound.Sits := by
  obtain ⟨refill, e⟩ := ringConsumed_sound (s := s) n
  have ring := h.ring
  have depths := h.depths
  rw [e]
  refine { h with ring := ?_, marks := ?_, depths := fun d hd => ?_ }
  · rw [List.length_drop]; omega
  · rw [List.length_map]; exact h.marks
  · obtain ⟨d', hd', rfl⟩ := List.mem_map.mp hd
    have := depths d' hd'
    rw [List.length_drop]
    omega

/-- A mark dropped leaves the others (R118). -/
theorem Sound.dropMark_sits {e : Sound} (h : e.Sits) : ({ e with marks := e.marks.tail } : Sound).Sits :=
  { h with
    marks := (by rw [List.length_tail]; have := h.marks; omega)
    depths := fun d hd => h.depths d (List.mem_of_mem_tail hd) }

theorem fetchEnds_sits (c : StreamCtx) (h : s.sound.Sits) : (s.fetchEnds c).sound.Sits := by
  unfold State.fetchEnds
  split
  · exact Sound.dropMark_sits h
  · split
    · exact h
    · exact Sound.dropMark_sits (ringConsumed_sits 1 h)

theorem clipEnds_sits (p : Playing) (h : s.sound.Sits) : (s.clipEnds p).sound.Sits := by
  have kept := h.outcomes
  have drops := h.dropped
  refine { h with playing := nofun, outcomes := ?_, dropped := ?_ }
  · show ((if s.sound.outcomes.length < 4 then s.sound.outcomes else s.sound.outcomes.tail) ++ [_]).length ≤ 4
    split <;> simp only [List.length_append, List.length_tail, List.length_singleton] <;> omega
  · show (if s.sound.outcomes.length < 4 then s.sound.dropped else min 255 (s.sound.dropped + 1)) ≤ 255
    split <;> omega

theorem clipStarts_sits (h : s.sound.Sits) : s.clipStarts.sound.Sits := by
  unfold State.clipStarts
  dsimp only
  split
  · exact h
  · next c rest hq =>
    have fewer := h.queue
    have own := h.waiting
    rw [hq] at fewer own
    have started (ctx : PlayCtx) (refill : Bool) : ({ s.sound with
        queue := rest, player := .playing ⟨c.tag, c.issuer, ctx⟩, refill := refill } : Sound).Sits :=
      { h with
        queue := (Nat.le_succ _).trans fewer
        waiting := fun d hd => own d (List.mem_cons_of_mem _ hd)
        playing := fun p hp => by cases hp; exact own c List.mem_cons_self }
    split
    · exact started _ _
    · split <;> exact started _ _

theorem clipStarves_sound (p : Playing) (c : StreamCtx) : (s.clipStarves p c).sound = { s.sound with
    player := .playing { p with ctx := .stream { c with starved := true } }
    underruns := if c.starved then s.sound.underruns else min 65535 (s.sound.underruns + 1) } := by
  unfold State.clipStarves
  dsimp only
  generalize (if c.starved = true then s.sound.underruns else min 65535 (s.sound.underruns + 1)) = n
  split <;> rfl

theorem clipStarves_sits {p : Playing} (c : StreamCtx) (hp : s.sound.player = .playing p) (h : s.sound.Sits) :
    (s.clipStarves p c).sound.Sits := by
  have bound := h.underruns
  rw [clipStarves_sound]
  refine { h with underruns := ?_, playing := fun q hq => ?_ }
  · dsimp only; split <;> omega
  · cases hq; exact h.playing p (by rw [hp]; rfl)

theorem Plays.sits {s t : State} {x : Int} (h : Plays s t x) (hs : s.sound.Sits) : t.sound.Sits := by
  have own {s : State} {p : Playing} (hs : s.sound.Sits) (hp : s.sound.player = .playing p) (ctx : PlayCtx) :
      ∀ c, Player.clip (.playing { p with ctx := ctx }) = some c → c.issuer = s.sound.owner := by
    intro c hc; cases hc; exact hs.playing p (by rw [hp]; rfl)
  induction h with
  | silent => exact hs
  | starts _ _ _ ih => exact ih (clipStarts_sits hs)
  | sounds hp _ => exact withPlayer_sits hs fun c hc => hs.playing c (by rw [hp]; exact hc)
  | @resumes _ _ _ w _ hp _ _ ih =>
    refine ih (withPlayer_sits hs fun c hc => hs.playing c ?_)
    rw [hp, ← hc]
    cases w <;> rfl
  | tone hp _ _ => exact withPlayer_sits hs (own hs hp _)
  | toneEnds _ _ _ _ ih => exact ih (clipEnds_sits _ hs)
  | holds hp _ _ => exact withPlayer_sits hs (own hs hp _)
  | streamEnds _ _ _ _ _ ih => exact ih (clipEnds_sits _ (fetchEnds_sits _ hs))
  | starves hp _ _ _ _ => exact clipStarves_sits _ hp hs
  | @takes s p c hp _ _ _ _ =>
    refine withPlayer_sits (s := s.ringConsumed c.width) (ringConsumed_sits _ hs) ?_
    obtain ⟨refill, e⟩ := ringConsumed_sound (s := s) c.width
    rw [e]
    exact own hs hp _

/-- A silent engine stays silent through an output sample event (R112). -/
theorem Plays.of_silent {s t : State} {x : Int} (h : Plays s t x) (silent : s.sound.isSilent) : t = s := by
  obtain ⟨idle, queue, _, _⟩ := silent
  cases h with
  | silent => rfl
  | starts _ hq => exact absurd queue hq
  | sounds hp | resumes hp | tone hp | toneEnds hp | holds hp | streamEnds hp | starves hp | takes hp =>
    rw [idle] at hp; cases hp

end

/-! ### The acts of the engine -/

/-- What the engine keeps: its fits, its ceiling, and its silence while the supply holds it. -/
def State.soundSits (held : Bool) (product : Nat) (s : State) : Prop :=
  s.sound.Sits ∧ s.sound.ceiling = product ∧ (held = true → s.sound.isSilent)

theorem clipStarts_ceiling (s : State) : s.clipStarts.sound.ceiling = s.sound.ceiling := by
  unfold State.clipStarts
  dsimp only
  split
  · rfl
  · split
    · rfl
    · split <;> rfl

theorem Plays.ceiling {s t : State} {x : Int} (h : Plays s t x) : t.sound.ceiling = s.sound.ceiling := by
  have consumed (s : State) (n : Nat) : (s.ringConsumed n).sound.ceiling = s.sound.ceiling := by
    obtain ⟨_, e⟩ := ringConsumed_sound (s := s) n; rw [e]
  induction h with
  | silent | sounds | tone | holds => rfl
  | starts _ _ _ ih => exact ih.trans (clipStarts_ceiling _)
  | resumes _ _ _ ih => exact ih
  | toneEnds _ _ _ _ ih => exact ih
  | streamEnds _ _ _ _ _ ih =>
    refine ih.trans ?_
    show (State.fetchEnds _ _).sound.ceiling = _
    unfold State.fetchEnds
    split
    · rfl
    · split
      · rfl
      · exact consumed _ 1
  | starves => rw [clipStarves_sound]
  | takes => exact consumed _ _

theorem soundStop_sound (s : State) (x : OutcomeCode) : (s.soundStop x).sound = s.sound.stopped x s.uptime := by
  rw [State.soundStop_eq]

theorem Sound.stopped_ceiling (e : Sound) (x : OutcomeCode) (u : Word) : (e.stopped x u).ceiling = e.ceiling := by
  rw [Sound.stopped_eq]

theorem SoundAct.sits {s t : State} {product : Nat} (act : SoundAct s t) (h : s.soundSits s.powerHeld product) :
    t.soundSits s.powerHeld product := by
  obtain ⟨hs, hc, hh⟩ := h
  have awake {P : Prop} (k : s.powerHeld = false) : s.powerHeld = true → P := fun x => by rw [k] at x; cases x
  cases act with
  | sample =>
    obtain ⟨t, x, hp, e⟩ := outputSample_plays s
    rw [e]
    refine ⟨{ hp.sits hs with }, hp.ceiling.trans hc, fun held => ?_⟩
    have same := hp.of_silent (hh held)
    subst same
    exact hh held
  | stop x =>
    unfold State.soundSits
    rw [soundStop_sound, Sound.stopped_ceiling]
    exact ⟨Sound.stopped_sits _ _ hs, hc, fun _ => Sound.stopped_isSilent _ _⟩
  | owner o =>
    unfold State.setSoundOwner
    split
    · exact ⟨hs, hc, hh⟩
    · have silent := Sound.stopped_isSilent (e := s.sound) .ownerChanged s.uptime
      have kept := Sound.stopped_sits .ownerChanged s.uptime hs
      rw [← soundStop_sound] at silent kept
      refine ⟨{ kept with waiting := fun c hc => ?_, playing := fun p hp => ?_ }, ?_, fun _ => silent⟩
      · exact absurd hc (silent.2.1 ▸ List.not_mem_nil)
      · cases (congrArg Player.clip silent.1).symm.trans hp
      · show (s.soundStop .ownerChanged).sound.ceiling = product
        rw [soundStop_sound, Sound.stopped_ceiling, hc]
  | setup h =>
    simp only [takeSoundSetup, Check.bind_ok] at h
    obtain ⟨_, _, _, _, h⟩ := h
    split at h
    · simp only [Check.bind_ok, Check.pure_ok, Prod.mk.injEq, need_ok, Bool.and_eq_true, decide_eq_true_eq] at h
      obtain ⟨_, range, rfl, _⟩ := h
      exact ⟨{ hs with volume := Nat.min_le_left _ _, low := range.1, high := range.2, gain := rfl }, hc, hh⟩
    · cases h; exact ⟨hs, hc, hh⟩
  | @clip l r _ _ h =>
    simp only [takeClip, Check.bind_ok, Check.pure_ok, Prod.exists, Prod.mk.injEq, need_ok, beq_iff_eq, Bool.not_eq_true',
      decide_eq_true_eq] at h
    obtain ⟨_, owner, _, held, kind, _, _, _, room, rfl, _⟩ := h
    have queued : (s.modSound fun e => { e with queue := e.queue ++ [⟨kind, r.tag, issuerOf l⟩] }).sound.Sits :=
      { hs with
        queue := (by show (s.sound.queue ++ [_]).length ≤ 4; simp only [List.length_append, List.length_singleton]; omega)
        waiting := fun c hc => by
          rcases List.mem_append.mp hc with old | new
          · exact hs.waiting c old
          · rw [List.mem_singleton.mp new]; exact owner.symm }
    split
    · refine ⟨?_, ?_, awake held⟩
      · rw [State.startClip_eq]; exact clipStarts_sits queued
      · refine Eq.trans ?_ hc
        rw [State.startClip_eq, clipStarts_ceiling]
        rfl
    · exact ⟨queued, hc, awake held⟩
  | @data _ _ bytes _ _ _ h counted =>
    simp only [takeSoundData, Check.bind_ok, Check.pure_ok, Prod.mk.injEq, need_ok, Bool.not_eq_true', decide_eq_true_eq,
      Bool.or_eq_true] at h
    obtain ⟨_, _, _, held, _, _, ends, _, _, room, _, marks, rfl, _⟩ := h
    have depths := hs.depths
    have few := hs.marks
    refine ⟨{ hs with ring := ?_, marks := ?_, depths := fun d hd => ?_ }, hc, awake held⟩
    · show (s.sound.ring ++ _).length ≤ 4096
      rw [List.length_append]; omega
    · show (if ends = true then s.sound.marks ++ [_] else s.sound.marks).length ≤ 4
      split
      · next x => simp only [x, List.length_append, List.length_singleton, Bool.true_eq_false, false_or] at marks ⊢; omega
      · exact few
    · have old (x : d ∈ s.sound.marks) : d ≤ (s.sound.ring ++ bytes).length := by
        rw [List.length_append]; exact (depths d x).trans (Nat.le_add_right _ _)
      have hd : d ∈ if ends = true then s.sound.marks ++ [(s.sound.ring ++ bytes).length] else s.sound.marks := hd
      split at hd
      · rcases List.mem_append.mp hd with x | x
        · exact old x
        · exact (List.mem_singleton.mp x).le
      · exact old hd
  | tone h =>
    simp only [takeImmediateTone, Check.bind_ok, Check.pure_ok, Prod.mk.injEq, need_ok, Bool.not_eq_true'] at h
    obtain ⟨_, _, _, held, _, _, rfl, _⟩ := h
    exact ⟨{ hs with playing := fun p hp => hs.playing p hp }, hc, awake held⟩

end Sys2Proof.Machine
end

-- ==== Sys2Proof/Proofs/SupplyKept.lean ====

section
/-! The supply monitor's thresholds, S and F, every stored ceiling, and the sound engine, kept by every step (R46 to R54, R108 to
R127). -/

namespace Sys2Proof.Machine

/-! ### The supply monitor -/

/-- S as a supply state has it (R49). -/
def scaleFits (mode : SupplyMode) (scale : Nat) : Bool :=
  match mode with
  | .normal => scale == 1000
  | .low => 500 ≤ scale && scale ≤ 1000
  | .pending | .critical | .recovery => scale == 0

theorem Supply.fits_iff (u : Supply) : u.fits = true ↔
    u.vCritical < u.vRestore ∧ u.vRestore ≤ u.vLow ∧ u.criticalInUse < u.lowInUse ∧ 200 ≤ u.foldback ∧ u.foldback ≤ 1000 ∧
      scaleFits u.mode u.scale = true ∧ (u.hold = none ∨ u.mode = .recovery) := by
  simp only [Supply.fits, Bool.and_eq_true, decide_eq_true_eq, Bool.or_eq_true, Option.isNone_iff_eq_none, beq_iff_eq, and_assoc]
  rfl

theorem scaleFor_fits (u : Supply) (mode : SupplyMode) : scaleFits mode (u.scaleFor mode) = true := by
  unfold scaleFits Supply.scaleFor
  cases mode with
  | low =>
    have range (x : Int) : 500 ≤ (clampInt 500 1000 x).toNat ∧ (clampInt 500 1000 x).toNat ≤ 1000 := by unfold clampInt; omega
    simpa only [Bool.and_eq_true, decide_eq_true_eq] using range _
  | _ => rfl

/-- The recovery hold that a filter update leaves runs only in RECOVERY (R48). -/
theorem nextHold_fits {u : Supply} (h : u.hold = none ∨ u.mode = .recovery) (mode : SupplyMode) (clock : Nat) :
    u.nextHold mode clock = none ∨ mode = .recovery := by
  unfold Supply.nextHold
  split
  · exact .inr rfl
  · exact .inr rfl
  · exact .inl rfl
  · next notRecovery _ _ =>
    rcases h with none | recovery
    · exact .inl none
    · exact (notRecovery recovery).elim

theorem nextFoldback_range {u : Supply} (low : 200 ≤ u.foldback) (high : u.foldback ≤ 1000) (v : Nat) :
    200 ≤ u.nextFoldback v ∧ u.nextFoldback v ≤ 1000 := by
  unfold Supply.nextFoldback
  split
  · omega
  · split <;> omega

theorem batterySample_fits {s : State} (v : Nat) (h : s.supply.fits = true) : (s.batterySample v).supply.fits = true := by
  obtain ⟨critical, restore, _, low, high, scale, hold⟩ := s.supply.fits_iff.mp h
  obtain ⟨causes, e⟩ := batterySample_supply s v
  rw [e, Supply.fits_iff]
  refine ⟨critical, restore, critical.trans_le restore, low, high, ?_, nextHold_fits (u := s.supply.filterUpdate v) hold _ _⟩
  dsimp only
  split
  · next same => rw [same.1]; exact scale
  · exact scaleFor_fits _ _

theorem changeSupply_fits {s : State} {mode : SupplyMode} (h : s.supply.fits = true) (free : s.supply.hold = none) :
    (s.changeSupply mode).supply.fits = true := by
  obtain ⟨critical, restore, inUse, low, high, _, _⟩ := s.supply.fits_iff.mp h
  obtain ⟨causes, e⟩ := changeSupply_supply s mode
  rw [e, Supply.fits_iff]
  exact ⟨critical, restore, inUse, low, high, scaleFor_fits _ _, .inl free⟩

/-! ### The ceilings -/

/-- A port's stored ceiling is the product under its limit (R37, R51). -/
def Port.isCapped (product : Nat) (p : Port) : Prop := p.ceiling = min p.config.dutyLimit product

section
variable {product : Nat} {p q : Port}

theorem Port.isCapped_congr (h : p.isCapped product) (config : q.config = p.config) (ceiling : q.ceiling = p.ceiling) :
    q.isCapped product := by
  unfold Port.isCapped at *; rw [config, ceiling, h]

theorem PortLoss.isCapped (loss : PortLoss p q) (h : p.isCapped product) : q.isCapped product := by
  cases loss with
  | records => exact h
  | dropsHead | discards => rw [Port.leaveWait_eq]; exact h

theorem Port.enterRest_isCapped (x : Rest) (h : p.isCapped product) : (p.enterRest x).isCapped product := by
  cases x <;> exact h

theorem PortAct.isCapped (act : PortAct p q) (h : p.isCapped product) : q.isCapped product := by
  cases act with
  | loses loss => exact loss.isCapped h
  | starts carry =>
    unfold Port.startHead Port.startMove
    split
    · dsimp only; split <;> exact h
    · exact h
  | rests x => exact Port.enterRest_isCapped x h
  | marks => unfold Port.markReady; split <;> exact h
  | ramps | runsOn | strains | regulates => exact h

/-- A configuration taken into force brings its ceiling with it (R1, R37). -/
theorem Port.atEvent_isCapped (h : p.isCapped product) : (p.atEvent product).isCapped product := by
  unfold Port.isCapped Port.atEvent at *
  dsimp only
  cases p.pendingConfig with
  | none => exact h
  | some c => rfl

end

/-- Every stored ceiling of a port is `product` under its limit. -/
abbrev State.portsCapped (product : Nat) (s : State) : Prop := s.allPorts fun _ p => p.isCapped product

theorem clearPorts_capped {s : State} {product : Nat} (who : Six Bool) (ending : Option OutcomeCode) {after : Port → Port}
    (kept : ∀ p, (after p).config = p.config ∧ (after p).ceiling = p.ceiling) (all : s.portsCapped product) :
    (s.clearPorts who ending after).portsCapped product :=
  allPorts_clearPorts (fun _ _ _ => PortLoss.isCapped) (fun _ _ _ _ h => Port.isCapped_congr h (kept _).1 (kept _).2) all

theorem DriveAct.capped {s t : State} (act : DriveAct s t) (all : s.portsCapped s.supply.product) :
    t.portsCapped s.supply.product := by
  have steps {u v : State} (h : DriveSteps u v) (hu : u.portsCapped s.supply.product) : v.portsCapped s.supply.product :=
    allPorts_driveSteps (fun _ _ _ => PortAct.isCapped) h hu
  have rest (x : Rest) (p : Port) : (p.enterRest x).config = p.config ∧ (p.enterRest x).ceiling = p.ceiling := by
    cases x <;> exact ⟨rfl, rfl⟩
  cases act with
  | regulation m =>
    have first : (s.modPort m fun p => p.atEvent s.supply.product).portsCapped s.supply.product :=
      allPorts_modPort all Port.atEvent_isCapped
    cases asleep : (s.port m).isShutdown with
    | true => rw [regulation_asleep s m asleep]; exact first
    | false => exact steps (driveSteps_regulation s m asleep) first
  | encoder m pair =>
    refine allPorts_modPort all fun h => ?_
    unfold Port.encoderChange
    dsimp only
    split <;> exact h
  | noteEncoder m pair => exact allPorts_modPort all id
  | failStop who x => exact steps (driveSteps_failStop s who x) all
  | allStop => exact steps (driveSteps_clearPorts s _ _ portActs_brakeRest) all
  | owners o =>
    intro m
    have stopped := steps (driveSteps_failStop s (Six.ofFn fun m => (s.port m).owner != o.get m) .ownerChanged) all m
    unfold State.setMotorOwners State.port
    rw [Six.get_ofFn]
    exact stopped
  | portSetup h =>
    simp only [takePortSetup, Check.bind_ok, Check.pure_ok, Prod.exists, Prod.mk.injEq] at h
    obtain ⟨m, _, config, _, hc, _, _, rfl, _⟩ := h
    exact allPorts_modPort all id
  | move h =>
    simp only [takeMove, Check.bind_ok, need_ok, Check.pure_ok, Prod.exists, Prod.mk.injEq, decide_eq_true_eq] at h
    obtain ⟨m, _, _, _, _, _, mv, _, _, _, room, rfl, _⟩ := h
    exact allPorts_modPort all id
  | moveNow h =>
    simp only [takeMoveNow, Check.bind_ok, Check.pure_ok, Prod.exists, Prod.mk.injEq] at h
    obtain ⟨m, _, _, _, _, _, mv, _, _, rfl, _⟩ := h
    exact clearPorts_capped _ _ (fun _ => ⟨rfl, rfl⟩) all
  | queueClear h =>
    simp only [takeQueueClear, Check.bind_ok] at h
    obtain ⟨m, _, _, _, f, _, h⟩ := h
    split at h
    · cases h; exact clearPorts_capped _ _ (rest _) all
    · cases h; exact clearPorts_capped _ _ (fun _ => ⟨rfl, rfl⟩) all
  | preset h =>
    simp only [takePreset, Check.bind_ok, need_ok, Check.pure_ok, Prod.mk.injEq, bne_iff_ne] at h
    obtain ⟨m, _, _, _, _, inRange, _, _, rfl, _⟩ := h
    exact allPorts_modPort all id
  | groupDefine h =>
    simp only [takeGroupDefine, Check.bind_ok, Check.pure_ok, Prod.mk.injEq] at h
    obtain ⟨_, _, _, _, _, _, _, _, _, _, rfl, _⟩ := h; exact all

/-! ### The supply's own acts -/

theorem recomputeCeilings_capped (s : State) : s.recomputeCeilings.portsCapped s.supply.product := by
  intro m
  rw [recomputeCeilings_port]
  rfl

theorem clearPorts_sound (s : State) (who : Six Bool) (ending : Option OutcomeCode) (after : Port → Port) :
    (s.clearPorts who ending after).sound = s.sound := by
  rw [(onlyDrive_clearPorts s who ending after).rest]

/-- The supply monitor in another supply state, with that state's S (R49). -/
def Supply.entered (u : Supply) (mode : SupplyMode) : Supply := { u with mode := mode, scale := u.scaleFor mode }

theorem changeSupply_product (s : State) (mode : SupplyMode) :
    (s.changeSupply mode).supply.product = (s.supply.entered mode).product := by
  obtain ⟨causes, e⟩ := changeSupply_supply s mode
  rw [e]; rfl

theorem changeSupply_capped (s : State) (mode : SupplyMode) :
    (s.changeSupply mode).portsCapped (s.supply.entered mode).product := by
  have stored := recomputeCeilings_capped (s.modSupply fun u => u.entered mode)
  rw [State.modSupply_supply] at stored
  have entered {u : State} (h : u.portsCapped (s.supply.entered mode).product) :
      u.criticalEntry.portsCapped (s.supply.entered mode).product :=
    allPorts_of_motor (soundStop_motor _ _) (clearPorts_capped _ _ (fun _ => ⟨rfl, rfl⟩) h)
  have returned {u : State} (h : u.portsCapped (s.supply.entered mode).product) :
      u.leaveShutdown.portsCapped (s.supply.entered mode).product := by
    intro m
    have e : u.leaveShutdown.port m = if (u.port m).isShutdown then (u.port m).enterRest .braked else u.port m := by
      unfold State.leaveShutdown State.port; rw [Six.get_map]
    rw [e]
    split
    · exact Port.enterRest_isCapped _ (h m)
    · exact h m
  have raised {u : State} (c : PowerCause) (h : u.portsCapped (s.supply.entered mode).product) :
      (u.raisePower c).portsCapped (s.supply.entered mode).product := allPorts_of_motor (State.raisePower_motor u c) h
  unfold State.changeSupply
  dsimp only
  split
  · split
    · exact raised _ (returned (raised _ (entered stored)))
    · exact raised _ (returned stored)
  · split
    · exact raised _ (raised _ (entered stored))
    · exact raised _ stored

theorem changeSupply_sound (s : State) (mode : SupplyMode) : (s.changeSupply mode).sound =
    if mode = .critical then (s.sound.storeCeiling (s.supply.entered mode).product).stopped .power s.uptime
    else s.sound.storeCeiling (s.supply.entered mode).product := by
  have stored : ((s.modSupply fun u => u.entered mode).recomputeCeilings).sound =
      s.sound.storeCeiling (s.supply.entered mode).product := by rw [recomputeCeilings_eq]; rfl
  have uptime : ((s.modSupply fun u => u.entered mode).recomputeCeilings).uptime = s.uptime := by
    rw [recomputeCeilings_eq]; rfl
  have entered {u : State} : u.criticalEntry.sound = u.sound.stopped .power u.uptime := by
    unfold State.criticalEntry
    rw [soundStop_sound, clearPorts_sound, (onlyDrive_clearPorts u _ _ _).rest]
    rfl
  have returned {u : State} (c : PowerCause) : (u.leaveShutdown.raisePower c).sound = u.sound := rfl
  have raised {u : State} (c : PowerCause) : (u.raisePower c).sound = u.sound := rfl
  have either {b : Bool} {u : State} :
      (if b then u.leaveShutdown.raisePower .restored else u.raisePower .level).sound = u.sound := by
    split
    · exact returned _
    · exact raised _
  unfold State.changeSupply
  dsimp only
  rw [either]
  by_cases critical : mode = .critical
  · rw [if_pos critical, if_pos critical, raised, entered]
    exact congr (congrArg (Sound.stopped .power) uptime) stored
  · rw [if_neg critical, if_neg critical]
    exact stored

/-! ### What the supply monitor leaves alone -/

theorem onlySupply_recomputeCeilings (s : State) : OnlySupply s s.recomputeCeilings := by
  rw [recomputeCeilings_eq]; exact ⟨rfl, .refl _⟩

theorem onlySupply_raisePower (s : State) (c : PowerCause) : OnlySupply s (s.raisePower c) := ⟨rfl, .raise _ .power⟩

theorem onlySupply_criticalEntry (s : State) : OnlySupply s s.criticalEntry := by
  have stopped := onlyDrive_clearPorts s (Six.all true) (some .power) Port.enterShutdown
  have silenced := onlySound_soundStop (s.clearPorts (Six.all true) (some .power) Port.enterShutdown) .power
  refine ⟨?_, stopped.attn.trans silenced.attn⟩
  unfold State.criticalEntry
  have groups : (s.clearPorts (Six.all true) (some .power) Port.enterShutdown).groups = s.groups := by
    rw [(clearPorts_stops s (Six.all true) (some .power) Port.enterShutdown
      (fun p => (p.cleared (some .power) s.uptime).enterShutdown) (fun _ _ => rfl) (fun _ _ => Port.cleared_discarded _ _ _)).rest]
  rw [silenced.rest, stopped.rest, groups]

theorem onlySupply_changeSupply (s : State) (mode : SupplyMode) : OnlySupply s (s.changeSupply mode) := by
  have stored : OnlySupply s (s.modSupply fun u => { u with mode := mode, scale := u.scaleFor mode }).recomputeCeilings :=
    OnlySupply.trans (t := s.modSupply _) ⟨rfl, .refl _⟩ (onlySupply_recomputeCeilings _)
  have entered {u : State} (h : OnlySupply s u) (c : PowerCause) : OnlySupply s (u.criticalEntry.raisePower c) :=
    (h.trans (onlySupply_criticalEntry u)).trans (onlySupply_raisePower _ c)
  have returned {u : State} (h : OnlySupply s u) (c : PowerCause) : OnlySupply s (u.leaveShutdown.raisePower c) :=
    h.trans (OnlySupply.trans (t := u.leaveShutdown) ⟨rfl, .refl _⟩ (onlySupply_raisePower _ c))
  unfold State.changeSupply
  dsimp only
  split
  · split
    · exact returned (entered stored _) _
    · exact returned stored _
  · split
    · exact (entered stored _).trans (onlySupply_raisePower _ _)
    · exact stored.trans (onlySupply_raisePower _ _)

/-- What an act of the supply monitor leaves alone. -/
theorem SupplyAct.only {s t : State} (act : SupplyAct s t) : OnlySupply s t := by
  have set (f : Supply → Supply) : OnlySupply s (s.modSupply f) := ⟨rfl, .refl _⟩
  cases act with
  | battery v =>
    have sampled (f g : Supply → Supply) : OnlySupply s ((s.modSupply f).modSupply g) := ⟨rfl, .refl _⟩
    unfold State.batterySample
    dsimp only
    split
    · exact (sampled _ _).trans (onlySupply_changeSupply _ _)
    · split
      · split
        · exact ((sampled _ _).trans (u := State.modSupply _ _) ⟨rfl, .refl _⟩).trans (onlySupply_recomputeCeilings _)
        · exact (sampled _ _).trans (u := State.modSupply _ _) ⟨rfl, .refl _⟩
      · exact sampled _ _
  | current v =>
    unfold State.currentReading
    dsimp only
    split
    · split
      · exact ((set _).trans (onlySupply_recomputeCeilings _)).trans (onlySupply_raisePower _ _)
      · exact (set _).trans (onlySupply_recomputeCeilings _)
    · exact set _
  | holdExpires =>
    unfold State.holdExpires
    split
    · exact (set _).trans (onlySupply_changeSupply _ _)
    · exact ⟨rfl, .refl _⟩
  | setup h =>
    simp only [takePowerSetup, Check.bind_ok, Check.pure_ok, Prod.mk.injEq] at h
    obtain ⟨_, _, _, _, _, _, _, _, _, _, rfl, _⟩ := h
    exact set _

/-- The supply monitor, every stored ceiling and the sound engine, together (R46 to R54, R108 to R127). -/
structure State.Supplied (s : State) : Prop where
  supply : s.supply.fits = true
  ports : s.portsCapped s.supply.product
  sound : s.soundSits s.powerHeld s.supply.product

theorem supplied_iff (s : State) : s.Supplied ↔
    (s.supply.fits && s.ceilingsFit && s.sound.fits && s.sound.issuersFit && s.soundHeldFits) = true := by
  have every : ∀ m, m ∈ Idx6.all := by intro m; cases m <;> decide
  have capped : s.ceilingsFit = true ↔ s.portsCapped s.supply.product ∧ s.sound.ceiling = s.supply.product := by
    simp [State.ceilingsFit, State.allPorts, Port.isCapped, every]
  have sits := s.sound.sits_iff
  have held := soundHeldFits_iff s
  simp only [Bool.and_eq_true]
  constructor
  · rintro ⟨supply, ports, engine, ceiling, silent⟩
    exact ⟨⟨⟨⟨supply, capped.mpr ⟨ports, ceiling⟩⟩, (sits.mp engine).1⟩, (sits.mp engine).2⟩, held.mpr silent⟩
  · rintro ⟨⟨⟨⟨supply, ceilings⟩, fits⟩, issuers⟩, silent⟩
    exact ⟨supply, (capped.mp ceilings).1, sits.mpr ⟨fits, issuers⟩, (capped.mp ceilings).2, held.mp silent⟩

/-- Nothing of it changes where ports, supply and sound engine do not. -/
theorem State.Supplied.congr {s t : State} (h : s.Supplied) (motor : t.motor = s.motor) (supply : t.supply = s.supply)
    (sound : t.sound = s.sound) : t.Supplied := by
  refine ⟨by rw [supply]; exact h.supply, ?_, ?_⟩
  · rw [supply]; exact allPorts_of_motor motor h.ports
  · unfold State.soundSits State.powerHeld; rw [supply, sound]; exact h.sound

theorem raisePower_supplied {s : State} (c : PowerCause) (h : s.Supplied) : (s.raisePower c).Supplied :=
  ⟨h.supply, allPorts_of_motor rfl h.ports, h.sound⟩

/-- Nothing of it changes where the supply monitor keeps its state and its product. -/
theorem State.Supplied.of_supply {s : State} {f : Supply → Supply} (h : s.Supplied) (fits : (f s.supply).fits = true)
    (mode : (f s.supply).mode = s.supply.mode) (product : (f s.supply).product = s.supply.product) : (s.modSupply f).Supplied := by
  refine ⟨fits, ?_, ?_⟩
  · rw [State.modSupply_supply, product]; exact allPorts_of_motor rfl h.ports
  · unfold State.soundSits
    rw [State.modSupply_supply, product, powerHeld_of (s := s.modSupply f) mode, ← powerHeld_of (s := s) rfl]
    exact h.sound

theorem recomputeCeilings_supplied {s : State} (supply : s.supply.fits = true) (sits : s.sound.Sits)
    (silent : s.powerHeld = true → s.sound.isSilent) : s.recomputeCeilings.Supplied := by
  have sound : s.recomputeCeilings.sound = s.sound.storeCeiling s.supply.product := by rw [recomputeCeilings_eq]
  refine ⟨?_, ?_, ?_⟩
  · rw [recomputeCeilings_supply]; exact supply
  · rw [recomputeCeilings_supply]; exact recomputeCeilings_capped s
  · unfold State.soundSits State.powerHeld
    rw [sound, recomputeCeilings_supply]
    exact ⟨Sound.storeCeiling_sits _ sits, rfl, silent⟩

/-- A change of supply state leaves everything fitting the new state, the sound engine silenced by the CRITICAL entry (R53). -/
theorem changeSupply_supplied {s : State} {mode : SupplyMode} (follows : s.supply.mode.Follows mode)
    (fits : (s.changeSupply mode).supply.fits = true) (sits : s.sound.Sits) (silent : s.powerHeld = true → s.sound.isSilent) :
    (s.changeSupply mode).Supplied := by
  have now := powerHeld_of (changeSupply_mode s mode)
  refine ⟨fits, ?_, ?_⟩
  · rw [changeSupply_product]; exact changeSupply_capped s mode
  · unfold State.soundSits
    rw [changeSupply_product, now, changeSupply_sound]
    split
    · exact ⟨Sound.stopped_sits _ _ (Sound.storeCeiling_sits _ sits), Sound.stopped_ceiling _ _ _,
        fun _ => Sound.stopped_isSilent _ _⟩
    · next notCritical =>
      refine ⟨Sound.storeCeiling_sits _ sits, rfl, fun held => ?_⟩
      have before := powerHeld_of (s := s) rfl
      generalize s.supply.mode = old at follows before
      cases follows with
      | falls => exact absurd rfl notCritical
      | recovers => exact silent before
      | released normal => rcases normal with rfl | rfl <;> cases held
      | levels awake normal => rcases normal with rfl | rfl <;> cases held

theorem SupplyAct.supplied {s t : State} (act : SupplyAct s t) (h : s.Supplied) : t.Supplied := by
  obtain ⟨fits, ports, sits, ceiling, silent⟩ := h
  cases act with
  | battery v =>
    have after := batterySample_fits v fits
    unfold State.batterySample at after ⊢
    dsimp only at after ⊢
    split at after
    · next changes =>
      rw [if_pos changes]
      exact changeSupply_supplied (nextMode_follows (u := s.supply.filterUpdate v) changes) after sits silent
    · next same =>
      rw [if_neg same]
      split at after
      · next low =>
        rw [if_pos low]
        split at after
        · next moves =>
          rw [if_pos moves]
          rw [recomputeCeilings_supply] at after
          exact recomputeCeilings_supplied after sits silent
        · next stays =>
          rw [if_neg stays]
          exact State.Supplied.of_supply (s := s) (f := fun u => _) ⟨fits, ports, sits, ceiling, silent⟩ after rfl
            (congrArg (· * s.supply.foldback / 1000) (not_not.mp stays))
      · next notLow =>
        rw [if_neg notLow]
        exact State.Supplied.of_supply (s := s) (f := fun u => _) ⟨fits, ports, sits, ceiling, silent⟩ after rfl rfl
  | current v =>
    obtain ⟨critical, restore, inUse, low, high, scale, hold⟩ := s.supply.fits_iff.mp fits
    have range := nextFoldback_range low high v
    have now : (s.modSupply fun u => { u with itotal := v, foldback := s.supply.nextFoldback v }).supply.fits = true :=
      (Supply.fits_iff _).mpr ⟨critical, restore, inUse, range.1, range.2, scale, hold⟩
    unfold State.currentReading
    dsimp only
    split
    · have stored := recomputeCeilings_supplied now sits silent
      split
      · exact raisePower_supplied _ stored
      · exact stored
    · next same =>
      have e : s.supply.nextFoldback v = s.supply.foldback := not_not.mp same
      refine ⟨now, ?_, sits, ?_, silent⟩
      · have p : (s.modSupply fun u => { u with itotal := v, foldback := s.supply.nextFoldback v }).supply.product = s.supply.product := by
          rw [e]; rfl
        rw [p]; exact ports
      · refine ceiling.trans ?_
        rw [e]; rfl
  | holdExpires =>
    unfold State.holdExpires
    split
    · next held =>
      simp only [Bool.and_eq_true, decide_eq_true_eq] at held
      obtain ⟨critical, restore, inUse, low, high, scale, hold⟩ := s.supply.fits_iff.mp fits
      refine changeSupply_supplied ?_ (changeSupply_fits ?_ rfl) sits silent
      · show s.supply.mode.Follows _
        rw [held.2]
        exact .released (by split <;> simp)
      · exact (Supply.fits_iff _).mpr ⟨critical, restore, inUse, low, high, scale, .inl rfl⟩
    · exact ⟨fits, ports, sits, ceiling, silent⟩
  | setup h =>
    simp only [takePowerSetup, Check.bind_ok, Check.pure_ok, Prod.mk.injEq, need_ok, Bool.and_eq_true, decide_eq_true_eq] at h
    obtain ⟨_, _, _, _, _, _, _, _, _, order, rfl, _⟩ := h
    obtain ⟨critical, restore, rest⟩ := s.supply.fits_iff.mp fits
    exact ⟨(Supply.fits_iff _).mpr ⟨order.1, order.2, rest⟩, ports, sits, ceiling, silent⟩

/-! ### Every act -/

theorem DriveAct.supplied {s t : State} (act : DriveAct s t) (h : s.Supplied) : t.Supplied := by
  have capped := act.capped h.ports
  have supply : t.supply = s.supply := by rw [act.only.rest]
  have sound : t.sound = s.sound := by rw [act.only.rest]
  refine ⟨by rw [supply]; exact h.supply, by rw [supply]; exact capped, ?_⟩
  unfold State.soundSits State.powerHeld
  rw [supply, sound]
  exact h.sound

theorem SoundAct.supplied {s t : State} (act : SoundAct s t) (h : s.Supplied) : t.Supplied := by
  have motor : t.motor = s.motor := by rw [act.only.rest]
  have supply : t.supply = s.supply := by rw [act.only.rest]
  refine ⟨by rw [supply]; exact h.supply, by rw [supply]; exact allPorts_of_motor motor h.ports, ?_⟩
  rw [powerHeld_of (s := t) rfl, supply, ← powerHeld_of (s := s) rfl]
  exact act.sits h.sound

/-- A notice clears what it reports, and nothing that these rules bound from below (R165). -/
theorem clearReported_supplied {s : State} (src : Source) (h : s.Supplied) : (s.clearReported src).Supplied := by
  cases src with
  | power => exact h.of_supply (f := fun u => { u with causes := .clear }) h.supply rfl rfl
  | hostLink | sensor | tablet => exact h.congr rfl rfl rfl
  | motor m => exact ⟨h.supply, allPorts_modPort h.ports id, h.sound⟩
  | sound =>
    obtain ⟨sits, ceiling, silent⟩ := h.sound
    exact ⟨h.supply, h.ports, { sits with
      outcomes := Nat.zero_le _, dropped := Nat.zero_le _, discarded := Nat.zero_le _, underruns := Nat.zero_le _ }, ceiling, silent⟩

theorem State.Supplied.of_onlyLines {s t : State} (h : s.Supplied) (k : OnlyLines s t) : t.Supplied :=
  h.congr (by rw [k.rest]) (by rw [k.rest]) (by rw [k.rest])

/-- A notice put in transmission leaves everything but its line alone (R136, R164). -/
theorem onlyLines_notice (u : State) (l : LineId) (body : List Byte) :
    OnlyLines u ((u.startTx l .attention body).setMarker l .relay) :=
  (onlyLines_modLine u l _).trans (onlyLines_modLine _ l _)

theorem beginAttention_supplied {s : State} (l : LineId) (h : s.Supplied) : (s.beginAttention l).Supplied := by
  unfold State.beginAttention
  split
  · next src _ =>
    have cleared := clearReported_supplied src (s := { s with attn := s.attn.setCount src 0 }) (h.congr rfl rfl rfl)
    exact cleared.of_onlyLines (onlyLines_notice _ l (s.noticeBody src))
  · exact h

theorem Sound.reset_fits : Sound.reset.fits = true ∧ Sound.reset.issuersFit = true := by decide

theorem resetTo_product (s : State) (cause : PowerCause) : (s.resetTo cause).supply.product = 0 :=
  show 0 * 1000 / 1000 = 0 by decide

theorem resetTo_supplied (s : State) (cause : PowerCause) : (s.resetTo cause).Supplied := by
  refine ⟨rfl, fun m => ?_, ?_⟩
  · rw [resetTo_port, resetTo_product]; rfl
  · rw [resetTo_product]
    exact ⟨(Sound.sits_iff _).mpr Sound.reset_fits, rfl, nofun⟩

theorem Act.supplied {s t : State} (act : Act s t) (h : s.Supplied) : t.Supplied := by
  cases act with
  | drive act => exact act.supplied h
  | sensor act => exact h.congr (by rw [act.only.rest]) (by rw [act.only.rest]) (by rw [act.only.rest])
  | sound act => exact act.supplied h
  | supply act => exact act.supplied h
  | line act => exact h.of_onlyLines act.only
  | @notice l _ _ => exact beginAttention_supplied l h
  | resetBegins =>
    obtain ⟨sits, ceiling, silent⟩ := h.sound
    exact ⟨h.supply, h.ports, { sits with }, ceiling, silent⟩
  | resetEnds cause => exact resetTo_supplied s cause

/-- Settles O57: every step is a chain of acts, and every act keeps supply monitor, ceilings and sound engine fitting. -/
theorem stepKeepsSupplyAndSound : Obligations.StepKeepsSupplyAndSound := by
  intro s t h fits
  exact (supplied_iff t).mp (step_keeps (I := State.Supplied) Act.supplied (fun _ k => { k with }) h ((supplied_iff s).mpr fits))

end Sys2Proof.Machine
end

-- ==== Sys2Proof/Proofs/SensorFits.lean ====

section
/-! What each sensor port's record, supply, controller and channel keep to its mode, kept by every step (R42, R44, R59, R60, R72, R78,
R83 to R88, R93, R96). -/

namespace Sys2Proof.Machine

/-! ### The smart line controller -/

/-- What a line state says of profile and selected mode (R83 to R95). -/
def lineFits (x : LineState) (profile : Option Profile) (selected : Option Nat) : Bool :=
  match x with
  | .listen | .announcing => true
  | .accepting => profile.any Profile.isWhole
  | .starting | .streaming | .switching => profile.any fun p => p.isWhole && selected.any fun k => k < p.modeCount

/-- What a stopped controller holds (R83). -/
structure Smart.AtRest (c : Smart) : Prop where
  line : c.lineState = .listen
  rate : c.rate = 2400
  profile : c.profile = none
  tx : c.tx = none
  slot : c.slot = none
  cmdFifo : c.cmdFifo = []
  announce : c.announceTimer = none
  switch : c.switchTimer = none
  loss : c.lossTimer = none
  nudge : c.nudgeTimer = none

/-- A controller's fills, counts, timers and profile, by name. -/
structure Smart.Sits (c : Smart) : Prop where
  rx : c.rxFifo.length ≤ 64
  cmd : c.cmdUsed ≤ 32
  errors : c.errors ≤ 65535
  profile : ∀ p, c.profile = some p → 1 ≤ p.modeCount ∧ ∀ m ∈ p.modes, m.count ≤ 4
  line : lineFits c.lineState c.profile c.selected = true
  announce : c.announceTimer = none ∨ c.lineState = .announcing
  switch : c.switchTimer = none ∨ c.lineState = .accepting
  stopped : c.running = true ∨ c.AtRest

/-- What a profile, if there is one, keeps to (R84, R85). -/
def profileFits (p : Option Profile) : Bool :=
  match p with
  | some p => 1 ≤ p.modeCount && p.modes.all fun m => m.count ≤ 4
  | none => true

theorem profileFits_iff (p : Option Profile) :
    profileFits p = true ↔ ∀ q, p = some q → 1 ≤ q.modeCount ∧ ∀ m ∈ q.modes, m.count ≤ 4 := by
  cases p <;> simp [profileFits]

/-- The fits of a controller, each under its name. -/
theorem Smart.fits_eq (c : Smart) : c.fits =
    (decide (c.rxFifo.length ≤ 64) && decide (c.cmdUsed ≤ 32) && decide (c.errors ≤ 65535) && profileFits c.profile &&
      lineFits c.lineState c.profile c.selected && (c.announceTimer.isNone || c.lineState == .announcing) &&
      (c.switchTimer.isNone || c.lineState == .accepting) &&
      (c.running || (c.lineState == .listen && c.rate == 2400 && c.profile.isNone && c.tx.isNone && c.slot.isNone &&
        c.cmdFifo.isEmpty && c.announceTimer.isNone && c.switchTimer.isNone && c.lossTimer.isNone && c.nudgeTimer.isNone))) := rfl

theorem Smart.sits_iff (c : Smart) : c.Sits ↔ c.fits = true := by
  have rest : (c.lineState == .listen && c.rate == 2400 && c.profile.isNone && c.tx.isNone && c.slot.isNone && c.cmdFifo.isEmpty &&
      c.announceTimer.isNone && c.switchTimer.isNone && c.lossTimer.isNone && c.nudgeTimer.isNone) = true ↔ c.AtRest := by
    simp only [Bool.and_eq_true, beq_iff_eq, Option.isNone_iff_eq_none, List.isEmpty_iff]
    exact ⟨fun ⟨⟨⟨⟨⟨⟨⟨⟨⟨a, b⟩, d⟩, e⟩, f⟩, g⟩, h⟩, i⟩, j⟩, k⟩ => ⟨a, b, d, e, f, g, h, i, j, k⟩,
      fun ⟨a, b, d, e, f, g, h, i, j, k⟩ => ⟨⟨⟨⟨⟨⟨⟨⟨⟨a, b⟩, d⟩, e⟩, f⟩, g⟩, h⟩, i⟩, j⟩, k⟩⟩
  rw [Smart.fits_eq, Bool.and_eq_true, Bool.or_eq_true c.running, rest]
  simp only [Bool.and_eq_true, profileFits_iff, decide_eq_true_eq, Bool.or_eq_true, Option.isNone_iff_eq_none, beq_iff_eq]
  exact ⟨fun ⟨a, b, d, e, f, g, h, i⟩ => ⟨⟨⟨⟨⟨⟨⟨a, b⟩, d⟩, e⟩, f⟩, g⟩, h⟩, i⟩,
    fun ⟨⟨⟨⟨⟨⟨⟨a, b⟩, d⟩, e⟩, f⟩, g⟩, h⟩, i⟩ => ⟨a, b, d, e, f, g, h, i⟩⟩

section
variable {c : Smart}

/-- A controller past LISTEN runs (R83). -/
theorem Smart.Sits.runs (h : c.Sits) (line : c.lineState ≠ .listen) : c.running = true := by
  rcases h.stopped with r | r
  · exact r
  · exact absurd r.line line

theorem Smart.Sits.of_running (h : c.Sits) {d : Smart} (running : d.running = true) (rx : d.rxFifo.length ≤ 64) (cmd : d.cmdUsed ≤ 32)
    (errors : d.errors ≤ 65535) (profile : d.profile = c.profile) (line : d.lineState = c.lineState) (selected : d.selected = c.selected)
    (announce : d.announceTimer = c.announceTimer) (switch : d.switchTimer = c.switchTimer) : d.Sits :=
  ⟨rx, cmd, errors, profile ▸ h.profile, by rw [line, profile, selected]; exact h.line, by rw [announce, line]; exact h.announce,
    by rw [switch, line]; exact h.switch, .inl running⟩

theorem Smart.reset_sits (maxRate preferred errors : Nat) (running : Bool) (h : errors ≤ 65535) :
    ({ Smart.reset with running := running, maxRate := maxRate, preferred := preferred, errors := errors } : Smart).Sits :=
  ⟨Nat.zero_le _, Nat.zero_le _, h, nofun, rfl, .inl rfl, .inl rfl, .inr ⟨rfl, rfl, rfl, rfl, rfl, rfl, rfl, rfl, rfl, rfl⟩⟩

/-- The handshake failed (R87). -/
theorem Smart.failHandshake_sits (line : c.lineState = .announcing) (h : c.Sits) : c.failHandshake.Sits :=
  { h with
    profile := nofun
    line := rfl
    announce := .inl rfl
    switch := (by
      rcases h.switch with e | e
      · exact .inl e
      · rw [line] at e; cases e)
    stopped := .inl (h.runs (by rw [line]; decide)) }

/-- A record discarded and counted (R80, R87). -/
theorem Smart.discard_sits (h : c.Sits) : c.discard.Sits := by
  have counted : ({ c with errors := satAdd 65535 c.errors 1, parser := none } : Smart).Sits :=
    { h with errors := Nat.min_le_left _ _, stopped := h.stopped.imp_right fun r => { r with } }
  unfold Smart.discard
  dsimp only
  split
  · next line => exact Smart.failHandshake_sits line counted
  · exact counted

/-- An idle transmitter puts what waits to work (R82). -/
theorem Smart.beginTx_sits (h : c.Sits) : c.beginTx.Sits := by
  unfold Smart.beginTx
  split
  · exact h
  · next busy =>
    have running : c.running = true := by simp only [Bool.or_eq_true, not_or, Bool.not_eq_true'] at busy; simpa using busy.1
    split
    · exact h.of_running running h.rx h.cmd h.errors rfl rfl rfl rfl rfl
    · next r rest _ _ hq =>
      refine h.of_running running h.rx ?_ h.errors rfl rfl rfl rfl rfl
      have := h.cmd
      simp only [Smart.cmdUsed, hq, List.map_cons, List.sum_cons] at this ⊢
      omega
    · exact h.of_running running h.rx h.cmd h.errors rfl rfl rfl rfl rfl
    · exact h

@[simp] theorem Smart.beginTx_running (c : Smart) : c.beginTx.running = c.running := by
  unfold Smart.beginTx; split
  · rfl
  · split <;> rfl

@[simp] theorem Smart.beginTx_lineState (c : Smart) : c.beginTx.lineState = c.lineState := by
  unfold Smart.beginTx; split
  · rfl
  · split <;> rfl

@[simp] theorem Smart.discard_running (c : Smart) : c.discard.running = c.running := by
  unfold Smart.discard Smart.failHandshake; dsimp only; split <;> rfl

/-- An ANNOUNCE begins a profile afresh (R84, R85). -/
theorem Smart.announce_sits (body : List Byte) (clock : Nat) (running : c.running = true)
    (line : c.lineState = .listen ∨ c.lineState = .announcing) (h : c.Sits) : (c.announce body clock).Sits := by
  unfold Smart.announce
  dsimp only
  split
  · next fields =>
    simp only [Bool.and_eq_true, decide_eq_true_eq] at fields
    refine ⟨h.rx, h.cmd, h.errors, fun p hp => ?_, rfl, .inr rfl, .inl ?_, .inl running⟩
    · cases hp; exact ⟨fields.1.1.2, nofun⟩
    · rcases h.switch with e | e
      · exact e
      · rcases line with x | x <;> (rw [x] at e; cases e)
  · exact Smart.discard_sits h

/-- A MODE_INFO in ANNOUNCING (R85). -/
theorem Smart.modeInfo_sits (body : List Byte) (line : c.lineState = .announcing) (h : c.Sits) : (c.modeInfo body).Sits := by
  unfold Smart.modeInfo
  dsimp only
  split
  · next format p hf hp =>
    split
    · next fields =>
      simp only [Bool.and_eq_true, decide_eq_true_eq] at fields
      split
      · obtain ⟨some, few⟩ := h.profile p hp
        refine ⟨h.rx, h.cmd, h.errors, fun q hq => ?_, by rw [line]; rfl, h.announce, h.switch, .inl (h.runs (by rw [line]; decide))⟩
        cases hq
        refine ⟨some, fun m hm => ?_⟩
        rcases List.mem_append.mp hm with old | new
        · exact few m old
        · rw [List.mem_singleton.mp new]; exact fields.1.2
      · exact Smart.failHandshake_sits line h
    · exact Smart.discard_sits h
  · exact Smart.discard_sits h

/-- An ANNOUNCE_END in ANNOUNCING (R86, R88). -/
theorem Smart.announceEnd_sits (body : List Byte) (line : c.lineState = .announcing) (h : c.Sits) : (c.announceEnd body).Sits := by
  have running := h.runs (by rw [line]; decide)
  unfold Smart.announceEnd
  split
  · exact Smart.discard_sits h
  · split
    · next p hp =>
      split
      · next whole =>
        refine Smart.beginTx_sits ⟨h.rx, h.cmd, h.errors, h.profile, ?_, .inl rfl, .inr rfl, .inl running⟩
        show c.profile.any Profile.isWhole = true
        rw [hp]; exact whole
      · exact Smart.failHandshake_sits line h
    · exact Smart.failHandshake_sits line h

/-- A character enters the FIFO or is lost (R78). -/
theorem Smart.enterChar_sits (char : Byte) (framing : Bool) (h : c.Sits) : (c.enterChar char framing).Sits := by
  unfold Smart.enterChar
  split
  · exact { h with
      rx := (by rw [List.length_append]; show _ + 1 ≤ 64; omega)
      stopped := h.stopped.imp_right fun r => { r with } }
  · exact { h with stopped := h.stopped.imp_right fun r => { r with } }

/-- The switch delay passes (R88, R89): the profile is whole, so the SELECT names one of its modes. -/
theorem Smart.starts_sits {rate clock : Nat} {slot : Option (List Byte)} (accepting : c.lineState = .accepting) (h : c.Sits) :
    ({ c with
      rate := rate, rxFifo := [], lostMark := false, parser := none, pauseTimer := none, switchTimer := none, lineState := .starting
      selected := some (match c.profile with | some p => if c.preferred < p.modeCount then c.preferred else 0 | none => 0)
      slot := slot, nudgeTimer := some clock, lossTimer := some clock } : Smart).Sits := by
  have running := h.runs (by rw [accepting]; decide)
  have line := h.line
  rw [accepting] at line
  refine ⟨Nat.zero_le _, h.cmd, h.errors, h.profile, ?_, ?_, .inl rfl, .inl running⟩
  · unfold lineFits at line ⊢
    dsimp only at line ⊢
    cases hp : c.profile with
    | none => rw [hp] at line; cases line
    | some p =>
      rw [hp] at line
      have modes := (h.profile p hp).1
      simp only [Option.any_some, Bool.and_eq_true, decide_eq_true_eq] at line ⊢
      refine ⟨line, ?_⟩
      split
      · assumption
      · exact modes
  · rcases h.announce with e | e
    · exact .inl e
    · rw [accepting] at e; cases e

end

/-! ### One port and its channel -/

/-- A sensor port's record, supply and controller, by name. -/
structure SensorPort.Sits (p : SensorPort) : Prop where
  mode : p.record.mode = p.mode
  count : p.record.count ≤ 4
  smart : p.smart.Sits
  fresh : p.record.status = .fresh → p.mode ≠ .off ∧ (p.mode = .smart → p.smart.lineState = .streaming)
  running : p.smart.running = (p.mode == .smart && !p.isHeld)
  supply : p.supplyOn = (p.mode != .off && !p.isHeld)
  halted : p.isHeld = true → p.work.isHalted = true

theorem SensorPort.sits_iff (p : SensorPort) : p.Sits ↔ p.fits = true := by
  have fresh : (p.record.status != .fresh || (p.mode != .off && (p.mode != .smart || p.smart.lineState == .streaming))) = true ↔
      (p.record.status = .fresh → p.mode ≠ .off ∧ (p.mode = .smart → p.smart.lineState = .streaming)) := by
    simp only [Bool.or_eq_true, bne_iff_ne, Bool.and_eq_true, beq_iff_eq, ne_eq]
    tauto
  have halted : (!p.isHeld || p.work.isHalted) = true ↔ (p.isHeld = true → p.work.isHalted = true) := by
    cases p.isHeld <;> simp
  unfold SensorPort.fits
  simp only [Bool.and_eq_true, fresh, halted, ← Smart.sits_iff, beq_iff_eq, decide_eq_true_eq]
  exact ⟨fun ⟨a, b, c, d, e, f, g⟩ => ⟨⟨⟨⟨⟨⟨a, b⟩, c⟩, d⟩, e⟩, f⟩, g⟩, fun ⟨⟨⟨⟨⟨⟨a, b⟩, c⟩, d⟩, e⟩, f⟩, g⟩ => ⟨a, b, c, d, e, f, g⟩⟩

/-- The port is in ANALOG mode and not held, so that its channel may be due (R42, R63). -/
def SensorPort.isLive (p : SensorPort) : Prop := p.mode = .analog ∧ p.isHeld = false

theorem channelFits_iff (s : State) (i : Idx6) : s.channelFits i = true ↔ ((s.sensorAt i).isLive ∨
    (s.conv.due.sensor.get i = false ∧ ∀ f, s.conv.inFlight = some f → f.channel = .sensor i → f.dropped = true)) := by
  unfold State.channelFits SensorPort.isLive
  cases s.conv.inFlight with
  | none => simp
  | some f =>
    by_cases h : f.channel = .sensor i <;> simp [h]

/-- Every sensor port sits, and its channel fits it. -/
structure State.SensorsSit (s : State) : Prop where
  port : ∀ i, (s.sensorAt i).Sits
  channel : ∀ i, (s.sensorAt i).isLive ∨
    (s.conv.due.sensor.get i = false ∧ ∀ f, s.conv.inFlight = some f → f.channel = .sensor i → f.dropped = true)

theorem sensorsSit_iff (s : State) : s.SensorsSit ↔ ∀ i, s.sensorFits i = true := by
  simp only [State.sensorFits, Bool.and_eq_true, ← SensorPort.sits_iff, channelFits_iff]
  exact ⟨fun h i => ⟨h.port i, h.channel i⟩, fun h => ⟨fun i => (h i).1, fun i => (h i).2⟩⟩

section
variable {s : State}

theorem State.SensorsSit.congr {t : State} (h : s.SensorsSit) (sensor : t.sensor = s.sensor) (conv : t.conv = s.conv) :
    t.SensorsSit := by
  have at_i (i : Idx6) : t.sensorAt i = s.sensorAt i := by unfold State.sensorAt; rw [sensor]
  exact ⟨fun i => at_i i ▸ h.port i, fun i => by rw [at_i, conv]; exact h.channel i⟩

/-- One port changed, its channel as live as before. -/
theorem State.SensorsSit.modSensor (h : s.SensorsSit) {i : Idx6} {f : SensorPort → SensorPort} (port : (f (s.sensorAt i)).Sits)
    (live : (s.sensorAt i).isLive → (f (s.sensorAt i)).isLive) : (s.modSensor i f).SensorsSit := by
  refine ⟨fun k => ?_, fun k => ?_⟩
  · rw [State.modSensor_sensorAt]
    split
    · exact port
    · exact h.port k
  · rw [State.modSensor_sensorAt]
    split
    · next e => rw [e]; exact (h.channel i).imp_left live
    · exact h.channel k

theorem State.SensorsSit.raise (h : s.SensorsSit) (src : Source) : (s.raise src).SensorsSit := h.congr rfl rfl

/-- What a report, a policy or a level outside changes of a port is none of these. -/
theorem State.SensorsSit.aside (h : s.SensorsSit) {i : Idx6} {f : SensorPort → SensorPort}
    (same : ∃ policy causes driveA driveB, f (s.sensorAt i) =
      { s.sensorAt i with policy := policy, causes := causes, driveA := driveA, driveB := driveB }) : (s.modSensor i f).SensorsSit := by
  obtain ⟨_, _, _, _, e⟩ := same
  refine h.modSensor ?_ ?_
  · rw [e]; exact { h.port i with }
  · rw [e]; exact id

theorem State.SensorsSit.raiseSensor (h : s.SensorsSit) (i : Idx6) (c : SensorCause) : (s.raiseSensor i c).SensorsSit :=
  (h.aside ⟨_, _, _, _, rfl⟩).raise _

theorem State.SensorsSit.samplePolicy (h : s.SensorsSit) (i : Idx6) : (s.samplePolicy i).SensorsSit := by
  unfold State.samplePolicy
  dsimp only
  split
  · exact h
  · exact h.raiseSensor i _
  · next delta _ _ =>
    have reported : ((s.modSensor i fun p => { p with policy := .change delta (some (s.sensorAt i).record.values.v0) }).raiseSensor i
        .report).SensorsSit := (h.aside ⟨_, _, _, _, rfl⟩).raiseSensor i _
    split <;> split
    · exact reported
    · exact h
    · exact reported
    · exact h
  · exact h

/-- Other work of the same mode, on a port that is not held. -/
theorem State.SensorsSit.setWork (h : s.SensorsSit) {i : Idx6} {w : SensorWork} (free : (s.sensorAt i).isHeld = false)
    (mode : ({ s.sensorAt i with work := w } : SensorPort).mode = (s.sensorAt i).mode) : (s.setWork i w).SensorsSit := by
  have p := h.port i
  refine h.modSensor ⟨?_, p.count, p.smart, ?_, ?_, ?_, ?_⟩ ?_
  · exact p.mode.trans mode.symm
  · rw [mode]; exact p.fresh
  · rw [mode]; exact p.running
  · rw [mode]; exact p.supply
  · exact fun held => Bool.noConfusion (free.symm.trans held)
  · intro live; exact ⟨mode.trans live.1, live.2⟩

/-- A value set of a port that is not held (R59). -/
theorem State.SensorsSit.valueSet (h : s.SensorsSit) {i : Idx6} {x : ReadingStatus} {n : Nat} {v : Values} {d : Nat}
    (free : (s.sensorAt i).isHeld = false) (few : n ≤ 4) (unheld : x ≠ .fault)
    (fresh : x = .fresh → (s.sensorAt i).mode ≠ .off ∧ ((s.sensorAt i).mode = .smart → (s.sensorAt i).smart.lineState = .streaming)) :
    (s.valueSet i x n v d).SensorsSit := by
  have p := h.port i
  have still : (x == .fault) = false := by simpa using unheld
  have running := p.running
  have supply := p.supply
  rw [free] at running supply
  refine h.modSensor ⟨rfl, few, p.smart, fresh, ?_, ?_, ?_⟩ fun live => ⟨live.1, still⟩
  · unfold SensorPort.isHeld; rw [show _ = false from still]; exact running
  · unfold SensorPort.isHeld; rw [show _ = false from still]; exact supply
  · intro held
    unfold SensorPort.isHeld at held
    rw [show _ = false from still] at held
    cases held

/-- A controller changed that goes on running as it ran and streaming where it streamed. -/
theorem State.SensorsSit.modSmart (h : s.SensorsSit) {i : Idx6} {f : Smart → Smart} (smart : (f (s.smartAt i)).Sits)
    (running : (f (s.smartAt i)).running = (s.smartAt i).running)
    (line : (s.smartAt i).lineState = .streaming → (f (s.smartAt i)).lineState = .streaming) : (s.modSmart i f).SensorsSit := by
  have p := h.port i
  exact h.modSensor ⟨p.mode, p.count, smart, fun x => ⟨(p.fresh x).1, fun m => line ((p.fresh x).2 m)⟩, running.trans p.running,
    p.supply, p.halted⟩ id

/-- A running controller is that of a SMART port that is not held (R83). -/
theorem State.SensorsSit.of_running (h : s.SensorsSit) {i : Idx6} (running : (s.smartAt i).running = true) :
    (s.sensorAt i).mode = .smart ∧ (s.sensorAt i).isHeld = false := by
  have e := (h.port i).running.symm.trans running
  simpa using e

/-- The status of a running line's record goes STALE (R92, R95). -/
theorem State.SensorsSit.setStale (h : s.SensorsSit) {i : Idx6} (free : (s.sensorAt i).isHeld = false) :
    (s.setStatus i .stale).SensorsSit := by
  have p := h.port i
  have running := p.running
  have supply := p.supply
  rw [free] at running supply
  exact h.modSensor ⟨p.mode, p.count, p.smart, nofun, running, supply, nofun⟩ fun live => ⟨live.1, rfl⟩

end

end Sys2Proof.Machine
end

-- ==== Sys2Proof/Proofs/SensorsKept.lean ====

section
/-! Every act keeps sensor ports, controllers and channels fitting (chapters 3 to 5). -/

namespace Sys2Proof.Machine

section
variable {s : State}

/-! ### The converter (R42 to R44) -/

theorem Converter.next_sensor {c : Converter} {i : Idx6} (h : c.next = some (.sensor i)) : c.due.sensor.get i = true := by
  unfold Converter.next at h
  split at h
  · cases h
  · split at h
    · cases h
    · obtain ⟨k, hk, e⟩ := Option.map_eq_some_iff.mp h
      cases e
      exact List.find?_some hk

theorem beginConversion_sits (h : s.SensorsSit) : (s.modConv Converter.begin).SensorsSit := by
  refine ⟨h.port, fun i => ?_⟩
  show (s.sensorAt i).isLive ∨ (s.conv.begin.due.sensor.get i = false ∧
    ∀ f, s.conv.begin.inFlight = some f → f.channel = .sensor i → f.dropped = true)
  refine (h.channel i).imp_right fun ⟨due, flight⟩ => ?_
  unfold Converter.begin
  split
  · next ch _ hn =>
    refine ⟨?_, fun f hf hc => ?_⟩
    · cases ch with
      | battery | current => exact due
      | sensor k =>
        show (s.conv.due.sensor.set k false).get i = false
        rw [Six.get_set]
        split
        · rfl
        · exact due
    · cases hf
      have hc : ch = .sensor i := hc
      rw [Converter.next_sensor (hc ▸ hn)] at due
      cases due
  · exact ⟨due, flight⟩

/-- A live port's channel enters the due list (R63). -/
theorem State.SensorsSit.dueEnter (h : s.SensorsSit) {i : Idx6} (live : (s.sensorAt i).isLive) :
    (s.modConv fun c => { c with due := c.due.enter (.sensor i) }).SensorsSit := by
  refine ⟨h.port, fun k => ?_⟩
  by_cases e : k = i
  · exact .inl (e ▸ live)
  · refine (h.channel k).imp_right fun ⟨due, flight⟩ => ⟨?_, flight⟩
    show (s.conv.due.sensor.set i true).get k = false
    rw [Six.get_set_ne _ _ e]; exact due

/-- The drop of a port's channel leaves nothing of it to hand on, and the other channels alone (R44, R62, R72). -/
theorem Converter.dropSensor_parts (i : Idx6) (c : Converter) :
    ((c.dropSensor i).due.sensor.get i = false ∧ ∀ f, (c.dropSensor i).inFlight = some f → f.channel = .sensor i → f.dropped = true) ∧
    ∀ k, k ≠ i → (c.due.sensor.get k = false ∧ ∀ f, c.inFlight = some f → f.channel = .sensor k → f.dropped = true) →
      (c.dropSensor i).due.sensor.get k = false ∧ ∀ f, (c.dropSensor i).inFlight = some f → f.channel = .sensor k → f.dropped = true := by
  refine ⟨⟨Six.get_set_same _ _ _, fun f hf hc => ?_⟩, fun k hk ⟨due, flight⟩ => ⟨?_, fun f hf hc => ?_⟩⟩
  · obtain ⟨g, _, rfl⟩ := Option.map_eq_some_iff.mp hf
    by_cases e : g.channel = .sensor i
    · rw [if_pos e]
    · rw [if_neg e] at hc; exact absurd hc e
  · show (c.due.sensor.set i false).get k = false
    rw [Six.get_set_ne _ _ hk]; exact due
  · obtain ⟨g, hg, rfl⟩ := Option.map_eq_some_iff.mp hf
    by_cases e : g.channel = .sensor i
    · rw [if_pos e]
    · rw [if_neg e] at hc ⊢; exact flight g hg hc

/-- A port whose channel is dropped may be put into any fitting state (R62, R72). -/
theorem SensorsSit.dropped {t : State} (h : s.SensorsSit) {i : Idx6} (others : ∀ k, k ≠ i → t.sensorAt k = s.sensorAt k)
    (port : (t.sensorAt i).Sits) (conv : t.conv = s.conv.dropSensor i) : t.SensorsSit := by
  obtain ⟨own, other⟩ := Converter.dropSensor_parts i s.conv
  refine ⟨fun k => ?_, fun k => ?_⟩
  · by_cases e : k = i
    · exact e ▸ port
    · rw [others k e]; exact h.port k
  · rw [conv]
    by_cases e : k = i
    · exact .inr (e ▸ own)
    · rw [others k e]; exact (h.channel k).imp_right (other k e)

/-! ### Pins -/

theorem readPin_sensors (s : State) (d : Drive) (p : Pull) : (s.readPin d p).2.sensor = s.sensor ∧ (s.readPin d p).2.conv = s.conv := by
  unfold State.readPin; split <;> exact ⟨rfl, rfl⟩

theorem enterPin_sensors (s : State) (d : Drive) (p : Pull) (dir : Direction) (n : Nat) (e : Edge) :
    (s.enterPin d p dir n e).2.sensor = s.sensor ∧ (s.enterPin d p dir n e).2.conv = s.conv := by
  unfold State.enterPin; split
  · exact readPin_sensors s d p
  · exact ⟨rfl, rfl⟩
  · exact ⟨rfl, rfl⟩

theorem drivePin_sits (h : s.SensorsSit) (i : Idx6) (pin : PinId) (level : Bool) : (s.drivePin i pin level).SensorsSit := by
  cases pin <;> exact h.aside ⟨_, _, _, _, rfl⟩

theorem drivePin_same (s : State) (i : Idx6) (pin : PinId) (level : Bool) :
    ((s.drivePin i pin level).sensorAt i).work = (s.sensorAt i).work ∧
      ((s.drivePin i pin level).sensorAt i).isHeld = (s.sensorAt i).isHeld := by
  unfold State.drivePin
  rw [State.modSensor_sensorAt_same]
  cases pin <;> exact ⟨rfl, rfl⟩

/-! ### Samples (R64, R67, R69, R70) -/

/-- A sample of a port that is neither held nor OFF nor SMART: its work goes on, a FRESH value set, and the policy's act. -/
theorem sample_sits (h : s.SensorsSit) {i : Idx6} {w : SensorWork} {n : Nat} {v : Values} {m : SensorMode} (d : Nat)
    (free : (s.sensorAt i).isHeld = false) (few : n ≤ 4) (now : (s.sensorAt i).mode = m)
    (next : ({ s.sensorAt i with work := w } : SensorPort).mode = m) (on : m ≠ .off) (notSmart : m ≠ .smart) :
    (((s.setWork i w).valueSet i .fresh n v d).samplePolicy i).SensorsSit := by
  have worked := h.setWork free (next.trans now.symm)
  refine (worked.valueSet ?_ few (by decide) fun _ => ?_).samplePolicy i
  · rw [State.setWork, State.modSensor_sensorAt_same]; exact free
  · rw [State.setWork, State.modSensor_sensorAt_same, next]
    exact ⟨on, fun e => absurd e notSmart⟩

theorem SensorPort.mode_analog {p : SensorPort} {w : AnalogWork} (h : p.work = .analog w) : p.mode = .analog := by
  unfold SensorPort.mode; rw [h]
theorem SensorPort.mode_digital {p : SensorPort} {a b : DigitalPin} (h : p.work = .digital a b) : p.mode = .digital := by
  unfold SensorPort.mode; rw [h]
theorem SensorPort.mode_counter {p : SensorPort} {w : CounterWork} (h : p.work = .counter w) : p.mode = .counter := by
  unfold SensorPort.mode; rw [h]

theorem analogResult_sits (h : s.SensorsSit) {i : Idx6} (live : (s.sensorAt i).isLive) (raw : Nat) : (s.analogResult i raw).SensorsSit := by
  unfold State.analogResult
  dsimp only
  split
  · next w hw =>
    have a := readPin_sensors s (s.sensorAt i).driveA .none
    have b := readPin_sensors (s.readPin (s.sensorAt i).driveA .none).2 (s.sensorAt i).driveB .none
    have e : ((s.readPin (s.sensorAt i).driveA .none).2.readPin (s.sensorAt i).driveB .none).2.sensorAt i = s.sensorAt i := by
      exact congrArg (Six.get · i) (b.1.trans a.1)
    have read : ((s.readPin (s.sensorAt i).driveA .none).2.readPin (s.sensorAt i).driveB .none).2.SensorsSit :=
      h.congr (b.1.trans a.1) (b.2.trans a.2)
    exact sample_sits (m := .analog) read 0 (by rw [e]; exact live.2) (by decide) (by rw [e]; exact live.1) rfl (by decide) (by decide)
  · exact h

/-- A debounced level changes, on a port that is not held (R67). -/
theorem debouncedChange_sits (h : s.SensorsSit) {i : Idx6} (free : (s.sensorAt i).isHeld = false) (pin : PinId) (level : Bool) :
    (s.debouncedChange i pin level).SensorsSit := by
  unfold State.debouncedChange
  split
  · next a b hw =>
    have mode := SensorPort.mode_digital hw
    cases pin <;> exact sample_sits h 0 free (by decide) mode rfl (by decide) (by decide)
  · exact h

theorem setDebounce_sits (h : s.SensorsSit) {i : Idx6} (free : (s.sensorAt i).isHeld = false) (pin : PinId) (t : Timer) :
    (s.setDebounce i pin t).SensorsSit := by
  unfold State.setDebounce
  split
  · next a b hw =>
    have mode := SensorPort.mode_digital hw
    cases pin <;> exact h.setWork free (.trans rfl mode.symm)
  · exact h

theorem digitalPin_sits (h : s.SensorsSit) (i : Idx6) (pin : PinId) (level : Bool) : (s.digitalPin i pin level).SensorsSit := by
  have driven := drivePin_sits h i pin level
  obtain ⟨_, held⟩ := drivePin_same s i pin level
  unfold State.digitalPin
  dsimp only
  split
  · split
    · exact driven
    · next works =>
      simp only [Bool.or_eq_true, not_or, Bool.not_eq_true] at works
      have free := held.trans works.1.2
      split
      · exact setDebounce_sits driven free pin _
      · split
        · exact debouncedChange_sits driven free pin _
        · exact setDebounce_sits driven free pin _
  · exact driven

theorem counterPinA_sits (h : s.SensorsSit) (i : Idx6) (level : Bool) (us : Nat) : (s.counterPinA i level us).SensorsSit := by
  have driven := drivePin_sits h i .a level
  obtain ⟨work, held⟩ := drivePin_same s i .a level
  unfold State.counterPinA
  dsimp only
  split
  · next w hw =>
    have mode := SensorPort.mode_counter (work.trans hw)
    split
    · exact driven
    · next works =>
      simp only [Bool.or_eq_true, not_or, Bool.not_eq_true] at works
      have free := held.trans works.1
      split
      · exact driven.setWork free (.trans rfl mode.symm)
      · split
        · exact sample_sits driven 0 free (by decide) mode rfl (by decide) (by decide)
        · exact driven
  · exact driven

theorem counterPinB_sits (h : s.SensorsSit) (i : Idx6) (level : Bool) : (s.counterPinB i level).SensorsSit := by
  have driven := drivePin_sits h i .b level
  obtain ⟨work, held⟩ := drivePin_same s i .b level
  unfold State.counterPinB
  dsimp only
  split
  · next w hw =>
    have mode := SensorPort.mode_counter (work.trans hw)
    split
    · exact driven
    · next works =>
      simp only [Bool.or_eq_true, not_or, Bool.not_eq_true] at works
      exact sample_sits driven 0 (held.trans works.1) (by decide) mode rfl (by decide) (by decide)
  · exact driven

/-! ### Mode entries and overloads (R62, R72) -/

@[simp] theorem readPin_sensor (s : State) (d : Drive) (p : Pull) : (s.readPin d p).2.sensor = s.sensor := (readPin_sensors s d p).1
@[simp] theorem readPin_conv (s : State) (d : Drive) (p : Pull) : (s.readPin d p).2.conv = s.conv := (readPin_sensors s d p).2
@[simp] theorem enterPin_sensor (s : State) (d : Drive) (p : Pull) (dir : Direction) (n : Nat) (e : Edge) :
    (s.enterPin d p dir n e).2.sensor = s.sensor := (enterPin_sensors s d p dir n e).1
@[simp] theorem enterPin_conv (s : State) (d : Drive) (p : Pull) (dir : Direction) (n : Nat) (e : Edge) :
    (s.enterPin d p dir n e).2.conv = s.conv := (enterPin_sensors s d p dir n e).2

/-- What a mode makes of its port's channel beside dropping it (R63). -/
def ModeSetup.due (i : Idx6) (setup : ModeSetup) (c : Converter) : Converter :=
  match setup with
  | .analog _ _ => { c with due := c.due.enter (.sensor i) }
  | _ => c

theorem enterMode_conv (u : State) (i : Idx6) (setup : ModeSetup) : (u.enterMode i setup).conv = setup.due i u.conv := by
  cases setup <;>
    simp [State.enterMode, State.setWork, State.valueSet, State.modSmart, ModeSetup.due]

theorem enterMode_others (u : State) {i k : Idx6} (setup : ModeSetup) (ne : k ≠ i) :
    (u.enterMode i setup).sensorAt k = u.sensorAt k := by
  cases setup <;>
    simp [State.enterMode, State.setWork, State.valueSet, State.modSmart, State.sensorAt, ne]

/-- The port that has entered a mode: supply and controller as the mode has them, its record the mode's (R58, R60, R83). -/
theorem enterMode_sits (u : State) (i : Idx6) (setup : ModeSetup) (smart : (u.sensorAt i).smart.Sits)
    (stopped : (u.sensorAt i).smart.running = false) : ((u.enterMode i setup).sensorAt i).Sits := by
  have started (maxRate preferred : Nat) : (Smart.start maxRate preferred).Sits := Smart.reset_sits _ _ 0 true (Nat.zero_le _)
  cases setup with
  | off =>
    simp only [State.enterMode, State.setWork, State.valueSet, State.modSensor_sensorAt_same]
    exact ⟨rfl, Nat.zero_le _, smart, nofun, stopped, rfl, nofun⟩
  | analog period n =>
    simp only [State.enterMode, State.setWork, State.valueSet, State.modConv_sensor, State.sensorAt,
      State.modSensor_sensor, Six.get_set_same]
    exact ⟨rfl, (by decide : 3 ≤ 4), smart, nofun, stopped, rfl, nofun⟩
  | digital pa pb da db na nb ea eb =>
    simp only [State.enterMode, State.setWork, State.valueSet, State.sensorAt, State.modSensor_sensor, Six.get_set_same, enterPin_sensor]
    exact ⟨rfl, le_rfl, smart, fun _ => ⟨nofun, nofun⟩, stopped, rfl, nofun⟩
  | counter pa pb falling gated preset =>
    simp only [State.enterMode, State.setWork, State.valueSet, State.sensorAt, State.modSensor_sensor, Six.get_set_same, readPin_sensor]
    exact ⟨rfl, (by decide : 3 ≤ 4), smart, fun _ => ⟨nofun, nofun⟩, stopped, rfl, nofun⟩
  | smart maxRate preferred =>
    simp only [State.enterMode, State.setWork, State.valueSet, State.modSmart, State.modSensor_sensorAt_same]
    exact ⟨rfl, Nat.zero_le _, started _ _, nofun, rfl, rfl, nofun⟩

theorem enterMode_live (u : State) (i : Idx6) (period n : Nat) : ((u.enterMode i (.analog period n)).sensorAt i).isLive := by
  simp only [State.enterMode, State.setWork, State.valueSet, State.sensorAt, State.modSensor_sensor, State.modConv_sensor, Six.get_set_same]
  exact ⟨rfl, rfl⟩

theorem modeEntry_sits (h : s.SensorsSit) (i : Idx6) (setup : ModeSetup) (policy : Policy) : (s.modeEntry i setup policy).SensorsSit := by
  have ended : ((s.endWork i).sensorAt i).smart.Sits ∧ ((s.endWork i).sensorAt i).smart.running = false := by
    unfold State.endWork State.modSmart
    rw [State.modSensor_sensorAt_same]
    exact ⟨Smart.reset_sits _ _ 0 false (Nat.zero_le _), rfl⟩
  have others (k : Idx6) (ne : k ≠ i) : ((s.endWork i).enterMode i setup).sensorAt k = s.sensorAt k := by
    rw [enterMode_others _ _ ne]
    unfold State.endWork State.modSmart
    rw [State.modSensor_sensorAt_ne _ _ ne]
    rfl
  have port := enterMode_sits (s.endWork i) i setup ended.1 ended.2
  have conv : ((s.endWork i).enterMode i setup).conv = setup.due i (s.conv.dropSensor i) := enterMode_conv _ i setup
  have entered : ((s.endWork i).enterMode i setup).SensorsSit := by
    cases setup with
    | analog period n =>
      have dropped : ({ (s.endWork i).enterMode i (.analog period n) with conv := s.conv.dropSensor i } : State).SensorsSit :=
        SensorsSit.dropped h others port rfl
      exact (dropped.dueEnter (enterMode_live (s.endWork i) i period n)).congr rfl conv
    | _ => exact SensorsSit.dropped h others port conv
  exact State.SensorsSit.raiseSensor (entered.aside ⟨_, _, _, _, rfl⟩) i _

/-- An overload stops the port's work and cuts its supply (R72). -/
theorem overload_sits (h : s.SensorsSit) (i : Idx6) : (s.overload i).SensorsSit := by
  unfold State.overload
  dsimp only
  split
  · exact h
  · have p := h.port i
    have halted : (s.sensorAt i).work.halt.isHalted = true := by cases (s.sensorAt i).work <;> rfl
    have mode : ({ s.sensorAt i with work := (s.sensorAt i).work.halt } : SensorPort).mode = (s.sensorAt i).mode := by
      unfold SensorPort.mode
      cases (s.sensorAt i).work <;> rfl
    refine State.SensorsSit.raiseSensor (SensorsSit.dropped h (fun k ne => ?_) ?_ rfl) i _
    · rw [State.modSensor_sensorAt_ne _ _ ne]; rfl
    · rw [State.modSensor_sensorAt_same]
      refine ⟨p.mode.trans mode.symm, p.count, Smart.reset_sits _ _ _ false p.smart.errors, nofun, ?_, ?_, fun _ => halted⟩
      · exact (Bool.and_false _).symm
      · exact (Bool.and_false _).symm

/-! ### The smart lines (R78 to R96) -/

theorem Profile.mode_mem {p : Profile} {k : Nat} {m : ModeInfo} (h : p.mode k = some m) : m ∈ p.modes := List.mem_of_find?_eq_some h

theorem modSmart_discard_sits (h : s.SensorsSit) (i : Idx6) : (s.modSmart i Smart.discard).SensorsSit := by
  refine h.modSmart (Smart.discard_sits (h.port i).smart) (Smart.discard_running _) fun line => ?_
  unfold Smart.discard
  dsimp only
  rw [if_neg (by rw [line]; decide)]
  exact line

/-- The line is STREAMING from a DATA record on (R89, R95). -/
theorem Smart.Sits.streaming_sits {c : Smart} (h : c.Sits)
    (line : c.lineState = .starting ∨ c.lineState = .streaming ∨ c.lineState = .switching) (loss : Timer) :
    ({ c with lineState := .streaming, lossTimer := loss } : Smart).Sits := by
  have fits := h.line
  have announce := h.announce
  have switch := h.switch
  refine ⟨h.rx, h.cmd, h.errors, h.profile, ?_, ?_, ?_, .inl (h.runs ?_)⟩ <;> rcases line with e | e | e <;>
    simp_all [lineFits]

/-- A DATA record in a line state that has a profile (R89, R90, R95). -/
theorem smartData_sits (h : s.SensorsSit) {i : Idx6} (body : List Byte)
    (line : (s.smartAt i).lineState = .starting ∨ (s.smartAt i).lineState = .streaming ∨ (s.smartAt i).lineState = .switching) :
    (s.smartData i body).SensorsSit := by
  have smart := (h.port i).smart
  have running : (s.smartAt i).running = true := smart.runs (by rcases line with e | e | e <;> (show (s.smartAt i).lineState ≠ _; rw [e]; decide))
  obtain ⟨mode, free⟩ := h.of_running running
  have accepted (m : ModeInfo) (few : m.count ≤ 4) :
      ((s.modSmart i fun c => { c with lineState := .streaming }).dataAccepted i m body).SensorsSit := by
    unfold State.dataAccepted
    rw [State.modSmart_modSmart]
    have streaming := h.modSmart (f := fun c => { c with lineState := .streaming, lossTimer := some s.clock })
      (smart.streaming_sits line _) rfl fun _ => rfl
    refine (streaming.valueSet ?_ few (by decide) fun _ => ?_).samplePolicy i
    · unfold State.modSmart; rw [State.modSensor_sensorAt_same]; exact free
    · unfold State.modSmart
      rw [State.modSensor_sensorAt_same]
      exact ⟨fun e => SensorMode.noConfusion (mode.symm.trans e), fun _ => rfl⟩
  unfold State.smartData
  dsimp only
  split
  · exact modSmart_discard_sits h i
  · next m hm =>
    have few : m.count ≤ 4 := by
      unfold Smart.dataMode at hm
      split at hm
      · next p index _ hp =>
        split at hm
        · next q hq =>
          split at hm
          · cases hm; exact (smart.profile p hp).2 _ (Profile.mode_mem hq)
          · cases hm
        · cases hm
      · cases hm
    split
    · split
      · exact (accepted m few).raiseSensor i _
      · exact (accepted m few).raiseSensor i _
      · exact accepted m few
    · exact h

@[simp] theorem Smart.announce_running (c : Smart) (body : List Byte) (clock : Nat) : (c.announce body clock).running = c.running := by
  unfold Smart.announce; dsimp only; split
  · rfl
  · exact Smart.discard_running c

@[simp] theorem Smart.modeInfo_running (c : Smart) (body : List Byte) : (c.modeInfo body).running = c.running := by
  unfold Smart.modeInfo; dsimp only; split
  · split
    · split <;> rfl
    · exact Smart.discard_running c
  · exact Smart.discard_running c

@[simp] theorem Smart.announceEnd_running (c : Smart) (body : List Byte) : (c.announceEnd body).running = c.running := by
  unfold Smart.announceEnd; split
  · exact Smart.discard_running c
  · split
    · split
      · rw [Smart.beginTx_running]
      · rfl
    · rfl

/-- A record whose check passed, on a running line (R81 to R90, R95). -/
theorem smartRecordReceived_sits (h : s.SensorsSit) {i : Idx6} (running : (s.smartAt i).running = true) (header : Byte)
    (body : List Byte) : (s.smartRecordReceived i header body).SensorsSit := by
  have smart : (s.smartAt i).Sits := (h.port i).smart
  have notStreaming {x : LineState} {P : Prop} (line : (s.smartAt i).lineState = x) (ne : x ≠ .streaming) :
      (s.smartAt i).lineState = .streaming → P := fun e => absurd (line.symm.trans e) ne
  unfold State.smartRecordReceived
  split
  · split
    · next line =>
      exact h.modSmart (Smart.announce_sits body _ running (.inl line) smart) (Smart.announce_running _ _ _) (notStreaming line (by decide))
    · next line =>
      exact h.modSmart (Smart.announce_sits body _ running (.inr line) smart) (Smart.announce_running _ _ _) (notStreaming line (by decide))
    · exact h
  · split
    · next line => exact h.modSmart (Smart.modeInfo_sits body line smart) (Smart.modeInfo_running _ _) (notStreaming line (by decide))
    · exact h
  · split
    · next line => exact h.modSmart (Smart.announceEnd_sits body line smart) (Smart.announceEnd_running _ _) (notStreaming line (by decide))
    · exact h
  · split
    · next line => exact smartData_sits h body (.inl line)
    · next line => exact smartData_sits h body (.inr (.inl line))
    · next line => exact smartData_sits h body (.inr (.inr line))
    · exact h
  · exact modSmart_discard_sits h i

theorem smartAt_modSensor (s : State) {i : Idx6} {f : SensorPort → SensorPort} (h : (f (s.sensorAt i)).smart = (s.sensorAt i).smart) :
    (s.modSensor i f).smartAt i = s.smartAt i := by
  unfold State.smartAt; rw [State.modSensor_sensorAt_same, h]

theorem raiseSensor_smartAt (s : State) (i : Idx6) (c : SensorCause) : (s.raiseSensor i c).smartAt i = s.smartAt i :=
  smartAt_modSensor s (f := fun p => { p with causes := p.causes.set c }) rfl

theorem samplePolicy_smartAt (s : State) (i : Idx6) : (s.samplePolicy i).smartAt i = s.smartAt i := by
  unfold State.samplePolicy
  dsimp only
  split
  · rfl
  · exact raiseSensor_smartAt s i _
  · split <;> split <;> first | exact (raiseSensor_smartAt _ i _).trans (smartAt_modSensor s rfl) | rfl
  · rfl

theorem smartData_running (s : State) (i : Idx6) (body : List Byte) :
    ((s.smartData i body).smartAt i).running = (s.smartAt i).running := by
  have accepted (m : ModeInfo) (f : Smart → Smart) (h : ∀ c, (f c).running = c.running) :
      (((s.modSmart i f).dataAccepted i m body).smartAt i).running = (s.smartAt i).running := by
    unfold State.dataAccepted
    rw [samplePolicy_smartAt, State.valueSet, smartAt_modSensor _ rfl, State.modSmart_smartAt, State.modSmart_smartAt]
    exact h _
  unfold State.smartData
  dsimp only
  split
  · rw [State.modSmart_smartAt, Smart.discard_running]
  · split
    · split
      · rw [raiseSensor_smartAt]; exact accepted _ _ fun _ => rfl
      · rw [raiseSensor_smartAt]; exact accepted _ _ fun _ => rfl
      · exact accepted _ _ fun _ => rfl
    · rfl

theorem smartRecordReceived_running (s : State) (i : Idx6) (header : Byte) (body : List Byte) :
    ((s.smartRecordReceived i header body).smartAt i).running = (s.smartAt i).running := by
  by_cases data : classOf header = 4
  · rw [smartRecordReceived_data data]
    split
    · exact smartData_running s i body
    · exact smartData_running s i body
    · exact smartData_running s i body
    · rfl
  · rw [smartRecordReceived_control data, State.modSmart_smartAt]
    unfold Smart.record
    split <;> simp

/-- What the parser makes of one entry leaves the line running (R79, R80). -/
theorem parseEntry_sits (h : s.SensorsSit) {i : Idx6} (running : (s.smartAt i).running = true) (e : RxEntry) :
    (s.parseEntry i e).SensorsSit ∧ ((s.parseEntry i e).smartAt i).running = true := by
  have discarded {u : State} (hu : u.SensorsSit) (r : (u.smartAt i).running = true) :
      (u.modSmart i Smart.discard).SensorsSit ∧ ((u.modSmart i Smart.discard).smartAt i).running = true :=
    ⟨modSmart_discard_sits hu i, by rw [State.modSmart_smartAt, Smart.discard_running, r]⟩
  have parsed (x : Option (List Byte)) : (s.modSmart i fun c => { c with parser := x }).SensorsSit ∧
      ((s.modSmart i fun c => { c with parser := x }).smartAt i).running = true :=
    ⟨h.modSmart (f := fun c => { c with parser := x }) ((h.port i).smart.of_running running (h.port i).smart.rx (h.port i).smart.cmd
      (h.port i).smart.errors rfl rfl rfl rfl rfl) rfl id, by rw [State.modSmart_smartAt]; exact running⟩
  unfold State.parseEntry
  split
  · exact discarded h running
  · dsimp only
    split
    · exact parsed _
    · obtain ⟨hu, r⟩ := parsed none
      split
      · exact ⟨smartRecordReceived_sits hu r _ _, (smartRecordReceived_running _ _ _ _).trans r⟩
      · exact discarded hu r

theorem smartChar_sits (h : s.SensorsSit) (i : Idx6) (char : Byte) (framing : Bool) : (s.smartChar i char framing).SensorsSit := by
  have folded (l : List RxEntry) {u : State} (hu : u.SensorsSit) (r : (u.smartAt i).running = true) :
      (l.foldl (fun t e => t.parseEntry i e) u).SensorsSit ∧ ((l.foldl (fun t e => t.parseEntry i e) u).smartAt i).running = true := by
    induction l generalizing u with
    | nil => exact ⟨hu, r⟩
    | cons e l ih =>
      obtain ⟨hv, rv⟩ := parseEntry_sits hu r e
      exact ih hv rv
  unfold State.smartChar
  split
  · next running =>
    have entered : (s.modSmart i fun c => c.enterChar char framing).SensorsSit := by
      refine h.modSmart (Smart.enterChar_sits char framing (h.port i).smart) ?_ fun line => ?_
      · unfold Smart.enterChar; split <;> rfl
      · unfold Smart.enterChar; split <;> exact line
    have runs : ((s.modSmart i fun c => c.enterChar char framing).smartAt i).running = true := by
      rw [State.modSmart_smartAt]; unfold Smart.enterChar; split <;> exact running
    generalize (s.modSmart i fun c => c.enterChar char framing) = u at entered runs
    have emptied : (u.modSmart i fun c => { c with rxFifo := [] }).SensorsSit := by
      have smart := (entered.port i).smart
      exact entered.modSmart (f := fun c => { c with rxFifo := [] }) (smart.of_running runs (Nat.zero_le _) smart.cmd smart.errors rfl rfl
        rfl rfl rfl) rfl id
    obtain ⟨hv, rv⟩ := folded (u.smartAt i).rxFifo emptied (by rw [State.modSmart_smartAt]; exact runs)
    have smart := (hv.port i).smart
    exact hv.modSmart (f := fun c => { c with pauseTimer := _ }) (smart.of_running rv smart.rx smart.cmd smart.errors rfl rfl rfl rfl rfl) rfl id
  · exact h

/-- A running controller leaves STREAMING with its record STALE (R92, R95). -/
theorem stale_sits (h : s.SensorsSit) {i : Idx6} {f : Smart → Smart} (running : (s.smartAt i).running = true)
    (smart : (f (s.smartAt i)).Sits) (runs : (f (s.smartAt i)).running = true) : ((s.setStatus i .stale).modSmart i f).SensorsSit := by
  obtain ⟨mode, free⟩ := h.of_running running
  have stale := h.setStale free
  have kept : (s.setStatus i .stale).smartAt i = s.smartAt i := smartAt_modSensor s rfl
  have p := stale.port i
  have status : ((s.setStatus i .stale).sensorAt i).record.status = .stale := by
    unfold State.setStatus; rw [State.modSensor_sensorAt_same]
  unfold State.smartAt at kept
  refine stale.modSensor ⟨p.mode, p.count, ?_, fun x => ?_, ?_, p.supply, p.halted⟩ id
  · rw [kept]; exact smart
  · cases status.symm.trans x
  · show (f ((s.setStatus i .stale).sensorAt i).smart).running = _
    rw [kept]
    refine runs.trans (.trans ?_ p.running)
    rw [kept]; exact running.symm

theorem setStatus_modSmart (s : State) (i : Idx6) (x : ReadingStatus) (f : Smart → Smart) :
    (s.modSmart i f).setStatus i x = (s.setStatus i x).modSmart i f := by
  simp [State.modSmart, State.setStatus, State.modSensor]

/-! ### Every act -/

theorem SensorAct.sits {t : State} (act : SensorAct s t) (h : s.SensorsSit) : t.SensorsSit := by
  have smart (i : Idx6) : (s.smartAt i).Sits := (h.port i).smart
  cases act with
  | beginConversion => exact beginConversion_sits h
  | supplyDue => exact ⟨h.port, h.channel⟩
  | completes => exact ⟨h.port, fun i => (h.channel i).imp_right fun ⟨due, _⟩ => ⟨due, nofun⟩⟩
  | @converted i dropped raw hf =>
    have done : (s.modConv fun c => { c with inFlight := none }).SensorsSit :=
      ⟨h.port, fun i => (h.channel i).imp_right fun ⟨due, _⟩ => ⟨due, nofun⟩⟩
    rw [State.conversionDone, hf]
    dsimp only
    split
    · exact done
    · next kept =>
      refine analogResult_sits done ?_ raw
      rcases h.channel i with live | ⟨_, flight⟩
      · exact live
      · exact absurd (flight _ hf rfl) kept
  | drivePin i pin level => exact drivePin_sits h i pin level
  | analogDue i =>
    unfold State.analogDue
    split
    · next w hw =>
      split
      · exact h
      · next free =>
        have free : (s.sensorAt i).isHeld = false := by simpa using free
        have mode := SensorPort.mode_analog hw
        refine (h.setWork (w := .analog { w with dueAt := w.dueAt + w.period }) free mode.symm).dueEnter ?_
        unfold State.setWork
        rw [State.modSensor_sensorAt_same]
        exact ⟨rfl, free⟩
    · exact h
  | digitalPin i pin level => exact digitalPin_sits h i pin level
  | debounce i pin =>
    unfold State.debounceExpires
    split
    · next a b hw =>
      dsimp only
      split
      · next running =>
        have free : (s.sensorAt i).isHeld = false := by
          by_contra held
          have halted := (h.port i).halted (by simpa using held)
          rw [hw] at halted
          cases pin <;> simp_all [pinOf, SensorWork.isHalted]
        exact debouncedChange_sits h free pin _
      · exact h
    · exact h
  | counterPinA i level us => exact counterPinA_sits h i level us
  | counterPinB i level => exact counterPinB_sits h i level
  | overload i => exact overload_sits h i
  | interval i =>
    unfold State.intervalExpires
    split
    · dsimp only
      split
      · exact State.SensorsSit.raiseSensor (h.aside ⟨_, _, _, _, rfl⟩) i _
      · exact h.aside ⟨_, _, _, _, rfl⟩
    · exact h
  | smartChar i char framing => exact smartChar_sits h i char framing
  | smartPause i =>
    unfold State.smartPause
    split
    · have d := Smart.discard_sits (smart i)
      refine h.modSmart (f := fun c => { c.discard with pauseTimer := none })
        { d with stopped := d.stopped.imp_right fun r => { r with } } (Smart.discard_running _) fun line => ?_
      unfold Smart.discard
      dsimp only
      rw [if_neg (by rw [line]; decide)]
      exact line
    · exact h
  | announceLimit i =>
    unfold State.smartAnnounceLimit
    split
    · next running =>
      have line : (s.smartAt i).lineState = .announcing := by
        rcases (smart i).announce with e | e
        · rw [e] at running; cases running
        · exact e
      exact h.modSmart (Smart.failHandshake_sits line (smart i)) rfl fun x => by rw [line] at x; cases x
    · exact h
  | smartSwitch i =>
    unfold State.smartSwitch
    split
    · next running =>
      have line : (s.smartAt i).lineState = .accepting := by
        rcases (smart i).switch with e | e
        · rw [e] at running; cases running
        · exact e
      exact h.modSmart (Smart.beginTx_sits (Smart.starts_sits line (smart i))) (Smart.beginTx_running _) fun x => by
        rw [line] at x; cases x
    · exact h
  | smartNudge i =>
    unfold State.smartNudge
    split
    · next t ht =>
      have running : (s.smartAt i).running = true := by
        rcases (smart i).stopped with r | r
        · exact r
        · rw [r.nudge] at ht; cases ht
      refine h.modSmart (Smart.beginTx_sits ((smart i).of_running running (smart i).rx (smart i).cmd (smart i).errors rfl rfl rfl rfl rfl))
        (Smart.beginTx_running _) fun line => ?_
      rw [Smart.beginTx_lineState]; exact line
    · exact h
  | smartLoss i =>
    unfold State.smartLoss
    split
    · next loss =>
      have running : (s.smartAt i).running = true := by
        rcases (smart i).stopped with r | r
        · exact r
        · rw [r.loss] at loss; cases loss
      exact State.SensorsSit.raiseSensor (stale_sits h running (Smart.reset_sits _ _ _ _ (smart i).errors) running) i _
    · exact h
  | smartSent i =>
    unfold State.smartSent
    split
    · next r hr =>
      have running : (s.smartAt i).running = true := by
        rcases (smart i).stopped with x | x
        · exact x
        · rw [x.tx] at hr; cases hr
      refine h.modSmart (Smart.beginTx_sits ?_) (Smart.beginTx_running _) fun line => ?_
      · refine { smart i with switch := ?_, stopped := .inl running }
        show (if _ then _ else _) = none ∨ _
        split
        · next accepts =>
          simp only [Bool.and_eq_true, beq_iff_eq] at accepts
          exact .inr accepts.2
        · exact (smart i).switch
      · rw [Smart.beginTx_lineState]; exact line
    · exact h
  | setup i _ _ => exact modeEntry_sits h i _ _
  | select h' =>
    simp only [takeSmartSelect, Check.bind_ok, need_ok, Check.pure_ok, Prod.mk.injEq, Bool.and_eq_true, beq_iff_eq,
      decide_eq_true_eq] at h'
    obtain ⟨i, _, _, ⟨mode, running⟩, _, _, _, line, _, inProfile, rfl, _⟩ := h'
    rw [setStatus_modSmart]
    refine stale_sits h running (Smart.beginTx_sits ?_) ((Smart.beginTx_running _).trans running)
    have fits := (smart i).line
    have announce := (smart i).announce
    have switch := (smart i).switch
    rw [line] at fits announce switch
    refine ⟨(smart i).rx, (smart i).cmd, (smart i).errors, (smart i).profile, ?_, ?_, ?_, .inl running⟩
    · unfold lineFits at fits ⊢
      dsimp only at fits ⊢
      cases hp : (s.smartAt i).profile with
      | none => rw [hp] at fits; cases fits
      | some p =>
        rw [hp] at fits inProfile
        simp only [Option.any_some, Bool.and_eq_true, decide_eq_true_eq] at fits ⊢
        exact ⟨fits.1, inProfile⟩
    · exact announce.imp_right fun e => by cases e
    · exact switch.imp_right fun e => by cases e
  | write h' counted =>
    simp only [takeSmartWrite, Check.bind_ok, need_ok, Check.pure_ok, Prod.mk.injEq, Bool.and_eq_true, beq_iff_eq,
      decide_eq_true_eq] at h'
    obtain ⟨i, _, _, _, _, ⟨⟨_, running⟩, line⟩, _, room, rfl, _⟩ := h'
    refine h.modSmart (f := fun _ => Smart.beginTx { s.smartAt i with cmdFifo := _ })
      (Smart.beginTx_sits ((smart i).of_running running (smart i).rx ?_ (smart i).errors rfl rfl rfl rfl rfl)) (Smart.beginTx_running _)
      fun line => ?_
    · simp only [Smart.cmdUsed, List.map_append, List.sum_append, smartRecord, List.map_cons, List.length_cons, List.length_append,
        List.map_nil, List.sum_cons, List.sum_nil, List.length_nil] at room ⊢
      omega
    · rw [Smart.beginTx_lineState]; exact line

/-- A notice clears a port's causes (R165). -/
theorem clearReported_sensorsSit (h : s.SensorsSit) (src : Source) : (s.clearReported src).SensorsSit := by
  cases src with
  | sensor i => exact h.aside (f := fun p => { p with causes := .clear }) ⟨_, _, _, _, rfl⟩
  | _ => exact h.congr rfl rfl

/-- A sensor port in its reset state (R59, R62, R83). -/
theorem SensorPort.reset_sits (a b : Drive) : (SensorPort.reset a b).Sits :=
  ⟨rfl, Nat.zero_le _, Smart.reset_sits 0 0 0 false (Nat.zero_le _), nofun, rfl, rfl, nofun⟩

/-- A transmission cut off leaves a controller sitting (R166). -/
theorem SensorPort.Sits.cut {p : SensorPort} (h : p.Sits) : ({ p with smart := { p.smart with tx := none } } : SensorPort).Sits :=
  ⟨h.mode, h.count, { h.smart with stopped := h.smart.stopped.imp_right fun r => { r with tx := rfl } }, h.fresh, h.running, h.supply,
    h.halted⟩

theorem Act.sensorsSit {t : State} (act : Act s t) (h : s.SensorsSit) : t.SensorsSit := by
  cases act with
  | drive act => exact h.congr (by rw [act.only.rest]) (by rw [act.only.rest])
  | sensor act => exact act.sits h
  | sound act => exact h.congr (by rw [act.only.rest]) (by rw [act.only.rest])
  | supply act => exact h.congr (by rw [act.only.rest]) (by rw [act.only.rest])
  | line act => exact h.congr (by rw [act.only.rest]) (by rw [act.only.rest])
  | @notice l _ _ =>
    unfold State.beginAttention
    split
    · next src _ =>
      have cleared := clearReported_sensorsSit (s := { s with attn := s.attn.setCount src 0 }) (h.congr rfl rfl) src
      have sent := onlyLines_notice (({ s with attn := s.attn.setCount src 0 } : State).clearReported src) l (s.noticeBody src)
      exact cleared.congr (by rw [sent.rest]) (by rw [sent.rest])
    · exact h
  | resetBegins =>
    have port (i : Idx6) : s.resetBegins.sensorAt i = { s.sensorAt i with smart := { (s.sensorAt i).smart with tx := none } } :=
      Six.get_map _ _ _
    exact ⟨fun i => port i ▸ (h.port i).cut, fun i => by rw [port]; exact h.channel i⟩
  | resetEnds cause =>
    have port (i : Idx6) : (s.resetTo cause).sensorAt i = SensorPort.reset (s.sensorAt i).driveA (s.sensorAt i).driveB :=
      Six.get_map _ _ _
    exact ⟨fun i => port i ▸ SensorPort.reset_sits _ _, fun i => .inr ⟨by cases i <;> rfl, nofun⟩⟩

/-- Settles O58: every step is a chain of acts, and every act keeps sensor ports, controllers and channels fitting. -/
theorem stepKeepsSensorPorts : Obligations.StepKeepsSensorPorts := by
  intro s t h fits
  exact (sensorsSit_iff t).mp (step_keeps (I := State.SensorsSit) Act.sensorsSit (fun _ k => k.congr rfl rfl) h ((sensorsSit_iff s).mpr fits))

end
end Sys2Proof.Machine
end

-- ==== Sys2Proof/Proofs/LinesKept.lean ====

section
/-! The limits of FIFOs, queues and counts of the two lines, and K40_READY low at the fills that deassert it, kept by every step (R132,
R133, R138, R145 to R156, R161). -/

namespace Sys2Proof.Machine

/-- What the rules keep true of the lines, the link, the host unit and the attention table, by name. -/
structure State.LinesSit (s : State) : Prop where
  hostFifo : s.host.fifo.length ≤ 4
  hostReplies : s.host.replies.length ≤ 4
  tabletFifo : s.tablet.fifo.length ≤ 4
  tabletReplies : s.tablet.replies.length ≤ 5
  tabletSends : s.tablet.tx.isSome = true → s.tablet.replies.length ≤ 4
  relay : s.link.relay.length ≤ 8
  relayBytes : payloadBytes s.link.relay ≤ 1024
  transmit : s.link.transmit.length ≤ 8
  transmitBytes : payloadBytes s.link.transmit ≤ 1024
  overflows : s.link.overflows ≤ 65535
  linkErrors : s.link.checkErrors ≤ 65535
  strikes : s.link.strikes ≤ 255
  hostErrors : s.hostUnit.checkErrors ≤ 65535
  overruns : s.hostUnit.overruns ≤ 65535
  quiet : s.link.quietTimer = none ∨ (s.link.state = .up ∧ 1 ≤ s.link.quietSteps)
  counts : ∀ src, s.attn.count src ≤ 255
  ready : s.readyDrops = true → s.link.k40Ready = false

theorem linesSit_iff (s : State) :
    s.LinesSit ↔ (s.linesFit && s.linkFits && s.attnFits && s.k40ReadyFits) = true := by
  have every : ∀ src, src ∈ Source.all := by
    intro src
    cases src with
    | motor m => cases m <;> decide
    | sensor i => cases i <;> decide
    | _ => decide
  have counts : s.attnFits = true ↔ ∀ src, s.attn.count src ≤ 255 := by
    simp [State.attnFits, every]
  have ready : s.k40ReadyFits = true ↔ (s.readyDrops = true → s.link.k40Ready = false) := by
    unfold State.k40ReadyFits
    cases s.readyDrops <;> simp
  have replies : s.tablet.replies.length ≤ (if s.tablet.tx.isSome = true then 4 else 5) ↔
      s.tablet.replies.length ≤ 5 ∧ (s.tablet.tx.isSome = true → s.tablet.replies.length ≤ 4) := by
    cases s.tablet.tx.isSome <;> simp
    omega
  simp only [Bool.and_eq_true, counts, ready, State.linesFit, State.linkFits, decide_eq_true_eq, replies, Bool.or_eq_true,
    Option.isNone_iff_eq_none, beq_iff_eq]
  exact ⟨fun ⟨a, b, c, d, e, f, g, h, i, j, k, l, m, n, o, p, q⟩ => ⟨⟨⟨⟨⟨⟨a, b⟩, c⟩, d, e⟩, ⟨⟨⟨⟨⟨⟨⟨⟨⟨f, g⟩, h⟩, i⟩, j⟩, k⟩, l⟩, m⟩, n⟩, o⟩⟩, p⟩, q⟩,
    fun ⟨⟨⟨⟨⟨⟨a, b⟩, c⟩, d, e⟩, ⟨⟨⟨⟨⟨⟨⟨⟨⟨f, g⟩, h⟩, i⟩, j⟩, k⟩, l⟩, m⟩, n⟩, o⟩⟩, p⟩, q⟩ => ⟨a, b, c, d, e, f, g, h, i, j, k, l, m, n, o, p, q⟩⟩

/-- Raises keep every count in its width (R161). -/
theorem Attention.Raised.counts {a b : Attention} (h : a.Raised b) (k : ∀ src, a.count src ≤ 255) : ∀ src, b.count src ≤ 255 := by
  intro src
  rcases h src with e | e
  · rw [e]; exact k src
  · exact e

section
variable {s : State}

theorem State.LinesSit.congr {t : State} (h : s.LinesSit) (host : t.host = s.host) (tablet : t.tablet = s.tablet)
    (hostUnit : t.hostUnit = s.hostUnit) (link : t.link = s.link) (attn : s.attn.Raised t.attn) : t.LinesSit := by
  obtain ⟨_, _, _, _, _, _, t_host, t_tablet, t_hostUnit, t_link, t_attn, _, _, _, _, _, _⟩ := t
  dsimp only at host tablet hostUnit link attn
  subst host tablet hostUnit link
  exact { h with counts := attn.counts h.counts }

theorem State.LinesSit.raise (h : s.LinesSit) (src : Source) : (s.raise src).LinesSit :=
  h.congr rfl rfl rfl rfl (.raise _ _)

theorem State.LinesSit.raiseIf (h : s.LinesSit) (b : Bool) (src : Source) : (s.raiseIf b src).LinesSit := by
  cases b
  · exact h
  · exact h.raise src

/-- K40_READY evaluated is low at the fills that deassert it (R147). -/
theorem evalReady_ready (s : State) : s.evalReady.readyDrops = true → s.evalReady.link.k40Ready = false := by
  have same : s.evalReady.readyDrops = s.readyDrops := by rw [evalReady_eq]; rfl
  rw [same]
  intro drops
  unfold State.evalReady
  rw [if_pos drops]
  rfl

/-- After an evaluation of K40_READY everything sits that sat before, whatever K40_READY was (R147). -/
theorem evalReady_sits (h : ({ s with link := { s.link with k40Ready := false } } : State).LinesSit) : s.evalReady.LinesSit := by
  have ready := evalReady_ready s
  rw [evalReady_eq] at ready ⊢
  exact { h with ready := ready }

/-- What K40_READY is not evaluated at. -/
theorem State.LinesSit.unready (h : s.LinesSit) : ({ s with link := { s.link with k40Ready := false } } : State).LinesSit :=
  { h with ready := fun _ => rfl }

/-- A payload queue that lost its head, or found room for one more, keeps its limits (R149, R151). -/
theorem payloadBytes_tail {payload : List Byte} {rest q : List (List Byte)} (h : q = payload :: rest) (bytes : payloadBytes q ≤ 1024) :
    payloadBytes rest ≤ 1024 := by
  rw [h] at bytes
  simp only [payloadBytes, List.map_cons, List.sum_cons] at bytes ⊢
  omega

theorem payloadFits_append {q : List (List Byte)} {payload : List Byte} (h : payloadFits q payload = true) :
    (q ++ [payload]).length ≤ 8 ∧ payloadBytes (q ++ [payload]) ≤ 1024 := by
  simp only [payloadFits, Bool.and_eq_true, decide_eq_true_eq] at h
  simp only [payloadBytes, List.length_append, List.map_append, List.sum_append, List.length_singleton, List.map_cons, List.map_nil,
    List.sum_cons, List.sum_nil] at h ⊢
  omega

/-! ### Requests, replies and frames -/

theorem withFifo_sits {l : LineId} {body : List Byte} {rest : List (List Byte)} (hf : (s.lineAt l).fifo = body :: rest)
    (h : s.LinesSit) : (s.withFifo l rest).LinesSit := by
  cases l with
  | host =>
    have := h.hostFifo
    rw [show s.host.fifo = _ from hf, List.length_cons] at this
    exact { h with hostFifo := (Nat.le_succ _).trans this }
  | tablet =>
    have few := h.tabletFifo
    rw [show s.tablet.fifo = _ from hf, List.length_cons] at few
    rw [← fifoChanged_eq]
    exact evalReady_sits { h.unready with tabletFifo := (Nat.le_succ _).trans few, ready := fun _ => rfl }

theorem addReply_sits {l : LineId} (body : List Byte) (room : (s.lineAt l).replies.length < 4) (h : s.LinesSit) :
    (s.addReply l body).LinesSit := by
  have one (q : List (List Byte)) : (q ++ [body]).length = q.length + 1 := List.length_append
  cases l with
  | host => exact { h with hostReplies := (one _).trans_le room }
  | tablet => exact { h with tabletReplies := (one _).trans_le (Nat.le_succ_of_le room), tabletSends := fun _ => (one _).trans_le room }

/-- A frame begun where none is in transmission (R136). -/
theorem startTx_sits {l : LineId} {cls : FrameClass} (body : List Byte) (few : s.tablet.replies.length ≤ 4) (h : s.LinesSit) :
    (s.startTx l cls body).LinesSit := by
  cases l with
  | host => exact { h with }
  | tablet => exact { h with tabletSends := fun _ => few }

theorem setMarker_sits (l : LineId) (t : Turn) (h : s.LinesSit) : (s.setMarker l t).LinesSit := by
  cases l <;> exact { h with }

theorem beginReply_sits (l : LineId) (h : s.LinesSit) : (s.beginReply l).LinesSit := by
  unfold State.beginReply
  split
  · next body rest hr =>
    cases l with
    | host =>
      have := h.hostReplies
      rw [show s.host.replies = _ from hr, List.length_cons] at this
      exact { h with hostReplies := (Nat.le_succ _).trans this }
    | tablet =>
      have := h.tabletReplies
      rw [show s.tablet.replies = _ from hr, List.length_cons] at this
      exact { h with tabletReplies := (Nat.le_succ _).trans this, tabletSends := fun _ => Nat.le_of_succ_le_succ this }
  · exact h

theorem beginRelay_sits {l : LineId} (empty : (s.lineAt l).replies = []) (h : s.LinesSit) : (s.beginRelay l).LinesSit := by
  unfold State.beginRelay
  split
  · next payload rest hq =>
    have few := h.relay
    rw [show s.link.relay = _ from hq, List.length_cons] at few
    have bytes := payloadBytes_tail hq h.relayBytes
    refine setMarker_sits _ _ ?_
    have evaluated : (s.modLink fun k => { k with relay := rest }).evalReady.LinesSit :=
      evalReady_sits { h.unready with relay := (Nat.le_succ _).trans few, relayBytes := bytes, ready := fun _ => rfl }
    exact { evaluated with }
  · next payload rest hq =>
    have few := h.transmit
    rw [show s.link.transmit = _ from hq, List.length_cons] at few
    have bytes := payloadBytes_tail hq h.transmitBytes
    have none : s.tablet.replies = [] := empty
    exact { h with
      transmit := (Nat.le_succ _).trans few, transmitBytes := bytes
      tabletSends := fun _ => by show s.tablet.replies.length ≤ 4; rw [none]; exact Nat.zero_le _ }
  · exact h

/-- A raise and a change of the link commute. -/
theorem raiseIf_modLink (s : State) (b : Bool) (src : Source) (f : Link → Link) :
    (s.raiseIf b src).modLink f = (s.modLink f).raiseIf b src := by
  cases b <;> rfl

theorem setLinkState_sits {x : LinkState} (h : s.LinesSit) (quiet : s.link.quietTimer = none ∨ (x = .up ∧ 1 ≤ s.link.quietSteps)) :
    (s.setLinkState x).LinesSit :=
  State.LinesSit.raiseIf (s := s.modLink fun k => { k with state := x }) { h with quiet := quiet } _ _

theorem startQuiet_fits (k : Link) (clock : Nat) :
    (k.startQuiet clock).quietTimer = none ∨ ((k.startQuiet clock).state = .up ∧ 1 ≤ (k.startQuiet clock).quietSteps) := by
  unfold Link.startQuiet
  dsimp only
  split
  · next up =>
    simp only [Bool.and_eq_true, decide_eq_true_eq] at up
    exact .inr up
  · exact .inl rfl

theorem enterFifo_sits (l : LineId) (body : List Byte) (h : s.LinesSit) : (s.enterFifo l body).LinesSit := by
  unfold State.enterFifo
  split
  · next room =>
    have one (q : List (List Byte)) : (q ++ [body]).length = q.length + 1 := List.length_append
    cases l with
    | host => exact { h with hostFifo := (one _).trans_le room }
    | tablet => exact evalReady_sits { h.unready with tabletFifo := (one _).trans_le room, ready := fun _ => rfl }
  · cases l with
    | host =>
      exact State.LinesSit.raiseIf (s := s.modHostUnit fun u => { u with overruns := satAdd 65535 s.hostUnit.overruns 1 })
        { h with overruns := Nat.min_le_left _ _ } _ _
    | tablet =>
      exact State.LinesSit.raiseIf (s := s.modLink fun k => { k with overflows := satAdd 65535 s.link.overflows 1 })
        { h with overflows := Nat.min_le_left _ _ } _ _

theorem linkFrame_sits (h : s.LinesSit) : s.linkFrame.LinesSit := by
  have up : (s.setLinkState .up).LinesSit := setLinkState_sits h (h.quiet.imp_right fun q => ⟨rfl, q.2⟩)
  exact { up with strikes := Nat.zero_le _, quiet := startQuiet_fits _ _ }

theorem frameArrives_sits (l : LineId) (body : List Byte) (h : s.LinesSit) : (s.frameArrives l body).LinesSit := by
  cases l with
  | host => exact enterFifo_sits (s := s.watchFrame) .host body { h with }
  | tablet => exact enterFifo_sits .tablet body (linkFrame_sits h)

theorem hunterFailure_sits (l : LineId) (h : s.LinesSit) : (s.hunterFailure l).LinesSit := by
  cases l with
  | host =>
    exact State.LinesSit.raiseIf (s := s.modHostUnit fun u => { u with checkErrors := satAdd 65535 s.hostUnit.checkErrors 1 })
      { h with hostErrors := Nat.min_le_left _ _ } _ _
  | tablet => exact { h with linkErrors := Nat.min_le_left _ _ }

theorem transmissionEnds_sits (l : LineId) (h : s.LinesSit) : (s.transmissionEnds l).LinesSit := by
  have idle : (s.modLine l fun u => { u with tx := none }).LinesSit := by
    cases l with
    | host => exact { h with }
    | tablet => exact { h with tabletSends := nofun }
  unfold State.transmissionEnds
  split
  · dsimp only
    split
    · exact { idle with }
    · exact idle
  · exact h

/-- LINK_RESET: a reply cut off is put back, which may make five (R146, R154). -/
theorem linkReset_sits (h : s.LinesSit) : (s.modLine .tablet LineUnit.linkReset).LinesSit := by
  have unready : (s.modLine .tablet LineUnit.linkReset).readyDrops = true → s.readyDrops = true := by
    simp only [State.readyDrops, Bool.or_eq_true, decide_eq_true_eq, State.modLine_tablet_tablet, LineUnit.linkReset]
    rintro ((few | bytes) | many)
    · exact absurd (of_decide_eq_true few) (Nat.not_succ_le_zero 2)
    · exact .inl (.inr bytes)
    · exact .inr many
  refine { h with tabletFifo := Nat.zero_le _, tabletReplies := ?_, tabletSends := nofun, ready := fun x => h.ready (unready x) }
  show (LineUnit.linkReset s.tablet).replies.length ≤ 5
  unfold LineUnit.linkReset
  dsimp only
  split
  · next f hf =>
    have sends := h.tabletSends (by rw [hf]; rfl)
    split
    · exact Nat.succ_le_succ sends
    · exact h.tabletReplies
  · exact h.tabletReplies

/-- Every act of the lines keeps their limits. -/
theorem LineAct.sits {t : State} (act : LineAct s t) (h : s.LinesSit) : t.LinesSit := by
  cases act with
  | leaves hf => exact withFifo_sits hf h
  | reply body room => exact addReply_sits body room h
  | beginReply => exact beginReply_sits _ h
  | beginRelay _ empty => exact beginRelay_sits empty h
  | arrives l body => exact frameArrives_sits l body h
  | failure l => exact hunterFailure_sits l h
  | holds l held timer => cases l <;> exact { h with }
  | transmissionEnds l => exact transmissionEnds_sits l h
  | radio level => exact { h with }
  | breakEnds => exact { h with }
  | tick => exact { h with }
  | watchExpired =>
    exact State.LinesSit.raise (s := s.modHostUnit fun u => { u with watch := .expired, watchFlag := true }) { h with } _
  | strike =>
    exact State.LinesSit.raise (s := s.modLink fun k => { k with strikes := satAdd 255 k.strikes 1 })
      { h with strikes := Nat.min_le_left _ _ } _
  | quietAgain running =>
    rcases h.quiet with none | up
    · rw [none] at running; cases running
    · exact { h with quiet := .inr up }
  | goesQuiet =>
    rw [State.setLinkState, raiseIf_modLink]
    exact State.LinesSit.raiseIf (s := (s.modLink fun k => { k with state := .quiet }).modLink fun k => { k with quietTimer := none })
      { h with quiet := .inl rfl } _ _
  | resetTaken => exact { h with }
  | setWatch h' =>
    unfold takeSetWatch at h'
    dsimp only at h'
    split at h' <;> cases h' <;> exact { h with }
  | setMask mask => exact { h with counts := fun src => le_of_eq_of_le (by cases src <;> rfl) (h.counts src) }
  | linkSetup h' =>
    simp only [takeLinkSetup, Check.bind_ok, Check.pure_ok, Prod.mk.injEq] at h'
    obtain ⟨_, _, _, _, _, _, _, _, _, _, _, _, _, _, rfl, _⟩ := h'
    split <;> exact { h with strikes := Nat.zero_le _, quiet := startQuiet_fits _ _ }
  | tabletSend h' =>
    simp only [takeTabletSend, Check.bind_ok, need_ok, Check.pure_ok, Prod.mk.injEq] at h'
    obtain ⟨_, room, rfl, _⟩ := h'
    obtain ⟨few, bytes⟩ := payloadFits_append room
    exact { h with transmit := few, transmitBytes := bytes }
  | linkReset h' =>
    simp only [takeLinkReset, Except.ok.injEq, Prod.mk.injEq] at h'
    obtain ⟨rfl, _⟩ := h'
    have cut := linkReset_sits h
    refine evalReady_sits ?_
    show (State.modLink _ fun k => { k with k40Ready := false }).LinesSit
    rw [State.setLinkState, raiseIf_modLink, raiseIf_modLink]
    refine State.LinesSit.raiseIf ?_ _ _
    exact { cut with
      ready := fun _ => rfl
      relay := Nat.zero_le _, relayBytes := Nat.zero_le _, transmit := Nat.zero_le _, transmitBytes := Nat.zero_le _, strikes := Nat.zero_le _
      overflows := Nat.zero_le _, linkErrors := Nat.zero_le _, quiet := .inl rfl }
  | relayUp h' =>
    simp only [takeRelayUp, Check.bind_ok, need_ok, Check.pure_ok, Prod.mk.injEq] at h'
    obtain ⟨_, room, rfl, _⟩ := h'
    obtain ⟨few, bytes⟩ := payloadFits_append room
    exact evalReady_sits { h.unready with relay := few, relayBytes := bytes, ready := fun _ => rfl }
  | flags por low => exact { h with }

theorem clearReported_linesSit (h : s.LinesSit) (src : Source) : (s.clearReported src).LinesSit := by
  cases src with
  | hostLink => exact { h with hostErrors := Nat.zero_le _, overruns := Nat.zero_le _ }
  | _ => exact { h with }

/-- A notice begun clears its entry (R164). -/
theorem beginAttention_linesSit {l : LineId} (empty : (s.lineAt l).replies = []) (h : s.LinesSit) : (s.beginAttention l).LinesSit := by
  unfold State.beginAttention
  split
  · next src _ =>
    have entry : ({ s with attn := s.attn.setCount src 0 } : State).LinesSit := { h with
      counts := fun other => by
        show (s.attn.setCount src 0).count other ≤ 255
        by_cases e : other = src
        · rw [e, Attention.setCount_same]; exact Nat.zero_le _
        · rw [Attention.setCount_ne _ _ e]; exact h.counts other }
    have cleared := clearReported_linesSit entry src
    refine setMarker_sits l _ ?_
    cases l with
    | host => exact { cleared with }
    | tablet =>
      refine startTx_sits _ ?_ cleared
      have none : s.tablet.replies = [] := empty
      have kept : (({ s with attn := s.attn.setCount src 0 } : State).clearReported src).tablet = s.tablet := by cases src <;> rfl
      rw [kept, none]; exact Nat.zero_le _
  · exact h

theorem resetCounts (src : Source) : Attention.reset.count src ≤ 255 := by
  cases src with
  | motor m => cases m <;> decide
  | sensor i => cases i <;> decide
  | _ => decide

theorem Act.linesSit {t : State} (act : Act s t) (h : s.LinesSit) : t.LinesSit := by
  cases act with
  | drive act =>
    exact h.congr (by rw [act.only.rest]) (by rw [act.only.rest]) (by rw [act.only.rest]) (by rw [act.only.rest]) act.only.attn
  | sensor act =>
    exact h.congr (by rw [act.only.rest]) (by rw [act.only.rest]) (by rw [act.only.rest]) (by rw [act.only.rest]) act.only.attn
  | sound act =>
    exact h.congr (by rw [act.only.rest]) (by rw [act.only.rest]) (by rw [act.only.rest]) (by rw [act.only.rest]) act.only.attn
  | supply act =>
    exact h.congr (by rw [act.only.rest]) (by rw [act.only.rest]) (by rw [act.only.rest]) (by rw [act.only.rest]) act.only.attn
  | line act => exact act.sits h
  | notice _ empty => exact beginAttention_linesSit empty h
  | resetBegins => exact { h with tabletSends := nofun, ready := fun _ => rfl }
  | resetEnds cause =>
    exact ⟨Nat.zero_le _, Nat.zero_le _, Nat.zero_le _, Nat.zero_le _, nofun, Nat.zero_le _, Nat.zero_le _, Nat.zero_le _, Nat.zero_le _,
      Nat.zero_le _, Nat.zero_le _, Nat.zero_le _, Nat.zero_le _, Nat.zero_le _, .inl rfl, resetCounts, fun x => Bool.noConfusion x⟩

/-- Settles O59: every step is a chain of acts, and every act keeps the limits of the lines. -/
theorem stepKeepsLines : Obligations.StepKeepsLines := by
  intro s t h fits
  exact (linesSit_iff t).mp (step_keeps (I := State.LinesSit) Act.linesSit (fun _ k => { k with }) h ((linesSit_iff s).mpr fits))

end
end Sys2Proof.Machine
end

-- ==== Sys2Proof/Proofs/StepsAndResets.lean ====

section
/-! Steps and resets: a step runs the front command, every command completes, how resets begin, hold and end, and what the machine
holds after one (R142, R143). -/

namespace Sys2Proof.Machine

/-! ### Steps -/

/-- Settles O1: a step takes its command from the front of the queue. -/
theorem stepRunsFrontCommand : Obligations.StepRunsFrontCommand := by
  refine ⟨fun c rest s h => ?_, fun s h => ?_⟩
  · unfold step; rw [h]
  · unfold step; rw [h]

theorem beginAttention_pending (s : State) (l : LineId) : (s.beginAttention l).pending = s.pending := by
  unfold State.beginAttention
  split
  · next src _ =>
    rw [(onlyLines_notice _ l _).rest]
    exact (sameLines_clearReported _ src).pending
  · rfl

/-- No act touches the waiting commands (log entry 16). -/
theorem Act.pending {s t : State} (act : Act s t) : t.pending = s.pending := by
  cases act with
  | drive act => rw [act.only.rest]
  | sensor act => rw [act.only.rest]
  | sound act => rw [act.only.rest]
  | supply act => rw [act.only.rest]
  | line act => rw [act.only.rest]
  | notice => exact beginAttention_pending s _
  | resetBegins | resetEnds => rfl

/-- Settles O2: every arm answers a next state, reached by acts that leave the queue of commands alone. -/
theorem everyCommandCompletes : Obligations.EveryCommandCompletes := by
  intro c s
  have next : ∃ t, exec c s = .next t := by cases c <;> exact ⟨_, rfl⟩
  obtain ⟨t, ht⟩ := next
  exact ⟨t, ht, Acts.keep (I := fun u => u.pending = s.pending) (fun act k => act.pending.trans k) (exec_acts ht) rfl⟩

/-! ### The reset state -/

/-- Settles O5: every block's reset value, read off. -/
theorem resetStateValues : Obligations.ResetStateValues := by
  refine ⟨?_, ?_, by decide, by decide, ?_, by decide, ?_, rfl, by decide, ?_, rfl, rfl, rfl, rfl⟩
  · intro m; cases m <;> decide
  · intro g; 
    have none : State.reset.groups = List.replicate 15 none := rfl
    rw [State.groupMembers, none, List.getElem?_replicate]
    split <;> try split
    all_goals rfl
  · intro i; cases i <;> decide
  · intro l; cases l <;> rfl
  · intro src
    cases src with
    | motor m => cases m <;> decide
    | sensor i => cases i <;> decide
    | _ => decide

/-- Settles O60: the reset state evaluated. -/
theorem resetStateIsSound : Obligations.ResetStateIsSound := by
  refine ⟨?_, by decide, by decide, by decide, by decide, by decide, by decide, ?_, by decide, by decide, by decide, by decide, ?_, ?_⟩
  · intro m; cases m <;> decide
  · intro i; cases i <;> decide
  · decide +kernel
  · decide +kernel

/-! ### Resets -/

/-- The state at a reset's end, with the POWER notice of its cause begun (R143, R56, R160). -/
def State.afterReset (s : State) (bit : Byte) : State := { State.reset with
  motor := s.motor.map fun p => { State.reset.port .i0 with refPair := p.encLevels, encLevels := p.encLevels }
  supply := { State.reset.supply with causes := .clear }
  conv := { State.reset.conv with due := ⟨false, true, Six.all false⟩, inFlight := some ⟨.battery, false⟩ }
  sensor := s.sensor.map fun p => { State.reset.sensorAt .i0 with driveA := p.driveA, driveB := p.driveB }
  link := { State.reset.link with radioReady := s.link.radioReady }
  host := ⟨[], none, [], [], some ⟨.attention, [0x60, 0, 0, 1, bit, 0, 0, 0, 0xE8, 0x03], 1000000⟩, .relay⟩
  attn := { State.reset.attn with power := 0 }
  freeIdx := s.freeIdx
  pending := s.pending }

/-- Where no entry is pending no source waits (R136). -/
theorem waitingSource_none {s : State} (h : ∀ src, s.attn.count src = 0) (l : LineId) : s.waitingSource l = none := by
  refine List.find?_eq_none.mpr fun src _ => ?_
  simp [Attention.isPending, h]

/-- POWER is the first source of all (R160). -/
theorem waitingSource_power {s : State} (pending : s.attn.power ≠ 0) (unmasked : s.attn.mask = 0) : s.waitingSource .host = some .power := by
  have found : (s.attn.isPending .power && !s.attn.masked .power && s.route .power == .host) = true := by
    simp [Attention.isPending, Attention.count, Attention.masked, unmasked, pending, State.route]
  exact List.find?_cons_of_pos found

/-- What is sent first at a reset's end: the POWER notice (R164). -/
def State.noticeBegun (s : State) (cause : PowerCause) : State := (s.resetTo cause).beginAttention .host

theorem resetTo_waits (s : State) (cause : PowerCause) : (s.resetTo cause).waitingSource .host = some .power :=
  waitingSource_power (by decide : Attention.reset.power ≠ 0) rfl

theorem resetTo_noticeBody (s : State) (cause : PowerCause) : (s.resetTo cause).noticeBody .power =
    [0x60, 0, 0, 1, BitVec.ofNat 8 (PowerCauses.clear.set cause).bits, 0, 0, 0, 0xE8, 0x03] := by
  show [0x60, 0] ++ u8 0 ++ u8 1 ++ (u8 (PowerCauses.clear.set cause).bits ++ u8 0 ++ u16 0 ++ u16 1000) = _
  cases cause <;> decide

theorem noticeBegun_eq (s : State) (cause : PowerCause) : s.noticeBegun cause = { s.resetTo cause with
    supply := Supply.reset .clear
    attn := { Attention.reset with power := 0 }
    host := ⟨[], none, [], [], some ⟨.attention,
      [0x60, 0, 0, 1, BitVec.ofNat 8 (PowerCauses.clear.set cause).bits, 0, 0, 0, 0xE8, 0x03], 1000000⟩, .relay⟩ } := by
  rw [State.noticeBegun, State.beginAttention, resetTo_waits, ← resetTo_noticeBody s]
  rfl

theorem noticeBegun_quiet (s : State) (cause : PowerCause) : (s.noticeBegun cause).linesQuiet = true := by
  rw [noticeBegun_eq]
  have none : ∀ src, ({ Attention.reset with power := 0 } : Attention).count src = 0 := by
    intro src
    cases src with
    | motor m => cases m <;> decide
    | sensor i => cases i <;> decide
    | _ => decide
  unfold State.linesQuiet State.canBegin State.choice
  rw [waitingSource_none none, waitingSource_none none]
  simp [State.mayTake, State.mayBegin, State.relayQueue, State.resetTo, State.reset, LineUnit.reset, Link.reset]

theorem serveOnce_resetTo (s : State) (cause : PowerCause) : (s.resetTo cause).serveOnce = s.noticeBegun cause := by
  have host : (s.resetTo cause).beginFrame .host = s.noticeBegun cause := by
    rw [State.beginFrame, if_pos (by rfl : (s.resetTo cause).mayBegin .host = true), State.choice, resetTo_waits]
    rfl
  have quiet := noticeBegun_quiet s cause
  simp only [State.linesQuiet, Bool.and_eq_true, Bool.not_eq_true'] at quiet
  obtain ⟨_, tablet⟩ := quiet
  unfold State.serveOnce
  rw [takeRequest_of_not (by rfl : (s.resetTo cause).mayTake .host = false),
    takeRequest_of_not (by rfl : (s.resetTo cause).mayTake .tablet = false), host, beginFrame_of_not tablet]

/-- At a reset's end the POWER notice of its cause is all that begins, beside the battery conversion. -/
theorem resetTo_settle (s : State) (cause : PowerCause) (h : s.resetnLow = false) :
    (s.resetTo cause).settle = s.afterReset (BitVec.ofNat 8 (PowerCauses.clear.set cause).bits) := by
  have same : (s.resetTo cause).settle = (s.noticeBegun cause).settle := by
    refine settle_of_serveOnce ?_
    rw [serveOnce_resetTo, serveOnce_of_quiet (noticeBegun_quiet s cause)]
  rw [same, State.settle, serve_of_quiet (noticeBegun_quiet s cause), noticeBegun_eq]
  unfold State.resetTo
  rw [h]
  rfl

theorem softResetDue_iff (s : State) : s.softResetDue = true ↔
    s.softReset = some true ∧ s.tablet.replies = [] ∧ ∀ f, s.tablet.tx = some f → f.cls ≠ .reply := by
  unfold State.softResetDue
  cases s.tablet.tx <;> simp [and_assoc]

/-- Settles O6: each reset's end in its own branch, and what happens at once then is the notice and a conversion. -/
theorem resetsEndWithNotice : Obligations.ResetsEndWithNotice := by
  intro s ended
  refine ⟨fun por low => ?_, fun low por => ?_, fun calm soft replies tx => ?_, fun calm notDue => ?_, fun por low => ⟨?_, ?_⟩⟩
  · show Host.Outcome.next s.powerRises = _
    rw [State.powerRises, if_pos por, low, if_neg (by decide), resetTo_settle s _ low]
    rfl
  · show Host.Outcome.next s.pinRises = _
    rw [State.pinRises, if_pos low, por, if_neg (by decide), resetTo_settle _ _ rfl]
    rfl
  · have due : s.softResetDue = true := (softResetDue_iff s).mpr ⟨soft, replies, tx⟩
    have low : s.resetnLow = false := by
      simp only [State.calm, State.inReset, Bool.and_eq_true, Bool.not_eq_true', Bool.or_eq_false_iff] at calm
      exact calm.2.2
    show Host.Outcome.next (s.command State.softResets) = _
    rw [command_calm calm, State.softResets, if_pos due, settle_settle, resetTo_settle s _ low]
    rfl
  · have waits : ¬ s.softResetDue = true := by
      rw [softResetDue_iff]
      rintro ⟨soft, replies, tx⟩
      rcases notDue with h | h | ⟨f, hf, h⟩
      · exact h soft
      · exact h replies
      · exact tx f hf h
    show Host.Outcome.next (s.command State.softResets) = _
    rw [command_calm calm, State.softResets, if_neg waits, settle_of_quiet (by rw [State.calm, Bool.and_eq_true] at calm; exact calm.1)]
  · show Host.Outcome.next s.powerRises = _
    rw [State.powerRises, if_pos por, if_pos low]
  · show Host.Outcome.next s.pinRises = _
    rw [State.pinRises, if_pos low, if_pos por]

/-- Settles O4: what is heard in a reset, the pins in one and outside one, and the beginnings, each by its definition. -/
theorem resetsBeginAndHold : Obligations.ResetsBeginAndHold := by
  intro s
  refine ⟨fun held => ⟨fun c deaf => ?_, fun level => ?_, fun m ch1 ch2 => ?_, fun i level => ?_, fun m => ?_, fun i => ?_,
    ?_, ?_, ?_, ?_⟩, fun free => ?_, rfl, rfl⟩
  · have nothing (effect : State → State) : Host.Outcome.next (s.command effect) = (.next s : Host.Outcome State Fault Refusal) := by
      rw [State.command, if_pos held]
    cases c <;> first | exact nothing _ | cases deaf
  · cases level
    · show Host.Outcome.next (s.commandNoting _ _) = _
      rw [State.commandNoting, if_pos held]; rfl
    · show Host.Outcome.next (s.commandNoting _ _) = _
      rw [State.commandNoting, if_pos held]; rfl
  · show Host.Outcome.next (s.commandNoting _ _) = _
    rw [State.commandNoting, if_pos held]; rfl
  · have noted (pin : PinId) : ∀ effect : State → State, s.commandNoting (·.drivePin i pin level) effect = s.drivePin i pin level := by
      intro effect
      rw [State.commandNoting, if_pos held]
    refine ⟨congrArg _ (noted .a _), congrArg _ (noted .b _), fun us => ⟨congrArg _ (noted .a _), congrArg _ (noted .b _)⟩⟩
  · rw [State.bridge, if_pos held]
  · refine ⟨?_, ?_, fun pin => ?_⟩
    · rw [State.supplyPin, held]; rfl
    · rw [State.pin1Role, if_pos held]
    · rw [State.pinRole, if_pos held]
  · rw [State.hostTx, if_pos held]
  · rw [State.tabTx, if_pos held]
  · rw [State.k40ReadyPin, held]; rfl
  · rw [State.speaker, if_pos held]
  · intro open_ shorted driven sending
    have sent (tx : Option TxFrame) : txOf tx = sending tx := by cases tx <;> rfl
    have bridge (m : Idx6) : s.bridge m = (s.port m).bridge := by rw [State.bridge, free]; rfl
    refine ⟨fun m => ?_, ?_, fun brk => ?_, fun brk => ?_, ?_, ?_⟩
    · have driven' := bridge m
      unfold Port.bridge at driven'
      split
      all_goals next h =>
        rw [h] at driven'
        try split
        all_goals first | exact driven' | (next hm => dsimp only at driven'; rw [hm] at driven'; exact driven')
    · rw [State.hostTx, free, ← sent]; rfl
    · rw [State.tabTx, free, Option.isSome_iff_ne_none.mpr brk]; rfl
    · rw [State.tabTx, free, brk, ← sent]; rfl
    · rw [State.k40ReadyPin, free]; rfl
    · rw [State.speaker, free]; rfl

end Sys2Proof.Machine
end

-- ==== Sys2Proof/Proofs/Hunter.lean ====

section
/-! The receive hunter: what it finds in a stream (R128 to R130), what a received byte then does (R129 to R131, R138, R145), and the other
events of the lines (R131, R143, R148, R154). -/

namespace Sys2Proof.Machine

/-! ### The hunter over a stream -/

/-- The bytes of a frame already found are passed over. -/
theorem scan_skip (n : Nat) (bytes : List Byte) : scan n bytes = scan 0 (bytes.drop n) := by
  induction bytes generalizing n with
  | nil => cases n <;> rfl
  | cons b bytes ih => cases n with
    | zero => rfl
    | succ n => rw [scan, ih]; rfl

theorem scan_dropped {b : Byte} (other : b ≠ 0x5A) (rest : List Byte) : scan 0 (b :: rest) = scan 0 rest := by
  rw [scan.eq_def]; exact if_pos other

theorem scan_badLength {n : Byte} (bad : n.toNat < 2 ∨ 240 < n.toNat) (rest : List Byte) :
    scan 0 (0x5A :: n :: rest) = (.failure :: (scan 0 (n :: rest)).1, (scan 0 (n :: rest)).2) := by
  rw [scan, if_neg (not_not.mpr rfl)]
  dsimp only
  rw [if_pos (by simpa using bad)]

section
variable {n : Byte} {body : List Byte} (low : 2 ≤ n.toNat) (high : n.toNat ≤ 240)
include low high

/-- A frame begun but not whole is held. -/
theorem scan_begun {tail : List Byte} (short : tail.length ≤ n.toNat) : scan 0 (0x5A :: n :: tail) = ([], 0x5A :: n :: tail) := by
  rw [scan, if_neg (not_not.mpr rfl)]
  dsimp only
  rw [if_neg (by simp only [Bool.or_eq_true, decide_eq_true_eq]; omega), if_pos (Nat.lt_succ_of_le short)]

/-- A whole frame is found, or fails its check, by its check byte. -/
theorem scan_whole (len : body.length = n.toNat) (check : Byte) (rest : List Byte) :
    scan 0 (0x5A :: n :: (body ++ check :: rest)) =
      if check = checkByte body then (.valid body :: (scan 0 rest).1, (scan 0 rest).2)
      else (.failure :: (scan 0 (n :: (body ++ check :: rest))).1, (scan 0 (n :: (body ++ check :: rest))).2) := by
  have taken : (body ++ check :: rest).take (n.toNat + 1) = body ++ [check] := by
    rw [← len, List.take_length_add_append]; rfl
  have passed : (n :: (body ++ check :: rest)).drop (n.toNat + 2) = rest := by
    rw [List.drop_succ_cons, ← len, List.drop_length_add_append]; rfl
  have named : BitVec.ofNat 8 body.length = n := by rw [len]; exact BitVec.ofNat_toNat 8 n
  have sums : n + (body ++ [check]).sum = 0 ↔ check = checkByte body := by
    rw [List.sum_append, List.sum_singleton, checkByte, named, eq_neg_iff_add_eq_zero, add_comm check, add_assoc]
  rw [scan, if_neg (not_not.mpr rfl)]
  dsimp only
  rw [if_neg (by simp only [Bool.or_eq_true, decide_eq_true_eq]; omega), if_neg (by simp only [List.length_append, List.length_cons]; omega),
    taken, scan_skip (n.toNat + 2), passed, List.take_left' len]
  by_cases good : check = checkByte body
  · rw [if_pos (sums.mpr good), if_pos good]
  · rw [if_neg (fun h => good (sums.mp h)), if_neg good]

end

/-- A stream read in two pieces is read whole: what the first leaves held stands before the second. -/
theorem scan_append (xs ys : List Byte) :
    scan 0 (xs ++ ys) = ((scan 0 xs).1 ++ (scan 0 ((scan 0 xs).2 ++ ys)).1, (scan 0 ((scan 0 xs).2 ++ ys)).2) := by
  induction h : xs.length using Nat.strong_induction_on generalizing xs with
  | _ len ih =>
    subst h
    match xs with
    | [] => rfl
    | b :: xs =>
      by_cases start : b = 0x5A
      · subst start
        match xs with
        | [] => rfl
        | n :: tail =>
          have next := ih _ (Nat.lt_succ_self _) (n :: tail) rfl
          by_cases ok : 2 ≤ n.toNat ∧ n.toNat ≤ 240
          · obtain ⟨low, high⟩ := ok
            by_cases short : tail.length ≤ n.toNat
            · rw [scan_begun low high short]; rfl
            · have whole : n.toNat < tail.length := Nat.lt_of_not_le short
              have split : tail = tail.take n.toNat ++ tail[n.toNat] :: tail.drop (n.toNat + 1) := by
                rw [← List.drop_eq_getElem_cons whole, List.take_append_drop]
              generalize body_eq : tail.take n.toNat = body at split
              generalize tail[n.toNat] = check at split
              generalize tail.drop (n.toNat + 1) = rest at split
              have bodyLen : body.length = n.toNat := by rw [← body_eq, List.length_take]; omega
              subst split
              have later := ih rest.length (by simp only [List.length_cons, List.length_append]; omega) rest rfl
              have e : 0x5A :: n :: (body ++ check :: rest) ++ ys = 0x5A :: n :: (body ++ check :: (rest ++ ys)) := by simp
              have e' : n :: (body ++ check :: rest) ++ ys = n :: (body ++ check :: (rest ++ ys)) := by simp
              rw [e, scan_whole low high bodyLen, scan_whole low high bodyLen]
              by_cases good : check = checkByte body
              · rw [if_pos good, if_pos good, later]; rfl
              · rw [if_neg good, if_neg good, ← e', next]; rfl
          · have bad : n.toNat < 2 ∨ 240 < n.toNat := by omega
            rw [List.cons_append, List.cons_append, scan_badLength bad, scan_badLength bad, ← List.cons_append, next]; rfl
      · rw [List.cons_append, scan_dropped start, scan_dropped start]
        exact ih _ (Nat.lt_succ_self _) xs rfl

theorem scan_frameOf {body : List Byte} (low : 2 ≤ body.length) (high : body.length ≤ 240) (rest : List Byte) :
    scan 0 (frameOf body ++ rest) = (.valid body :: (scan 0 rest).1, (scan 0 rest).2) := by
  have len : body.length = (BitVec.ofNat 8 body.length : Byte).toNat := by
    rw [BitVec.toNat_ofNat, Nat.mod_eq_of_lt (by omega)]
  have e : frameOf body ++ rest = 0x5A :: BitVec.ofNat 8 body.length :: (body ++ checkByte body :: rest) := by simp [frameOf]
  rw [e, scan_whole (len ▸ low) (len ▸ high) len, if_pos rfl]

/-- Settles O8: the hunter's equations, one for each thing it can meet. -/
theorem hunterFindsFrames : Obligations.HunterFindsFrames := by
  refine ⟨fun bytes b => scan_append bytes [b], fun b rest other => scan_dropped other rest,
    fun body rest low high => scan_frameOf low high rest, fun n check body rest len low high wrong => ?_,
    fun n rest bad => scan_badLength bad rest⟩
  intro after
  rw [scan_whole low high len, if_neg wrong]

/-! ### Requests written and read back -/

/-- A request's body is its kind, its tag and at most 238 bytes of parameters (R128, R169). -/
theorem params_length {r : Request} (h : r.wf = true) : r.params.length ≤ 238 := by
  cases r <;> simp only [Request.wf, Bool.and_eq_true, decide_eq_true_eq, beq_iff_eq] at h <;>
    simp [Request.params, le16, le32, wrPortConfig, wrMove, wrClip, wrSensorSetup]
  all_goals omega

/-- Settles O7: the body's length from its parameters, the decoder's law, and the hunter's for a frame. -/
theorem requestsReadBackAsWritten : Obligations.RequestsReadBackAsWritten := by
  intro tag r wf body
  have len : body.length = r.params.length + 2 := rfl
  have high : body.length ≤ 240 := by have := params_length wf; omega
  refine ⟨by omega, high, rfl, decode_body tag r wf, ?_⟩
  have found := scan_frameOf (body := body) (by omega) high []
  rw [List.append_nil] at found
  exact found

end Sys2Proof.Machine
end

-- ==== Sys2Proof/Proofs/LineEvents.lean ====

section
/-! What the events of the two lines do (R129 to R133, R138, R143, R145, R148, R154): bytes hunted, frames that wait or are discarded,
timeouts, and levels. -/

namespace Sys2Proof.Machine

/-! ### Bytes (R129 to R131) -/

/-- Bytes held, with the inter-byte timeout (R129, R131). -/
def State.holding (s : State) (l : LineId) (held : List Byte) (timer : Timer) : State :=
  s.modLine l fun u => { u with held := held, rxTimer := timer }

/-- What a received byte does: what the hunter finds acts, and what it has begun is held. -/
theorem byteReceived_acts {s : State} (h : s.calm = true) (l : LineId) (b : Byte) {found : List Found} {held : List Byte}
    (hunted : scan 0 ((s.lineAt l).held ++ [b]) = (found, held)) :
    exec (.byteReceived l b) s =
      .next (found.foldl (State.foundActs l) (s.holding l held (if held = [] then none else some s.clock))) := by
  show Host.Outcome.next (s.command fun t => t.byteArrives l b) = _
  rw [byteArrives_acts h, hunted]
  cases held <;> rfl

theorem scan_noStart {bytes : List Byte} (none : ∀ x ∈ bytes, x ≠ 0x5A) : scan 0 bytes = ([], []) := by
  induction bytes with
  | nil => rfl
  | cons b bytes ih =>
    rw [scan_dropped (none b (List.mem_cons_self ..))]
    exact ih fun x hx => none x (List.mem_cons_of_mem _ hx)

/-- A raise made where a count changed (R138, R161). -/
theorem raiseIf_ne (s : State) (n m : Nat) (src : Source) :
    s.raiseIf (n != m) src = { s with attn := if m = n then s.attn else s.attn.setCount src (min 255 (s.attn.count src + 1)) } := by
  by_cases h : m = n
  · rw [if_pos h, h, State.raiseIf, bne_self_eq_false]; rfl
  · rw [if_neg h, State.raiseIf, if_pos (bne_iff_ne.mpr (Ne.symm h))]; rfl

theorem hunterFailure_host (s : State) : s.hunterFailure .host = { s with
    hostUnit := { s.hostUnit with checkErrors := min 65535 (s.hostUnit.checkErrors + 1) }
    attn := if s.hostUnit.checkErrors = min 65535 (s.hostUnit.checkErrors + 1) then s.attn
      else { s.attn with hostLink := min 255 (s.attn.hostLink + 1) } } :=
  raiseIf_ne (s.modHostUnit fun h => { h with checkErrors := satAdd 65535 s.hostUnit.checkErrors 1 }) _ _ .hostLink

/-- Settles O9: each clause is what the hunter finds in the bytes held and the new one. -/
theorem bytesAreHunted : Obligations.BytesAreHunted := by
  refine ⟨fun s => ⟨hunterFailure_host s, rfl⟩, fun l b s calm => ?_⟩
  intro holding kept acts
  have acts_eq (found : List Found) (t : State) : found.foldl (State.foundActs l) t = acts found t := by
    induction found generalizing t with
    | nil => rfl
    | cons f found ih => cases f <;> exact ih _
  refine ⟨fun held other => ?_, fun held start => ?_, fun held low high => ?_, fun held bad => ?_, fun n body held low high => ?_, ?_⟩
  · have hunted : scan 0 ((s.lineAt l).held ++ [b]) = ([], []) := by rw [held, List.nil_append, scan_dropped other]; rfl
    exact byteReceived_acts calm l b hunted
  · have hunted : scan 0 ((s.lineAt l).held ++ [b]) = ([], [0x5A]) := by rw [held, start]; rfl
    exact byteReceived_acts calm l b hunted
  · have hunted : scan 0 ((s.lineAt l).held ++ [b]) = ([], [0x5A, b]) := by
      rw [held]; exact scan_begun low high (Nat.zero_le _)
    exact byteReceived_acts calm l b hunted
  · have other : b ≠ 0x5A := by rintro rfl; revert bad; decide
    have hunted : scan 0 ((s.lineAt l).held ++ [b]) = ([.failure], []) := by
      rw [held]; exact (scan_badLength bad []).trans (by rw [scan_dropped other]; rfl)
    exact byteReceived_acts calm l b hunted
  · have whole_eq (whole : body.length = n.toNat) := scan_whole low high whole b []
    refine ⟨fun short => ?_, fun whole good => ?_, fun whole wrong none => ?_, fun whole wrong => ?_⟩
    · have hunted : scan 0 ((s.lineAt l).held ++ [b]) = ([], 0x5A :: n :: body ++ [b]) := by
        rw [held]; exact scan_begun low high (List.length_append.trans_le short)
      exact byteReceived_acts calm l b hunted
    · have hunted : scan 0 ((s.lineAt l).held ++ [b]) = ([.valid body], []) := by
        rw [held]; exact (whole_eq whole).trans (if_pos good)
      exact byteReceived_acts calm l b hunted
    · have hunted : scan 0 ((s.lineAt l).held ++ [b]) = ([.failure], []) := by
        rw [held]; exact (whole_eq whole).trans ((if_neg wrong).trans (by rw [scan_noStart (bytes := n :: (body ++ [b])) none]))
      exact byteReceived_acts calm l b hunted
    · intro again
      have hunted : scan 0 ((s.lineAt l).held ++ [b]) = (.failure :: again.1, again.2) := by
        rw [held]; exact (whole_eq whole).trans (if_neg wrong)
      rw [← acts_eq]
      exact byteReceived_acts calm l b hunted
  · intro all
    rw [← acts_eq]
    exact byteReceived_acts calm l b rfl

/-! ### Frames (R132, R140, R145 to R147) -/

/-- What the arrival of a frame leaves: it waits at the tail of the request FIFO, or is discarded and counted (R132, R138, R146). -/
theorem enterFifo_full {s : State} {l : LineId} (full : ¬ (s.lineAt l).fifo.length < 4) (body : List Byte) :
    s.enterFifo l body = s.fifoOverrun l := by
  rw [State.enterFifo, if_neg full]

theorem enterFifo_host (s : State) (body : List Byte) : s.enterFifo .host body =
    if s.host.fifo.length < 4 then s.withFifo .host (s.host.fifo ++ [body])
    else { s with
      hostUnit := { s.hostUnit with overruns := min 65535 (s.hostUnit.overruns + 1) }
      attn := if s.hostUnit.overruns = min 65535 (s.hostUnit.overruns + 1) then s.attn
        else { s.attn with hostLink := min 255 (s.attn.hostLink + 1) } } := by
  by_cases room : s.host.fifo.length < 4
  · rw [if_pos room]; exact enterFifo_of_room (l := .host) room body
  · rw [if_neg room, enterFifo_full (l := .host) room]
    exact raiseIf_ne (s.modHostUnit fun h => { h with overruns := satAdd 65535 s.hostUnit.overruns 1 }) _ _ .hostLink

theorem enterFifo_tablet (s : State) (body : List Byte) : s.enterFifo .tablet body =
    if s.tablet.fifo.length < 4 then s.withFifo .tablet (s.tablet.fifo ++ [body])
    else { s with
      link := { s.link with overflows := min 65535 (s.link.overflows + 1) }
      attn := if s.link.overflows = min 65535 (s.link.overflows + 1) then s.attn
        else { s.attn with tablet := min 255 (s.attn.tablet + 1) } } := by
  by_cases room : s.tablet.fifo.length < 4
  · rw [if_pos room]; exact enterFifo_of_room (l := .tablet) room body
  · rw [if_neg room, enterFifo_full (l := .tablet) room]
    exact raiseIf_ne (s.modLink fun k => { k with overflows := satAdd 65535 s.link.overflows 1 }) _ _ .tablet

/-- Settles O10: a request command, an unknown kind and a frame's last byte are all the arrival of a frame. -/
theorem framesWaitOrAreDiscarded : Obligations.FramesWaitOrAreDiscarded := by
  intro l body s calm held waits
  have arrives (t : State) (h : t.calm = true) : t.requestCommand l body = waits t := by
    rw [State.requestCommand, command_calm h]
    cases l with
    | host =>
      have watched : t.watchFrame = _ := arrived_host t
      exact congrArg State.settle ((congrArg (State.enterFifo · .host body) watched).trans (enterFifo_host _ body))
    | tablet => exact congrArg State.settle ((congrArg (State.enterFifo · .tablet body) (linkFrame_eq t)).trans (enterFifo_tablet _ body))
  refine ⟨fun c tag r request wrote => ?_, fun kind tag params wrote => ?_, fun n named low high bytes => ?_⟩
  · rw [exec_request request, wrote, arrives s calm]
  · rw [← arrives s calm, ← wrote]; rfl
  · have hunted : scan 0 ((s.lineAt l).held ++ [checkByte body]) = ([.valid body], []) := by
      rw [bytes]
      exact (scan_whole (by omega) (by omega) named.symm _ []).trans (if_pos rfl)
    rw [byteReceived_acts calm l _ hunted, ← arrives _ (holding_calm calm l _ _)]
    rfl

/-! ### The other events (R131, R143, R148, R154) -/

/-- A calm state has settled. -/
theorem settle_of_calm {s : State} (calm : s.calm = true) : s.settle = s := by
  rw [State.calm, Bool.and_eq_true] at calm
  exact settle_of_quiet calm.1

/-- RADIO_READY low only holds the tablet arbiter back (R148). -/
theorem radioFalls_calm {s : State} (calm : s.calm = true) : (s.setRadio false).calm = true := by
  obtain ⟨take, begins, conv, reset⟩ := calm_parts calm
  have tablet : (s.setRadio false).canBegin .tablet = false := by
    simp [State.canBegin, State.mayBegin, State.setRadio]
  simp only [State.calm, State.isQuiet, State.linesQuiet, Bool.and_eq_true, Bool.not_eq_true']
  exact ⟨⟨⟨⟨⟨take .host, take .tablet⟩, begins .host⟩, tablet⟩, conv⟩, reset⟩

/-- Settles O11: each event's effect on a calm state, settled. -/
theorem lineEventsAct : Obligations.LineEventsAct := by
  intro l s calm
  have free := (calm_parts calm).2.2.2
  refine ⟨fun runs => ?_, fun stopped => ?_, ?_, ?_, ?_, ?_, ?_⟩
  · show Host.Outcome.next (s.command fun t => t.byteTimeout l) = _
    rw [command_calm calm, State.byteTimeout, if_pos (Option.isSome_iff_ne_none.mpr runs)]
    exact congrArg _ (settle_of_calm (holding_calm calm l [] none))
  · show Host.Outcome.next (s.command fun t => t.byteTimeout l) = _
    rw [command_calm calm, State.byteTimeout, stopped]
    exact congrArg _ (settle_of_calm calm)
  · show Host.Outcome.next (s.commandNoting _ _) = _
    rw [State.commandNoting, free, if_neg (by decide), command_calm calm]
    rfl
  · show Host.Outcome.next (s.commandNoting _ _) = _
    rw [State.commandNoting, free, if_neg (by decide), command_calm calm]
    exact congrArg _ (settle_of_calm (radioFalls_calm calm))
  · show Host.Outcome.next (s.command State.breakEnds) = _
    rw [command_calm calm]
    rfl
  · show Host.Outcome.next (s.command State.tick) = _
    rw [command_calm calm]
    exact congrArg _ (settle_of_calm (s := s.tick) calm)
  · exact BitVec.ofNat_add s.clock 1

end Sys2Proof.Machine
end

-- ==== Sys2Proof/Proofs/FramesBegun.lean ====

section
/-! The transmit arbiters: what beginning a frame changes and leaves alone, one beginning or taking at a time, and what the end of a
transmission chooses (R133, R136, R137, R147, R148, R150, R151, R160, R163 to R165). -/

namespace Sys2Proof.Machine

/-! ### What beginning a frame may change -/

/-- What a line's arbiter may do to its own line (R136, R137). -/
def LineUnit.Sends (u v : LineUnit) : Prop := ∃ replies tx marker, v = { u with replies := replies, tx := tx, marker := marker }

theorem LineUnit.Sends.trans {u v w : LineUnit} (h : u.Sends v) (k : v.Sends w) : u.Sends w := by
  obtain ⟨_, _, _, rfl⟩ := h
  obtain ⟨_, _, _, rfl⟩ := k
  exact ⟨_, _, _, rfl⟩

/-- What beginning frames has made of a state, the converter not yet put to work. -/
def State.Begun (s t : State) : Prop := t.conv = s.conv ∧ Sends s (t.modConv Converter.begin)

theorem State.Begun.refl (s : State) : s.Begun s :=
  ⟨rfl, {
    lines := fun _ => ⟨_, _, _, rfl⟩, ports := fun _ => .inl rfl, sound := .inl rfl, sensors := fun _ => .inl rfl, supply := .inl rfl
    hostUnit := .inl rfl, link := ⟨_, _, _, rfl, List.suffix_refl _, List.suffix_refl _⟩, counts := fun _ => .inl rfl, mask := rfl
    groups := rfl, conv := rfl, clock := rfl, softReset := rfl, por := rfl, pin := rfl, freeIdx := rfl, pending := rfl }⟩

section
variable {s t : State} (h : s.Begun t)
include h

theorem State.Begun.line (l : LineId) : (s.lineAt l).Sends (t.lineAt l) := h.2.lines l

theorem State.Begun.fifo (l : LineId) : (t.lineAt l).fifo = (s.lineAt l).fifo := by
  obtain ⟨_, _, _, e⟩ := h.line l
  rw [e]

theorem State.Begun.modLine (l : LineId) {f : LineUnit → LineUnit} (sends : ∀ u, LineUnit.Sends u (f u)) : s.Begun (t.modLine l f) := by
  have lines (k : LineId) : (s.lineAt k).Sends ((t.modLine l f).lineAt k) := by
    by_cases e : k = l
    · rw [e, State.modLine_lineAt_same]; exact (h.line l).trans (sends _)
    · rw [State.modLine_lineAt_ne _ _ e]; exact h.line k
  cases l <;> exact ⟨h.1, { h.2 with lines := lines }⟩

theorem State.Begun.startTx (l : LineId) (cls : FrameClass) (body : List Byte) : s.Begun (t.startTx l cls body) :=
  h.modLine l fun _ => ⟨_, _, _, rfl⟩

theorem State.Begun.setMarker (l : LineId) (m : Turn) : s.Begun (t.setMarker l m) := h.modLine l fun _ => ⟨_, _, _, rfl⟩

theorem State.Begun.beginReply (l : LineId) : s.Begun (t.beginReply l) := by
  unfold State.beginReply
  split
  · exact (h.modLine l fun _ => ⟨_, _, _, rfl⟩).startTx l _ _
  · exact h

theorem State.Begun.beginRelay (l : LineId) : s.Begun (t.beginRelay l) := by
  obtain ⟨relay, transmit, ready, link, fewer, fewer'⟩ := h.2.link
  have link' : t.link = _ := link
  unfold State.beginRelay
  split
  · next payload rest hq =>
    have left : rest <:+ s.link.relay := by
      have e : relay = payload :: rest := by rw [← hq]; exact (congrArg Link.relay link').symm
      exact (List.suffix_cons _ _).trans (e ▸ fewer)
    have evaluated : s.Begun (t.modLink fun k => { k with relay := rest }).evalReady := by
      obtain ⟨b, e⟩ := evalReady_form (t.modLink fun k => { k with relay := rest })
      rw [e]
      exact ⟨h.1, { h.2 with
        link := ⟨rest, transmit, b, congrArg (fun k : Link => { k with relay := rest, k40Ready := b }) link', left, fewer'⟩ }⟩
    exact (evaluated.startTx .host _ _).setMarker .host _
  · next payload rest hq =>
    have left : rest <:+ s.link.transmit := by
      have e : transmit = payload :: rest := by rw [← hq]; exact (congrArg Link.transmit link').symm
      exact (List.suffix_cons _ _).trans (e ▸ fewer')
    have taken : s.Begun (t.modLink fun k => { k with transmit := rest }) :=
      ⟨h.1, { h.2 with link := ⟨relay, rest, ready, congrArg (fun k : Link => { k with transmit := rest }) link', fewer, left⟩ }⟩
    exact (taken.startTx .tablet _ _).setMarker .tablet _
  · exact h

/-- A count that is pending now was pending at the start. -/
theorem State.Begun.pending {src : Source} (now : t.attn.count src ≠ 0) : s.attn.count src ≠ 0 := by
  rcases h.2.counts src with e | e
  · rw [← e]; exact now
  · exact absurd e now

/-- The entry of a pending source cleared, and the items that its notice reports (R164, R165). -/
theorem State.Begun.notice {src : Source} (now : t.attn.count src ≠ 0) :
    s.Begun (({ t with attn := t.attn.setCount src 0 } : State).clearReported src) := by
  have before := h.pending now
  have counts (x : Source) : (t.attn.setCount src 0).count x = s.attn.count x ∨ (t.attn.setCount src 0).count x = 0 := by
    by_cases e : x = src
    · rw [e, Attention.setCount_same]; exact .inr rfl
    · rw [Attention.setCount_ne _ _ e]; exact h.2.counts x
  have mask : (t.attn.setCount src 0).mask = s.attn.mask := (Attention.setCount_mask ..).trans h.2.mask
  cases src with
  | power =>
    refine ⟨h.1, { h.2 with counts := counts, mask := mask, supply := .inr ⟨before, ?_⟩ }⟩
    rcases h.2.supply with e | ⟨_, e⟩ <;> exact congrArg (fun u : Supply => { u with causes := .clear }) e
  | hostLink =>
    refine ⟨h.1, { h.2 with counts := counts, mask := mask, hostUnit := .inr ⟨before, ?_⟩ }⟩
    rcases h.2.hostUnit with e | ⟨_, e⟩ <;>
      exact congrArg (fun u : HostUnit => { u with checkErrors := 0, overruns := 0, watchFlag := false }) e
  | motor m =>
    refine ⟨h.1, { h.2 with counts := counts, mask := mask, ports := fun k => ?_ }⟩
    by_cases e : k = m
    · subst e
      refine .inr ⟨before, ?_⟩
      have cleared := State.modPort_port_same ({ t with attn := t.attn.setCount (.motor k) 0 } : State) k fun p =>
        { p with outcomes := [], dropped := 0, discarded := 0 }
      refine cleared.trans ?_
      rcases h.2.ports k with e | ⟨_, e⟩ <;> exact congrArg (fun p : Port => { p with outcomes := [], dropped := 0, discarded := 0 }) e
    · have kept : (State.modPort ({ t with attn := t.attn.setCount (.motor m) 0 } : State) m fun p =>
        { p with outcomes := [], dropped := 0, discarded := 0 }).port k = t.port k := State.modPort_port_ne _ _ e
      exact kept ▸ h.2.ports k
  | sound =>
    refine ⟨h.1, { h.2 with counts := counts, mask := mask, sound := .inr ⟨before, ?_⟩ }⟩
    rcases h.2.sound with e | ⟨_, e⟩ <;>
      exact congrArg (fun u : Sound => { u with outcomes := [], dropped := 0, discarded := 0, underruns := 0, refill := false }) e
  | sensor i =>
    refine ⟨h.1, { h.2 with counts := counts, mask := mask, sensors := fun k => ?_ }⟩
    by_cases e : k = i
    · subst e
      refine .inr ⟨before, ?_⟩
      have cleared := State.modSensor_sensorAt_same ({ t with attn := t.attn.setCount (.sensor k) 0 } : State) k fun p =>
        { p with causes := .clear }
      refine cleared.trans ?_
      rcases h.2.sensors k with e | ⟨_, e⟩ <;> exact congrArg (fun p : SensorPort => { p with causes := .clear }) e
    · have kept : (State.modSensor ({ t with attn := t.attn.setCount (.sensor i) 0 } : State) i fun p =>
        { p with causes := .clear }).sensorAt k = t.sensorAt k := State.modSensor_sensorAt_ne _ _ e
      exact kept ▸ h.2.sensors k
  | tablet => exact ⟨h.1, { h.2 with counts := counts, mask := mask }⟩

end

/-- A source waits only while its entry is pending. -/
theorem waitingSource_pending {s : State} {l : LineId} {src : Source} (h : s.waitingSource l = some src) : s.attn.count src ≠ 0 := by
  have found := List.find?_some h
  simp only [Attention.isPending, Bool.and_eq_true, bne_iff_ne] at found
  exact found.1.1

theorem State.Begun.beginFrame {s t : State} (h : s.Begun t) (l : LineId) : s.Begun (t.beginFrame l) := by
  unfold State.beginFrame
  split
  · split
    · exact h.beginReply l
    · unfold State.beginAttention
      split
      · next src hs => exact ((h.notice (waitingSource_pending hs)).startTx l _ _).setMarker l _
      · exact h
    · exact h.beginRelay l
    · exact h
  · exact h

/-- No request waits that may be taken: none waits, or a soft reset is pending. -/
theorem State.Begun.serve {s t : State} (h : s.Begun t)
    (idle : s.softReset ≠ none ∨ (s.host.fifo = [] ∧ s.tablet.fifo = [])) (n : Nat) : s.Begun (t.serve n) := by
  have noTake {u : State} (k : s.Begun u) (l : LineId) : u.mayTake l = false := by
    unfold State.mayTake
    have soft : u.softReset = s.softReset := k.2.softReset
    rw [k.fifo l, soft]
    rcases idle with waits | ⟨host, tablet⟩
    · cases e : s.softReset with
      | none => exact absurd e waits
      | some _ => simp
    · cases l
      · simp [host]
      · simp [tablet]
  induction n generalizing t with
  | zero => exact h
  | succ n ih =>
    rw [serve_cons]
    refine ih ?_
    unfold State.serveOnce
    rw [takeRequest_of_not (noTake h .host), takeRequest_of_not (noTake h .tablet)]
    exact (h.beginFrame .host).beginFrame .tablet

/-! ### One taking at a time -/

/-- A frame taken whole appends one reply to its line and leaves the line's request FIFO (R133). -/
theorem takeBody_line (s : State) (l : LineId) (body : List Byte) :
    (∃ (status : Status) (data : List Byte), ((s.takeBody l body).lineAt l).replies = (s.lineAt l).replies ++ [replyBody body status data]) ∧
      ((s.takeBody l body).lineAt l).fifo = (s.lineAt l).fifo := by
  have appended (u : State) (x : List Byte) : ((u.addReply l x).lineAt l).replies = (u.lineAt l).replies ++ [x] ∧
      ((u.addReply l x).lineAt l).fifo = (u.lineAt l).fifo := by
    rw [State.addReply, State.modLine_lineAt_same]; exact ⟨rfl, rfl⟩
  unfold State.takeBody
  split
  · next t d h =>
    unfold State.answer at h
    split at h
    · cases h
    · cases h
    · next r _ =>
      simp only [Check.bind_ok, need_ok] at h
      obtain ⟨_, allowed, h⟩ := h
      have fifo : (t.lineAt l).fifo = (s.lineAt l).fifo := by
        cases l with
        | host => exact (take_fifo h).1
        | tablet =>
          have notSetup : ∀ x, r ≠ .linkSetup x := by rintro x rfl; exact absurd allowed (by simp [State.lineAllows, hostOnly])
          have notReset : r ≠ .linkReset := by rintro rfl; exact absurd allowed (by simp [State.lineAllows, hostOnly])
          exact congrArg LineUnit.fifo (sameLines_take h notSetup notReset).tablet
      exact ⟨⟨_, _, (appended t _).1.trans (by rw [take_replies allowed h])⟩, (appended t _).2.trans fifo⟩
  · next e _ => exact ⟨⟨_, _, (appended s _).1⟩, (appended s _).2⟩

/-- The oldest request of a line taken first, where the other line has none to take and this one is full or empty after it (R133). -/
theorem settle_takesOldest {l : LineId} {body : List Byte} {rest : List (List Byte)} {s : State}
    (waits : (s.lineAt l).fifo = body :: rest) (soft : s.softReset = none)
    (last : (s.lineAt l).replies.length = 3 ∨ ((s.lineAt l).replies.length < 3 ∧ rest = []))
    (others : ∀ k, k ≠ l → (s.lineAt k).fifo = [] ∨ 4 ≤ (s.lineAt k).replies.length) :
    s.settle = ((s.withFifo l rest).takeBody l body).settle := by
  have mine : s.mayTake l = true := by
    have room : (s.lineAt l).replies.length < 4 := by omega
    simp [State.mayTake, waits, soft, room]
  have noOther (k : LineId) (ne : k ≠ l) : s.mayTake k = false := by
    rcases others k ne with e | e
    · simp [State.mayTake, e]
    · simp [State.mayTake, Nat.not_lt.mpr e]
  obtain ⟨_, _, line, _⟩ := withFifo_keeps s l rest
  have took := takeRequest_of_mayTake waits mine
  have done : ((s.withFifo l rest).takeBody l body).mayTake l = false := by
    obtain ⟨⟨status, data, replies⟩, fifo⟩ := takeBody_line (s.withFifo l rest) l body
    rw [line] at replies fifo
    simp only [State.mayTake, replies, fifo, List.length_append, List.length_singleton]
    rcases last with full | ⟨_, none⟩
    · simp [full]
    · simp [none]
  refine settle_of_serveOnce ?_
  unfold State.serveOnce
  cases l with
  | host => rw [took, takeRequest_of_not done]
  | tablet =>
    have host : ((s.withFifo .tablet rest).takeBody .tablet body).mayTake .host = false := by
      obtain ⟨fifo, _, replies⟩ := takeBody_fifo (s.withFifo .tablet rest) .tablet body
      have keptFifo : ((s.withFifo .tablet rest).takeBody .tablet body).host.fifo = s.host.fifo := fifo
      have keptReplies : ((s.withFifo .tablet rest).takeBody .tablet body).host.replies = s.host.replies := replies rfl
      rcases others .host (by decide) with e | e
      · simp [State.mayTake, keptFifo, show s.host.fifo = [] from e]
      · simp [State.mayTake, keptReplies, Nat.not_lt.mpr (show 4 ≤ s.host.replies.length from e)]
    rw [takeRequest_of_not (noOther .host (by decide)), took, takeRequest_of_not host, takeRequest_of_not done]

end Sys2Proof.Machine
end

-- ==== Sys2Proof/Proofs/OneBeginning.lean ====

section
/-! One beginning at a time, and what the end of a transmission chooses (R136, R137, R148, R150, R151, R164). -/

namespace Sys2Proof.Machine

/-! ### One beginning at a time -/

/-- A line that can begin nothing is busy or held back, or nothing waits for it (R136, R148). -/
theorem canBegin_eq_false {s : State} {l : LineId} : s.canBegin l = false ↔
    s.mayBegin l = false ∨ ((s.lineAt l).replies = [] ∧ s.waitingSource l = none ∧ s.relayQueue l = []) := by
  have choice : (s.choice l).isSome = false ↔ (s.lineAt l).replies = [] ∧ s.waitingSource l = none ∧ s.relayQueue l = [] := by
    unfold State.choice
    cases (s.lineAt l).replies with
    | cons => simp
    | nil =>
      cases s.waitingSource l <;> cases s.relayQueue l <;> cases (s.lineAt l).marker <;> simp
  rw [State.canBegin, Bool.and_eq_false_iff, choice]

/-- Where no source waits for a line, none does after frames were begun (R164). -/
theorem State.Begun.waitingSource {s t : State} (h : s.Begun t) {l : LineId} (idle : s.waitingSource l = none) :
    t.waitingSource l = none := by
  refine List.find?_eq_none.mpr fun src mem => ?_
  have before := List.find?_eq_none.mp idle src mem
  have owner (m : Idx6) : (t.port m).owner = (s.port m).owner := by
    rcases h.2.ports m with e | ⟨_, e⟩ <;> exact (congrArg Port.owner e).trans rfl
  have soundOwner : t.sound.owner = s.sound.owner := by
    rcases h.2.sound with e | ⟨_, e⟩ <;> exact (congrArg Sound.owner e).trans rfl
  have route : t.route src = s.route src := by
    cases src <;> simp only [State.route, owner, soundOwner]
  have mask : t.attn.mask = s.attn.mask := h.2.mask
  have masked : t.attn.masked src = s.attn.masked src := by rw [Attention.masked, mask]; rfl
  rcases h.2.counts src with e | e
  · have same : t.attn.isPending src = s.attn.isPending src := by rw [Attention.isPending, show t.attn.count src = _ from e]; rfl
    rwa [route, masked, same]
  · have cleared : t.attn.isPending src = false := by rw [Attention.isPending, show t.attn.count src = 0 from e]; rfl
    rw [cleared]; simp

/-- A line that can begin nothing cannot after another line began a frame. -/
theorem State.Begun.canBegin {s t : State} (h : s.Begun t) {l : LineId} (line : t.lineAt l = s.lineAt l) (idle : s.canBegin l = false) :
    t.canBegin l = false := by
  obtain ⟨relay, transmit, ready, link, fewer, fewer'⟩ := h.2.link
  have link' : t.link = _ := link
  rcases canBegin_eq_false.mp idle with busy | ⟨replies, source, queue⟩
  · refine canBegin_eq_false.mpr (.inl ?_)
    rw [← busy]
    unfold State.mayBegin
    rw [line, link']
  · refine canBegin_eq_false.mpr (.inr ⟨by rw [line]; exact replies, h.waitingSource source, ?_⟩)
    cases l with
    | host =>
      have empty : s.link.relay = [] := queue
      rw [State.relayQueue, link']
      exact List.suffix_nil.mp (empty ▸ fewer)
    | tablet =>
      have empty : s.link.transmit = [] := queue
      rw [State.relayQueue, link']
      exact List.suffix_nil.mp (empty ▸ fewer')

theorem startTx_setMarker_canBegin (s : State) (l : LineId) (cls : FrameClass) (body : List Byte) (m : Turn) :
    ((s.startTx l cls body).setMarker l m).canBegin l = false := by
  refine canBegin_eq_false.mpr (.inl ?_)
  cases l <;> rfl

/-- A beginning leaves the other line as it is. -/
theorem beginFrame_lineAt_ne (s : State) {l k : LineId} (ne : k ≠ l) : (s.beginFrame l).lineAt k = s.lineAt k := by
  have attention : (s.beginAttention l).lineAt k = s.lineAt k := by
    unfold State.beginAttention
    split
    · next src _ =>
      rw [State.setMarker, State.startTx, State.modLine_lineAt_ne _ _ ne, State.modLine_lineAt_ne _ _ ne]
      have same := sameLines_clearReported { s with attn := s.attn.setCount src 0 } src
      cases k
      · exact same.host
      · exact same.tablet
    · rfl
  have relay : (s.beginRelay l).lineAt k = s.lineAt k := by
    unfold State.beginRelay
    split
    · rw [State.setMarker, State.startTx, State.modLine_lineAt_ne _ _ ne, State.modLine_lineAt_ne _ _ ne, evalReady_eq]
      cases k <;> rfl
    · rw [State.setMarker, State.startTx, State.modLine_lineAt_ne _ _ ne, State.modLine_lineAt_ne _ _ ne]
      cases k <;> rfl
    · rfl
  have reply : (s.beginReply l).lineAt k = s.lineAt k := by
    unfold State.beginReply
    split
    · rw [State.startTx, State.modLine_lineAt_ne _ _ ne, State.modLine_lineAt_ne _ _ ne]
    · rfl
  unfold State.beginFrame
  split
  · split
    · exact reply
    · exact attention
    · exact relay
    · rfl
  · rfl

/-- Where no request may be taken and only one line can begin a frame, that line's beginning is all that happens on the lines. -/
theorem settle_begins {s : State} (l : LineId) (noTake : ∀ k, s.mayTake k = false) (others : ∀ k, k ≠ l → s.canBegin k = false) :
    s.settle = (s.beginFrame l).settle := by
  have once : s.serveOnce = s.beginFrame l := by
    unfold State.serveOnce
    rw [takeRequest_of_not (noTake .host), takeRequest_of_not (noTake .tablet)]
    cases l with
    | host =>
      have begun := (State.Begun.refl s).beginFrame .host
      exact beginFrame_of_not (begun.canBegin (beginFrame_lineAt_ne s (by decide)) (others .tablet (by decide)))
    | tablet => rw [beginFrame_of_not (others .host (by decide))]
  rw [← once, settle_serveOnce]

/-- Where one line has begun a frame and no request may be taken then, nothing else happens. -/
theorem settle_begun {s : State} {l : LineId} {v : State} (begins : s.beginFrame l = v) (busy : v.canBegin l = false)
    (noTake : ∀ k, v.mayTake k = false) (others : ∀ k, k ≠ l → s.canBegin k = false) (conv : s.conv.isQuiet = true) : v.settle = v := by
  have begun : s.Begun v := begins ▸ (State.Begun.refl s).beginFrame l
  have idle (k : LineId) : v.canBegin k = false := by
    by_cases e : k = l
    · rw [e]; exact busy
    · exact begun.canBegin (begins ▸ beginFrame_lineAt_ne s e) (others k e)
  refine settle_of_quiet ?_
  have quiet : v.conv.isQuiet = true := begun.1 ▸ conv
  simp [State.isQuiet, State.linesQuiet, noTake, idle, quiet]

/-! ### What a free line begins (R136) -/

section
variable {s : State} {l : LineId} (free : s.mayBegin l = true)
include free

theorem beginFrame_reply {body : List Byte} {rest : List (List Byte)} (waits : (s.lineAt l).replies = body :: rest) :
    s.beginFrame l = s.modLine l fun v => { v with replies := rest, tx := some ⟨.reply, body, s.sendRate l⟩ } := by
  have choice : s.choice l = some .reply := by simp [State.choice, waits]
  rw [State.beginFrame, if_pos free, choice]
  unfold State.beginReply
  rw [waits]
  cases l <;> rfl

theorem beginFrame_attention {src : Source} (replies : (s.lineAt l).replies = []) (waits : s.waitingSource l = some src)
    (turn : s.relayQueue l = [] ∨ (s.lineAt l).marker = .attention) :
    s.beginFrame l = ((({ s with attn := s.attn.setCount src 0 } : State).clearReported src).startTx l .attention (s.noticeBody src)).setMarker l
      .relay := by
  have choice : s.choice l = some .attention := by
    rcases turn with empty | mine
    · simp [State.choice, replies, waits, empty]
    · cases h : s.relayQueue l <;> simp [State.choice, replies, waits, mine, h]
  rw [State.beginFrame, if_pos free, choice]
  dsimp only
  rw [State.beginAttention, waits]

theorem beginFrame_relay {payload : List Byte} {rest : List (List Byte)} (replies : (s.lineAt l).replies = [])
    (waits : s.relayQueue l = payload :: rest) (turn : s.waitingSource l = none ∨ (s.lineAt l).marker = .relay) :
    s.beginFrame l = s.beginRelay l := by
  have choice : s.choice l = some .relay := by
    rcases turn with empty | mine
    · simp [State.choice, replies, waits, empty]
    · cases h : s.waitingSource l <;> simp [State.choice, replies, waits, mine, h]
  rw [State.beginFrame, if_pos free, choice]

end

end Sys2Proof.Machine
end

-- ==== Sys2Proof/Proofs/Transmissions.lean ====

section
/-! What happens at once, and what the end of a transmission chooses (R133, R136, R137, R147, R148, R164, R165, R171). -/

namespace Sys2Proof.Machine

/-- The reply kind of a request's kind byte (R134). -/
theorem replyKind_eq (kind : Byte) : replyKind kind = if kind.toNat < 128 then kind + 0x80 else 0xFF := by
  unfold replyKind
  rw [BitVec.msb_eq_decide]
  by_cases h : kind.toNat < 128
  · rw [if_pos h, if_neg (by simpa using h)]
  · rw [if_neg h, if_pos (by simpa using Nat.not_lt.mp h)]

/-- A line whose transmitter is idle and that nothing holds back may begin (R136, R148). -/
theorem mayBegin_of {s : State} {l : LineId} (tx : (s.lineAt l).tx = none)
    (free : l = .tablet → s.link.radioReady = true ∧ s.link.breakTimer = none) : s.mayBegin l = true := by
  cases l with
  | host => rw [State.mayBegin, tx]; rfl
  | tablet =>
    obtain ⟨radio, brk⟩ := free rfl
    rw [State.mayBegin, tx, radio, brk]; rfl

/-- Settles O12: beginnings change what `Sends` says; a taking, and a reply begun, are each the first thing that happens. -/
theorem settlingOnlySends : Obligations.SettlingOnlySends := by
  refine ⟨fun s idle => ((State.Begun.refl s).serve idle _).2, fun l body rest s waits soft last others =>
    settle_takesOldest waits soft last others, fun l body rest s tx free waits noTake others => ?_, fun l kind tag params s => ?_⟩
  · rw [settle_begins l noTake others, beginFrame_reply (mayBegin_of tx free) waits]
    cases l <;> rfl
  · intro body
    obtain ⟨⟨status, data, replies⟩, fifo⟩ := takeBody_line s l body
    refine ⟨⟨status, data, ?_⟩, fifo, fun ready => ⟨fun c r request wrote => ?_, ?_⟩⟩
    · rw [replies, replyBody, replyKind_eq]; rfl
    · rw [exec_request request, wrote, requestCommand_ready ready]
    · show Host.Outcome.next (s.requestCommand l body) = _
      rw [requestCommand_ready ready]

/-! ### The end of a transmission (R137) -/

/-- The state in which the arbiter of a line chooses after a frame of it was sent (R137, R142). -/
def State.sent (s : State) (l : LineId) (f : TxFrame) : State :=
  { s.modLine l fun u => { u with tx := none } with
    softReset := if l = .host ∧ s.softReset ≠ none ∧ f.isResetReply = true then some true else s.softReset }

theorem transmissionEnds_sent {s : State} {l : LineId} {f : TxFrame} (tx : (s.lineAt l).tx = some f) :
    s.transmissionEnds l = s.sent l f := by
  rw [State.transmissionEnds, tx]
  dsimp only
  rw [State.sent]
  by_cases h : l = .host ∧ s.softReset ≠ none ∧ f.isResetReply = true
  · obtain ⟨rfl, soft, reply⟩ := h
    rw [if_pos (by simp [Option.isSome_iff_ne_none.mpr soft, reply]), if_pos ⟨rfl, soft, reply⟩]
  · rw [if_neg h, if_neg]
    · cases l <;> rfl
    · simpa [Option.isSome_iff_ne_none, and_assoc] using h

section
variable (s : State) (l : LineId) (f : TxFrame)

/-- What the end of a transmission leaves as it is. -/
theorem sent_keeps : (s.sent l f).lineAt l = { s.lineAt l with tx := none } ∧ (∀ k, k ≠ l → (s.sent l f).lineAt k = s.lineAt k) ∧
    (s.sent l f).link = s.link ∧ (s.sent l f).attn = s.attn ∧ (s.sent l f).conv = s.conv ∧ (s.sent l f).motor = s.motor ∧
    (s.sent l f).sound = s.sound := by
  cases l
  · exact ⟨rfl, fun k ne => by cases k; exacts [absurd rfl ne, rfl], rfl, rfl, rfl, rfl, rfl⟩
  · exact ⟨rfl, fun k ne => by cases k; exacts [rfl, absurd rfl ne], rfl, rfl, rfl, rfl, rfl⟩

theorem sent_waitingSource (k : LineId) : (s.sent l f).waitingSource k = s.waitingSource k := by cases l <;> rfl
theorem sent_relayQueue (k : LineId) : (s.sent l f).relayQueue k = s.relayQueue k := by cases l <;> cases k <;> rfl
theorem sent_noticeBody (src : Source) : (s.sent l f).noticeBody src = s.noticeBody src := by cases l <;> cases src <;> rfl
theorem sent_softReset : (s.sent l f).softReset = none ↔ s.softReset = none := by
  show (if _ then _ else _) = none ↔ _
  split
  · next h => exact iff_of_false nofun h.2.1
  · exact Iff.rfl

theorem sent_mayTake (k : LineId) : (s.sent l f).mayTake k = s.mayTake k := by
  have soft : (s.sent l f).softReset.isNone = s.softReset.isNone := by
    rw [Bool.eq_iff_iff, Option.isNone_iff_eq_none, Option.isNone_iff_eq_none, sent_softReset]
  obtain ⟨mine, other, _⟩ := sent_keeps s l f
  unfold State.mayTake
  rw [soft]
  by_cases e : k = l
  · rw [e, mine]
  · rw [other k e]

end

section
variable {s : State} {l : LineId} {f : TxFrame} (calm : s.calm = true) (tx : (s.lineAt l).tx = some f)
include calm

/-- Only the line whose frame was sent can begin another. -/
theorem sent_others (k : LineId) (ne : k ≠ l) : (s.sent l f).canBegin k = false := by
  have idle := canBegin_eq_false.mp ((calm_parts calm).2.1 k)
  obtain ⟨_, other, link, _⟩ := sent_keeps s l f
  refine canBegin_eq_false.mpr ?_
  rw [sent_waitingSource, sent_relayQueue, other k ne]
  unfold State.mayBegin at idle ⊢
  rw [other k ne, link]
  exact idle

theorem sent_noTake (k : LineId) : (s.sent l f).mayTake k = false := (sent_mayTake s l f k).trans ((calm_parts calm).1 k)

theorem sent_conv : (s.sent l f).conv.isQuiet = true := by
  rw [(sent_keeps s l f).2.2.2.2.1]; exact (calm_parts calm).2.2.1

include tx

theorem transmissionEnd_begins : exec (.transmissionEnd l) s = .next ((s.sent l f).beginFrame l).settle := by
  show Host.Outcome.next (s.command fun t => t.transmissionEnds l) = _
  rw [command_calm calm, transmissionEnds_sent tx, settle_begins l (sent_noTake calm) (sent_others calm)]

/-- What the end of a transmission begins is all it does, where it leaves no request to take. -/
theorem transmissionEnd_begun {v : State} (begins : (s.sent l f).beginFrame l = v) (busy : v.canBegin l = false)
    (noTake : ∀ k, v.mayTake k = false) : exec (.transmissionEnd l) s = .next v := by
  rw [transmissionEnd_begins calm tx, begins, settle_begun begins busy noTake (sent_others calm) (sent_conv calm)]

/-- A line that can begin nothing idles. -/
theorem transmissionEnd_idles (idle : (s.sent l f).canBegin l = false) : exec (.transmissionEnd l) s = .next (s.sent l f) :=
  transmissionEnd_begun calm tx (beginFrame_of_not idle) idle (sent_noTake calm)

end

/-- A line without a reply begins a notice or a relay-class frame, which leaves the replies of both lines (R136). -/
theorem beginFrame_replies {s : State} {l : LineId} (empty : (s.lineAt l).replies = []) (k : LineId) :
    ((s.beginFrame l).lineAt k).replies = (s.lineAt k).replies := by
  by_cases e : k = l
  · subst e
    have kept {t : State} (same : SameLines s t) (cls : FrameClass) (body : List Byte) (m : Turn) :
        (((t.startTx k cls body).setMarker k m).lineAt k).replies = (s.lineAt k).replies := by
      rw [State.setMarker, State.startTx, State.modLine_lineAt_same, State.modLine_lineAt_same]
      cases k
      · exact (congrArg LineUnit.replies same.host :)
      · exact (congrArg LineUnit.replies same.tablet :)
    unfold State.beginFrame
    split
    · split
      · unfold State.beginReply
        rw [empty]
        exact empty
      · unfold State.beginAttention
        split
        · next src _ =>
          exact kept (SameLines.trans (t := { s with attn := s.attn.setCount src 0 }) ⟨rfl, rfl, rfl, rfl, rfl, rfl, rfl, rfl⟩
            (sameLines_clearReported _ _)) _ _ _
        · rfl
      · unfold State.beginRelay
        split
        · exact kept ((sameLines_modLink s _ rfl rfl).trans (sameLines_evalReady _)) _ _ _
        · exact kept (sameLines_modLink s _ rfl rfl) _ _ _
        · rfl
      · rfl
    · rfl
  · rw [beginFrame_lineAt_ne s e]

/-- Without a reply, what the end of a transmission begins is all it does. -/
theorem transmissionEnd_sends {s : State} {l : LineId} {f : TxFrame} (calm : s.calm = true) (tx : (s.lineAt l).tx = some f)
    (empty : (s.lineAt l).replies = []) {v : State} (begins : (s.sent l f).beginFrame l = v) (busy : v.canBegin l = false) :
    exec (.transmissionEnd l) s = .next v := by
  refine transmissionEnd_begun calm tx begins busy fun k => ?_
  have begun := (State.Begun.refl (s.sent l f)).beginFrame l
  subst begins
  exact (mayTake_congr (begun.fifo k) (beginFrame_replies (by rw [(sent_keeps s l f).1]; exact empty) k) begun.2.softReset).trans
    (sent_noTake calm k)

theorem beginRelay_host {s : State} {payload : List Byte} {rest : List (List Byte)} (queue : s.link.relay = payload :: rest) :
    s.beginRelay .host = (((s.modLink fun k => { k with relay := rest }).evalReady).startTx .host .relay ([0x61, 0] ++ payload)).setMarker
      .host .attention := by
  have queue' : s.relayQueue .host = payload :: rest := queue
  unfold State.beginRelay
  rw [queue']

theorem beginRelay_tablet {s : State} {payload : List Byte} {rest : List (List Byte)} (queue : s.link.transmit = payload :: rest) :
    s.beginRelay .tablet = ((s.modLink fun k => { k with transmit := rest }).startTx .tablet .relay ([0x62, 0] ++ payload)).setMarker
      .tablet .attention := by
  have queue' : s.relayQueue .tablet = payload :: rest := queue
  unfold State.beginRelay
  rw [queue']

/-- Settles O13: the arbiter's choice in each case, and what is left to take then. -/
theorem transmissionEndChoosesNext : Obligations.TransmissionEndChoosesNext := by
  intro l f s calm tx u free rate next
  obtain ⟨mine, _, link, attn, _⟩ := sent_keeps s l f
  have ready (h : free) : (s.sent l f).mayBegin l = true := by
    refine mayBegin_of (by rw [mine]) ?_
    rintro rfl
    rw [link]
    exact h.resolve_left (by decide)
  refine ⟨fun held => ?_, fun h body rest waits => ?_, fun h replies src source turn => ?_, fun h replies payload rest queue turn => ?_,
    fun replies source queue => ?_⟩
  · refine transmissionEnd_idles calm tx (canBegin_eq_false.mpr (.inl ?_))
    cases l with
    | host => exact absurd (.inl rfl) held
    | tablet =>
      have e : (s.sent .tablet f).mayBegin .tablet = (s.link.radioReady && s.link.breakTimer.isNone) := rfl
      rw [e, Bool.and_eq_false_iff]
      by_cases radio : s.link.radioReady = true
      · refine .inr ?_
        have brk : s.link.breakTimer ≠ none := fun brk => held (.inr ⟨radio, brk⟩)
        rw [← Bool.not_eq_true, Option.isNone_iff_eq_none]
        exact brk
      · exact .inl (Bool.eq_false_iff.mpr radio)
  · intro begun
    have begins : (s.sent l f).beginFrame l = begun := by
      rw [beginFrame_reply (ready h) (by rw [mine]; exact waits)]
      cases l <;> rfl
    have line : begun.lineAt l = { s.lineAt l with replies := rest, tx := some ⟨.reply, body, rate⟩ } := by
      cases l <;> rfl
    have other (k : LineId) (ne : k ≠ l) : begun.lineAt k = s.lineAt k :=
      (begins ▸ beginFrame_lineAt_ne (s.sent l f) ne).trans ((sent_keeps s l f).2.1 k ne)
    have soft : begun.softReset = none ↔ s.softReset = none := by
      rw [← sent_softReset s l f]
      cases l <;> exact Iff.rfl
    have idle := (calm_parts calm).1
    refine ⟨fun nothing => ?_, fun oldest later fifo softNone room => ?_⟩
    · refine transmissionEnd_begun calm tx begins (canBegin_eq_false.mpr (.inl (by cases l <;> rfl))) fun k => ?_
      have softSame : begun.softReset.isNone = s.softReset.isNone := by
        rw [Bool.eq_iff_iff, Option.isNone_iff_eq_none, Option.isNone_iff_eq_none, soft]
      by_cases e : k = l
      · rw [e, State.mayTake, line, softSame]
        rcases nothing with empty | pending | full
        · simp [empty]
        · cases e : s.softReset with
          | none => exact absurd e pending
          | some _ => simp
        · simp [Nat.not_lt.mpr full]
      · rw [← idle k]
        unfold State.mayTake
        rw [other k e, softSame]
    · have three : rest.length = 3 := by
        have full := idle l
        rw [State.mayTake, fifo, softNone, waits] at full
        simp at full
        omega
      refine ⟨three, by rw [(withFifo_keeps begun l later).2.2.1], ?_⟩
      show exec (.transmissionEnd l) s = _
      rw [transmissionEnd_begins calm tx, begins]
      refine congrArg _ (settle_takesOldest (by rw [line]; exact fifo) (soft.mpr softNone) (.inl (by rw [line]; exact three)) fun k ne => ?_)
      have none := idle k
      rw [State.mayTake, softNone] at none
      rw [other k ne]
      by_cases empty : (s.lineAt k).fifo = []
      · exact .inl empty
      · refine .inr (Nat.not_lt.mp fun room => ?_)
        simp [empty, room] at none
  · have begins := beginFrame_attention (ready h) (by rw [mine]; exact replies) ((sent_waitingSource s l f l).trans source)
      (by rw [sent_relayQueue, mine]; exact turn)
    have busy := startTx_setMarker_canBegin (({ s.sent l f with attn := (s.sent l f).attn.setCount src 0 } : State).clearReported src) l
      .attention ((s.sent l f).noticeBody src) .relay
    refine (transmissionEnd_sends calm tx replies begins busy).trans ?_
    rw [sent_noticeBody]
    cases l <;> cases src <;> rfl
  · have begins := beginFrame_relay (ready h) (by rw [mine]; exact replies) ((sent_relayQueue s l f l).trans queue)
      (by rw [sent_waitingSource, mine]; exact turn)
    have queue' := (sent_relayQueue s l f l).trans queue
    cases l with
    | host =>
      exact (transmissionEnd_sends calm tx replies (begins.trans (beginRelay_host queue')) (startTx_setMarker_canBegin ..)).trans rfl
    | tablet =>
      exact (transmissionEnd_sends calm tx replies (begins.trans (beginRelay_tablet queue')) (startTx_setMarker_canBegin ..)).trans rfl
  · refine transmissionEnd_idles calm tx (canBegin_eq_false.mpr (.inr ⟨by rw [mine]; exact replies, ?_, ?_⟩))
    · rw [sent_waitingSource]; exact source
    · rw [sent_relayQueue]; exact queue

end Sys2Proof.Machine
end

-- ==== Sys2Proof/Proofs/Notices.lean ====

section
/-! The notice that a line begins: of which source, what it reports and what it clears (R160, R163 to R165, R171). -/

namespace Sys2Proof.Machine

theorem Source.mem_all (src : Source) : src ∈ Source.all := by
  cases src with
  | motor m => cases m <;> decide
  | sensor i => cases i <;> decide
  | _ => decide

/-- The sources stand in the order of their numbers (R160). -/
theorem Source.all_ordered : Source.all.Pairwise fun x y => x.number < y.number := by decide

/-- The source of lowest number among those that wait (R136, R160). -/
theorem waitingSource_of_lowest {s : State} {l : LineId} {src : Source} (pending : s.attn.count src ≠ 0) (unmasked : s.attn.masked src = false)
    (routed : s.route src = l)
    (lowest : ∀ x, x.number < src.number → s.attn.count x = 0 ∨ s.attn.masked x = true ∨ s.route x ≠ l) :
    s.waitingSource l = some src := by
  obtain ⟨before, after, split⟩ := List.append_of_mem src.mem_all
  have ordered := Source.all_ordered
  rw [split, List.pairwise_append] at ordered
  obtain ⟨_, _, lower⟩ := ordered
  rw [State.waitingSource, split, List.find?_append, List.find?_eq_none.mpr, Option.none_or]
  · exact List.find?_cons_of_pos (by simp [Attention.isPending, pending, unmasked, routed])
  · intro x mem
    rcases lowest x (lower x mem src (List.mem_cons_self ..)) with h | h | h <;> simp [Attention.isPending, h]

theorem flag8_eq (b : Bool) : flag8 b = [if b then 1 else 0] := by cases b <;> rfl

/-- A source's notice begun: its entry and its reported items cleared, and the marker turned (R164, R165). -/
def State.noticeOf (s : State) (l : LineId) (src : Source) (body : List Byte) : State :=
  ((({ s with attn := s.attn.setCount src 0 } : State).clearReported src).startTx l .attention body).setMarker l .relay

theorem noticeOf_attn (s : State) (l : LineId) (src : Source) (body : List Byte) : (s.noticeOf l src body).attn = s.attn.setCount src 0 := by
  cases l <;> cases src <;> rfl

/-- Settles O14: the source is the first of those that wait, its notice is formed as it stands, and its items are cleared. -/
theorem noticesReportAndClear : Obligations.NoticesReportAndClear := by
  intro l src f s calm tx replies free turn lineOf line pending unmasked routed lowest
  have routes (x : Source) : s.route x = line x := by
    cases x <;> rfl
  have source : (s.sent l f).waitingSource l = some src := by
    rw [sent_waitingSource]
    refine waitingSource_of_lowest pending unmasked ((routes src).trans routed) fun x lower => ?_
    rw [routes x]
    exact lowest x lower
  obtain ⟨mine, _, link, attn, _⟩ := sent_keeps s l f
  have mayBegin : (s.sent l f).mayBegin l = true := mayBegin_of (by rw [mine]) (by rw [link]; exact free)
  have begins := beginFrame_attention mayBegin (by rw [mine]; exact replies) source (by
    rw [sent_relayQueue, mine]
    cases l <;> exact turn)
  have ends := transmissionEnd_sends calm tx replies begins (startTx_setMarker_canBegin ..)
  rw [sent_noticeBody] at ends
  refine ⟨(s.sent l f).noticeOf l src (s.noticeBody src), ends, fun x => ?_, ?_, s.noticePayload src, ?_, ?_⟩
  · rw [noticeOf_attn, attn]
    by_cases e : x = src
    · rw [e, if_pos rfl, Attention.setCount_same]
    · rw [if_neg e, Attention.setCount_ne _ _ e]
  · cases l <;> rfl
  · cases l <;> cases src <;> rfl
  · cases src with
    | power => cases l <;> exact ⟨rfl, rfl, rfl, rfl⟩
    | hostLink =>
      refine ⟨?_, by cases l <;> rfl, by cases l <;> rfl⟩
      rw [State.noticePayload, flag8_eq]
      rfl
    | motor m =>
      refine ⟨rfl, fun q => ?_⟩
      have kept : ((s.sent l f).noticeOf l (.motor m) (s.noticeBody (.motor m))).port q =
          (s.modPort m fun p => { p with outcomes := [], dropped := 0, discarded := 0 }).port q := by cases l <;> rfl
      rw [kept, State.modPort_port]
    | sound =>
      refine ⟨?_, by cases l <;> rfl⟩
      rw [State.noticePayload, flag8_eq]
      simp only [u8, u16, List.append_assoc, List.cons_append, List.nil_append]
      rfl
    | sensor i =>
      refine ⟨rfl, fun j => ?_⟩
      have kept : ((s.sent l f).noticeOf l (.sensor i) (s.noticeBody (.sensor i))).sensorAt j =
          (s.modSensor i fun p => { p with causes := .clear }).sensorAt j := by cases l <;> rfl
      rw [kept, State.modSensor_sensorAt]
    | tablet => cases l <;> exact ⟨rfl, rfl, rfl⟩

end Sys2Proof.Machine
end

-- ==== Sys2Proof/Proofs/RequestChecks.lean ====

section
/-! What the statement of every request starts from: a request taken or refused by its rule, and lists of checks that can fail in one way
only (R133 to R135). -/

namespace Sys2Proof.Machine

/-! ### A request command -/

section
variable {c : Instr} {l : LineId} {tag : Byte} {r : Request} {s : State} (request : c.request? = some (l, tag, r)) (ready : s.ready l = true)
  (wf : r.wf = true)
include request ready wf

/-- A request that its rule accepts. -/
theorem exec_taken (allowed : (s.arrived l).lineAllows l r = true) {t : State} {d : List Byte}
    (taken : takeByRule r l (s.arrived l) = .ok (t, d)) : exec c s = .next (t.replied l tag r .ok d).settle := by
  rw [exec_request request, requestCommand_taken ready tag r wf, if_pos allowed, taken]

/-- A request that its rule refuses. -/
theorem exec_refused (allowed : (s.arrived l).lineAllows l r = true) {x : Status} {d : List Byte}
    (refused : takeByRule r l (s.arrived l) = .error ⟨x, d⟩) : exec c s = .next ((s.arrived l).replied l tag r x d).settle := by
  rw [exec_request request, requestCommand_taken ready tag r wf, if_pos allowed, refused]

/-- A request that its line may not send (R135). -/
theorem exec_notPermitted (held : (s.arrived l).lineAllows l r = false) :
    exec c s = .next ((s.arrived l).replied l tag r .notPermitted []).settle := by
  rw [exec_request request, requestCommand_taken ready tag r wf, if_neg (Bool.eq_false_iff.mp held)]

end

/-! ### Checks that fail in one way -/

/-- A check that fails with one status and no data, if it fails. -/
def FailsBy {α : Type} (x : Status) (c : Check α) : Prop := ∀ e, c = .error e → e = ⟨x, []⟩

section
variable {α β : Type} {x : Status}

theorem FailsBy.bind {c : Check α} {f : α → Check β} (first : FailsBy x c) (next : ∀ a, c = .ok a → FailsBy x (f a)) :
    FailsBy x (c >>= f) := by
  intro e h
  cases c with
  | ok a => exact next a rfl e h
  | error e' => exact first e (by cases h; rfl)

theorem FailsBy.ok (a : α) : FailsBy x (.ok a : Check α) := fun _ h => by cases h
theorem FailsBy.pure (a : α) : FailsBy x (Pure.pure a : Check α) := fun _ h => by cases h
theorem FailsBy.error : FailsBy x (.error ⟨x, []⟩ : Check α) := fun _ h => (Except.error.inj h).symm
theorem FailsBy.need (b : Bool) : FailsBy x (Machine.need b x) := by cases b; exacts [.error, .ok _]
theorem FailsBy.require (o : Option α) : FailsBy x (Machine.require o x) := by cases o; exacts [.error, .ok _]

theorem FailsBy.map {c : Check α} (h : FailsBy x c) (f : α → β) : FailsBy x (Except.map f c) := by
  intro e k
  cases c with
  | ok a => cases k
  | error e' => exact h e (by cases k; rfl)

theorem FailsBy.inRange (lo hi n : Nat) : FailsBy .badParam (Machine.inRange lo hi n) := (FailsBy.need _).map _

/-- A check that fails in one way, and is not passed, fails that way. -/
theorem FailsBy.of_not_ok {c : Check α} (h : FailsBy x c) (not : ∀ a, c ≠ .ok a) : c = .error ⟨x, []⟩ := by
  cases e : c with
  | ok a => exact absurd e (not a)
  | error e' => rw [h e' e]

end

/-! ### Codes of a byte (R168) -/

/-- A code that names something lies in the range of its codes. -/
theorem le_of_code {α : Type} {f : Byte → Option α} {k : Nat} (codes : ∀ b, (f b).isSome = true → b.toNat ≤ k) {b : Byte} {a : α}
    (named : f b = some a) : b.toNat ≤ k :=
  codes b (by rw [named]; rfl)

theorem tabletRateOf_eq {b : Byte} (h : b.toNat ≤ 2) :
    tabletRateOf b = some (if b = 0 then 115200 else if b = 1 then 460800 else 921600) := by revert b; decide
theorem flagOf_eq {b : Byte} (h : b.toNat ≤ 1) : flagOf b = some (decide (b = 1)) := by revert b; decide
theorem quietUnitOf_eq {b : Byte} (h : b.toNat ≤ 1) : quietUnitOf b = some (if b = 1 then 250 else 10) := by revert b; decide
theorem setOf_eq {b : Byte} (h : b.toNat < 64) : setOf b = some (Six.ofFn fun i => b.getLsbD i.toNat) := if_pos h

theorem setOf_lt {b : Byte} {v : Six Bool} (named : setOf b = some v) : b.toNat < 64 := by
  by_contra h
  rw [setOf, if_neg h] at named
  cases named

theorem inRange_of {lo hi n : Nat} (h : lo ≤ n) (k : n ≤ hi) : inRange lo hi n = .ok n := (inRange_ok ..).mpr ⟨⟨h, k⟩, rfl⟩

end Sys2Proof.Machine
end

-- ==== Sys2Proof/Proofs/LinkRequests.lean ====

section
/-! The requests of the host line and of the tablet link, and the decoder's refusals (R134, R135, R142, R144, R147, R149, R151, R152, R154,
R162, R169). -/

namespace Sys2Proof.Machine

/-! ### SET_MASK and RESET (R142, R162) -/

theorem Source.number_injective {x y : Source} (h : x.number = y.number) : x = y := by
  have bound (i : Idx6) : i.toNat < 6 := by cases i <;> decide
  have index {i j : Idx6} (h : i.toNat = j.toNat) : i = j := by cases i <;> cases j <;> first | rfl | cases h
  cases x <;> cases y <;> simp only [Source.number] at h <;> try rfl
  case motor.motor i j => rw [index (by omega : i.toNat = j.toNat)]
  case sensor.sensor i j => rw [index (by omega : i.toNat = j.toNat)]
  case motor.power i | motor.hostLink i | motor.sound i | motor.tablet i | power.motor i | hostLink.motor i | sound.motor i | tablet.motor i
    | sensor.power i | sensor.hostLink i | sensor.sound i | sensor.tablet i | power.sensor i | hostLink.sensor i | sound.sensor i
    | tablet.sensor i => have := bound i; omega
  case motor.sensor i j | sensor.motor j i => have := bound i; omega
  all_goals omega

/-- The set of pending sources as the sum of its bits' powers (R162, R168). -/
theorem pendingSet_bits (a : Attention) :
    a.pendingSet = (((Source.all.filter a.isPending).map Source.number).map fun i => 2 ^ i).sum := by
  unfold Attention.pendingSet
  induction Source.all with
  | nil => rfl
  | cons src rest ih =>
    cases h : a.isPending src <;> simp [h, ih]

/-- Bit n of the set of pending sources is set exactly for a pending source n (R162). -/
theorem pendingSet_testBit (a : Attention) (src : Source) : a.pendingSet.testBit src.number = a.isPending src := by
  have sorted : ((Source.all.filter a.isPending).map Source.number).SortedLT :=
    List.sortedLT_iff_pairwise.mpr (List.pairwise_map.mpr (Source.all_ordered.filter _))
  rw [Bool.eq_iff_iff, ← Nat.mem_bitIndices, pendingSet_bits, Nat.bitIndices_sum_map_two_pow sorted, List.mem_map]
  constructor
  · rintro ⟨x, mem, same⟩
    rw [← Source.number_injective same]
    exact (List.mem_filter.mp mem).2
  · exact fun pending => ⟨src, List.mem_filter.mpr ⟨src.mem_all, pending⟩, rfl⟩

theorem Source.number_lt (src : Source) : src.number < 16 := by
  cases src with
  | motor m => cases m <;> decide
  | sensor i => cases i <;> decide
  | _ => decide

/-- Settles O18: both requests are always accepted from the host. -/
theorem setMaskAndReset : Obligations.SetMaskAndReset := by
  intro tag mask s ready
  refine ⟨⟨BitVec.ofNat 16 s.attn.pendingSet, fun src => ?_, ?_⟩, ?_⟩
  · rw [BitVec.getLsbD_ofNat, pendingSet_testBit]
    simp [src.number_lt, Attention.isPending]
  · exact exec_taken rfl ready rfl rfl (takeByRule.eq_def ..)
  · exact exec_taken rfl ready rfl rfl rfl

/-! ### LINK_SETUP and LINK_RESET (R144, R152, R154, R155) -/

/-- The fields of a LINK_SETUP in their ranges (R152). -/
def linkSetupGood (r : LinkSetupRaw) : Prop :=
  r.rate.toNat ≤ 2 ∧ r.readMask.toNat < 64 ∧ r.setupAllowed.toNat ≤ 1 ∧ r.queryAllowed.toNat ≤ 1 ∧
    r.quietUnit.toNat ≤ 1 ∧ r.quietSteps.toNat ≤ 32 ∧ r.strikeLimit.toNat ≤ 7

theorem takeLinkSetup_good {r : LinkSetupRaw} (good : linkSetupGood r) (s : State) :
    takeLinkSetup r s = .ok (({ s with
      tablet := if (if r.rate = 0 then 115200 else if r.rate = 1 then 460800 else 921600) = s.link.rate then s.tablet
        else { s.tablet with held := [], rxTimer := none }
      link := { s.link with
        rate := if r.rate = 0 then 115200 else if r.rate = 1 then 460800 else 921600
        readMask := Six.ofFn fun i => r.readMask.getLsbD i.toNat
        setupAllowed := r.setupAllowed = 1
        queryAllowed := r.queryAllowed = 1
        quietUnit := if r.quietUnit = 1 then 250 else 10
        quietSteps := r.quietSteps.toNat
        strikeLimit := r.strikeLimit.toNat
        strikes := 0
        quietTimer := if s.link.state = LinkState.up ∧ 1 ≤ r.quietSteps.toNat then some s.clock else none } } : State), []) := by
  obtain ⟨rate, mask, setup, query, unit, steps, limit⟩ := good
  rw [takeLinkSetup, tabletRateOf_eq rate, setOf_eq mask, flagOf_eq setup, flagOf_eq query, quietUnitOf_eq unit,
    inRange_of (Nat.zero_le _) steps, inRange_of (Nat.zero_le _) limit]
  simp only [require_some, Check.bind_of_ok]
  generalize (if r.rate = 0 then 115200 else if r.rate = 1 then 460800 else 921600) = rate'
  by_cases same : rate' = s.link.rate
  · simp only [if_pos same, Link.startQuiet, Bool.and_eq_true, decide_eq_true_eq]; rfl
  · simp only [if_neg same, Link.startQuiet, Bool.and_eq_true, decide_eq_true_eq]; rfl

theorem takeLinkSetup_bad {r : LinkSetupRaw} (bad : ¬ linkSetupGood r) (s : State) : takeLinkSetup r s = .error ⟨.badParam, []⟩ := by
  refine FailsBy.of_not_ok ?_ fun a h => bad ?_
  · exact .bind (.require _) fun _ _ => .bind (.require _) fun _ _ => .bind (.require _) fun _ _ => .bind (.require _) fun _ _ =>
      .bind (.require _) fun _ _ => FailsBy.bind (FailsBy.inRange _ _ _) fun _ _ => FailsBy.bind (FailsBy.inRange _ _ _) fun _ _ => .pure _
  · simp only [takeLinkSetup, Check.bind_ok, require_ok, inRange_ok] at h
    obtain ⟨_, rate, _, mask, _, setup, _, query, _, unit, _, ⟨steps, _⟩, _, ⟨limit, _⟩, _⟩ := h
    exact ⟨le_of_code (by decide) rate, setOf_lt mask, le_of_code (by decide) setup, le_of_code (by decide) query,
      le_of_code (by decide) unit, steps.2, limit.2⟩

theorem setLinkState_eq (s : State) (x : LinkState) : s.setLinkState x = { s with
    link := { s.link with state := x }
    attn := if s.link.state = x then s.attn else { s.attn with tablet := min 255 (s.attn.tablet + 1) } } := by
  unfold State.setLinkState
  by_cases h : s.link.state = x
  · rw [if_pos h, h, State.raiseIf, bne_self_eq_false]; rfl
  · rw [if_neg h, State.raiseIf, if_pos (bne_iff_ne.mpr h)]; rfl

/-- K40_READY rises where the request FIFO and the relay FIFO are empty (R147). -/
theorem evalReady_empty {s : State} (fifo : s.tablet.fifo = []) (relay : s.link.relay = []) :
    s.evalReady = { s with link := { s.link with k40Ready := true } } := by
  rw [evalReady_eq, fifo, relay]
  rfl

theorem linkReset_replies (u : LineUnit) : u.linkReset = { u with
    held := [], rxTimer := none, fifo := [], tx := none
    replies := match u.tx with
      | some ⟨.reply, body, _⟩ => body :: u.replies
      | _ => u.replies } := by
  unfold LineUnit.linkReset
  cases u.tx with
  | none => rfl
  | some f =>
    obtain ⟨cls, _, _⟩ := f
    cases cls <;> rfl

theorem takeLinkReset_eq (s : State) : takeLinkReset s = .ok (({ s with
    tablet := s.tablet.linkReset
    link := { s.link with
      relay := [], transmit := [], state := .down, strikes := 0, overflows := 0, checkErrors := 0, quietTimer := none
      breakTimer := some s.clock, k40Ready := true }
    attn := if s.link.state = LinkState.down then s.attn else { s.attn with tablet := min 255 (s.attn.tablet + 1) } } : State),
    [BitVec.ofNat 8 s.link.relay.length, BitVec.ofNat 8 s.link.transmit.length]) := by
  unfold takeLinkReset
  dsimp only
  rw [setLinkState_eq, evalReady_empty rfl rfl]
  rfl

/-- Settles O20: every field of a LINK_SETUP in its range, or one that is not; LINK_RESET is always accepted. -/
theorem linkSetupAndReset : Obligations.LinkSetupAndReset := by
  intro tag r s ready good rate
  refine ⟨fun h => ?_, fun h => ?_, ?_⟩
  · rw [exec_taken (r := .linkSetup r) rfl ready rfl rfl (takeLinkSetup_good h (s.arrived .host))]
    rfl
  · exact exec_refused (r := .linkSetup r) rfl ready rfl rfl (takeLinkSetup_bad h (s.arrived .host))
  · rw [exec_taken (r := .linkReset) rfl ready rfl rfl (takeLinkReset_eq (s.arrived .host)), linkReset_replies]
    rfl

/-! ### TABLET_SEND and RELAY_UP (R147, R149, R151) -/

theorem payloadBytes_append (q : List (List Byte)) (payload : List Byte) :
    payloadBytes q + payload.length = ((q ++ [payload]).map List.length).sum := by
  simp [payloadBytes]

theorem payloadFits_iff (q : List (List Byte)) (payload : List Byte) :
    payloadFits q payload = true ↔ ¬ (8 ≤ q.length ∨ 1024 < ((q ++ [payload]).map List.length).sum) := by
  rw [← payloadBytes_append]
  simp [payloadFits]

/-- With no frame waiting the relay FIFO's fills alone set K40_READY (R147). -/
theorem readyLevel_noFrame (bytes count : Nat) (before : Bool) :
    (if 3 ≤ 0 ∨ 768 ≤ bytes ∨ 7 ≤ count then false else if 0 ≤ 1 ∧ bytes < 512 ∧ count ≤ 5 then true else before) =
      if 768 ≤ bytes ∨ 7 ≤ count then false else if bytes < 512 ∧ count ≤ 5 then true else before := by simp

/-- K40_READY evaluated with a payload appended, the request FIFO empty (R147). -/
theorem evalReady_relayed {a : State} (fifo : a.tablet.fifo = []) (payload : List Byte) :
    (a.modLink fun k => { k with relay := k.relay ++ [payload] }).evalReady = { a with link := { a.link with
      relay := a.link.relay ++ [payload]
      k40Ready :=
        if 768 ≤ payloadBytes (a.link.relay ++ [payload]) ∨ 7 ≤ (a.link.relay ++ [payload]).length then false
        else if payloadBytes (a.link.relay ++ [payload]) < 512 ∧ (a.link.relay ++ [payload]).length ≤ 5 then true
        else a.link.k40Ready } } := by
  rw [evalReady_eq, State.modLink_tablet, fifo]
  exact congrArg (fun b => ({ a with link := { a.link with relay := a.link.relay ++ [payload], k40Ready := b } } : State))
    (readyLevel_noFrame _ _ _)

/-- Settles O21: the payload finds room, or it does not. -/
theorem payloadsAreQueued : Obligations.PayloadsAreQueued := by
  intro tag payload s short long
  have wf {n : Nat} (h : n = payload.length) : (decide (1 ≤ n) && decide (n ≤ 238)) = true := by
    subst h; simp [short, long]
  refine ⟨fun ready => ?_, fun ready => ?_⟩
  · intro q
    have room := payloadFits_iff s.link.transmit payload
    by_cases full : 8 ≤ s.link.transmit.length ∨ 1024 < (q.map List.length).sum
    · rw [if_pos full]
      refine exec_refused (r := .tabletSend payload) rfl ready (wf rfl) rfl ?_
      show takeTabletSend payload (s.arrived .host) = _
      rw [takeTabletSend, arrived_transmit, Bool.eq_false_iff.mpr fun h => room.mp h full]
      rfl
    · rw [if_neg full, exec_taken (r := .tabletSend payload) rfl ready (wf rfl) rfl
        (t := (s.arrived .host).modLink fun k => { k with transmit := k.transmit ++ [payload] }) (d := payloadCounts (s.link.transmit ++ [payload]))]
      · rfl
      · show takeTabletSend payload (s.arrived .host) = _
        rw [takeTabletSend, arrived_transmit, room.mpr full]
        rfl
  · intro a q n
    have room := payloadFits_iff s.link.relay payload
    by_cases full : 8 ≤ s.link.relay.length ∨ 1024 < n
    · rw [if_pos full]
      refine exec_refused (r := .relayUp payload) rfl ready (wf rfl) rfl ?_
      show takeRelayUp payload (s.arrived .tablet) = _
      rw [takeRelayUp, arrived_relay, Bool.eq_false_iff.mpr fun h => room.mp h full]
      rfl
    · have fifo : (s.arrived .tablet).tablet.fifo = [] := by
        rw [arrived_tabletLine]; exact (ready_parts ready).2.2.2.1
      have relay := arrived_relay s .tablet
      rw [if_neg full, exec_taken (r := .relayUp payload) rfl ready (wf rfl) rfl
        (t := ((s.arrived .tablet).modLink fun k => { k with relay := k.relay ++ [payload] }).evalReady)
        (d := payloadCounts (s.link.relay ++ [payload]))]
      · rw [evalReady_relayed fifo, relay]
        rfl
      · show takeRelayUp payload (s.arrived .tablet) = _
        rw [takeRelayUp, relay, room.mpr full, ← relay]
        rfl

end Sys2Proof.Machine
end

-- ==== Sys2Proof/Proofs/DecoderRefusals.lean ====

section
/-! The decoder's three checks (R134, R135, R169): UNKNOWN_KIND, BAD_LENGTH and NOT_PERMITTED. -/

namespace Sys2Proof.Machine

/-- The kinds whose body has one length, with it (R169). -/
def fixedLengths : List (Byte × Nat) := [(0x01, 2), (0x02, 2), (0x03, 4), (0x04, 4), (0x05, 2), (0x10, 26), (0x11, 9), (0x12, 28),
  (0x13, 28), (0x14, 4), (0x15, 7), (0x16, 3), (0x17, 4), (0x20, 30), (0x21, 3), (0x22, 4), (0x24, 3), (0x30, 6), (0x31, 17), (0x33, 6),
  (0x34, 2), (0x38, 10), (0x39, 2), (0x40, 9), (0x42, 2), (0x43, 2)]

/-- A body of another length than R169 gives its kind. -/
def wrongLength (kind : Byte) (params : List Byte) : Prop :=
  (∃ n, (kind, n) ∈ fixedLengths ∧ params.length + 2 ≠ n) ∨
  (kind = 0x23 ∧ ∀ port n bytes, params = port :: n :: bytes → bytes.length ≠ n.toNat) ∨
  (kind = 0x32 ∧ ∀ n flag bytes, params = n :: flag :: bytes → bytes.length ≠ n.toNat) ∨
  ((kind = 0x41 ∨ kind = 0x44) ∧ (params = [] ∨ 238 < params.length))

/-- The decoder's second check fails where the length check does (R135). -/
theorem decodeRequest_badLength (b : List Byte) : decodeRequest b = .badLength ↔ lengthAllowed (rd8 b 0) b = some false := by
  unfold decodeRequest
  split
  · next h => rw [h]; exact iff_of_false nofun nofun
  · next h => rw [h]; exact iff_of_true rfl rfl
  · next h =>
    rw [h]
    refine iff_of_false ?_ nofun
    split <;> nofun

theorem decodeRequest_unknownKind {b : List Byte} (h : lengthAllowed (rd8 b 0) b = none) : decodeRequest b = .unknownKind := by
  unfold decodeRequest
  rw [h]

/-- The kinds that name a request (R135, R169). -/
def requestKinds : List Byte := [0x01, 0x02, 0x03, 0x04, 0x05, 0x10, 0x11, 0x12, 0x13, 0x14, 0x15, 0x16, 0x17, 0x20, 0x21, 0x22, 0x23, 0x24,
  0x30, 0x31, 0x32, 0x33, 0x34, 0x38, 0x39, 0x40, 0x41, 0x42, 0x43, 0x44]

/-- Whether a kind names a request has nothing to do with the body. -/
theorem lengthAllowed_isSome (kind : Byte) (b : List Byte) : (lengthAllowed kind b).isSome = decide (kind ∈ requestKinds) := by
  have known : ∀ kind : Byte, (lengthAllowed kind []).isSome = decide (kind ∈ requestKinds) := by decide
  rw [← known]
  unfold lengthAllowed
  dsimp only
  split <;> rfl

theorem wrongLength_kind {kind : Byte} {params : List Byte} (h : wrongLength kind params) : kind ∈ requestKinds := by
  have fixed : ∀ x ∈ fixedLengths, x.1 ∈ requestKinds := by decide
  rcases h with ⟨n, mem, _⟩ | ⟨rfl, _⟩ | ⟨rfl, _⟩ | ⟨rfl | rfl, _⟩
  · exact fixed _ mem
  all_goals decide

/-- The two counted kinds: the count byte gives the length (R169). -/
theorem counted_params (params : List Byte) (p : Byte → Byte → Byte) :
    (2 ≤ params.length → ¬ params.length = 2 + (p (rd8 params 0) (rd8 params 1)).toNat) ↔
      ∀ (a b : Byte) (bytes : List Byte), params = a :: b :: bytes → bytes.length ≠ (p a b).toNat := by
  constructor
  · rintro h a b bytes rfl same
    refine h (by simp) ?_
    have first : rd8 (a :: b :: bytes) 0 = a := rfl
    have second : rd8 (a :: b :: bytes) 1 = b := rfl
    rw [first, second, ← same, List.length_cons, List.length_cons]
    omega
  · intro h long same
    match params with
    | a :: b :: bytes =>
      have first : rd8 (a :: b :: bytes) 0 = a := rfl
      have second : rd8 (a :: b :: bytes) 1 = b := rfl
      rw [first, second, List.length_cons, List.length_cons] at same
      exact h a b bytes rfl (by omega)

/-- R169: the lengths that the length check refuses. -/
theorem lengthAllowed_iff (kind tag : Byte) (params : List Byte) :
    lengthAllowed kind (kind :: tag :: params) = some false ↔ wrongLength kind params := by
  have byte {n : Nat} (h : kind.toNat = n) : kind = BitVec.ofNat 8 n := by rw [← h]; exact (BitVec.ofNat_toNat 8 kind).symm
  by_cases known : kind ∈ requestKinds
  · have some' : (lengthAllowed kind (kind :: tag :: params)).isSome = true := by rw [lengthAllowed_isSome]; exact decide_eq_true known
    revert some'
    unfold lengthAllowed
    dsimp only
    split
    case h_17 h =>
      rw [byte h]
      have counted := counted_params params fun _ n => n
      simp [wrongLength, fixedLengths]
      have third : rd8 (0x23#8 :: tag :: params) 3 = rd8 params 1 := rfl
      rw [third]
      exact Iff.trans (imp_congr_right fun _ => by omega) counted
    case h_21 h =>
      rw [byte h]
      have counted := counted_params params fun n _ => n
      simp [wrongLength, fixedLengths]
      have second : rd8 (0x32#8 :: tag :: params) 2 = rd8 params 0 := rfl
      rw [second]
      exact Iff.trans (imp_congr_right fun _ => by omega) counted
    case h_27 h | h_30 h =>
      rw [byte h]
      cases params <;> simp [wrongLength, fixedLengths]
    case h_31 => exact nofun
    all_goals next h => rw [byte h]; simp [wrongLength, fixedLengths]
  · refine iff_of_false (fun h => ?_) fun h => known (wrongLength_kind h)
    have none' := lengthAllowed_isSome kind (kind :: tag :: params)
    rw [h] at none'
    exact known (of_decide_eq_true none'.symm)

/-- A frame that the decoder refuses changes nothing but its reply (R133, R134). -/
theorem takeBody_refused {s : State} {l : LineId} {body : List Byte} {x : Status} (refused : s.answer l body = .error ⟨x, []⟩) :
    s.takeBody l body = s.addReply l [replyKind (rd8 body 0), rd8 body 1, BitVec.ofNat 8 x.code] := by
  unfold State.takeBody
  rw [refused]
  rfl

theorem ready_calm {s : State} {l : LineId} (ready : s.ready l = true) : s.calm = true := by
  obtain ⟨quiet, free, _⟩ := ready_parts ready
  rw [State.calm, quiet, free]
  rfl

theorem ready_holding {s : State} {l : LineId} (ready : s.ready l = true) (held : List Byte) (timer : Timer) :
    (s.holding l held timer).ready l = true := by
  rw [← ready]
  cases l <;> rfl

section
variable {s : State} {l : LineId} (ready : s.ready l = true) {kind tag : Byte} {params : List Byte} {x : Status}
  (refused : ∀ t : State, t.answer l (kind :: tag :: params) = .error ⟨x, []⟩)
include ready refused

/-- A frame that the decoder refuses, as a command. -/
theorem requestCommand_refused : s.requestCommand l (kind :: tag :: params) =
    ((s.arrived l).addReply l [replyKind kind, tag, BitVec.ofNat 8 x.code]).settle := by
  rw [requestCommand_ready ready, takeBody_refused (refused _)]
  rfl

/-- A frame that the decoder refuses, by its last byte. -/
theorem lastByte_refused {n : Byte} (named : n.toNat = params.length + 2) (high : params.length ≤ 238)
    (held : (s.lineAt l).held = 0x5A :: n :: kind :: tag :: params) :
    exec (.byteReceived l (checkByte (kind :: tag :: params))) s = .next
      (((s.modLine l fun u => { u with held := [], rxTimer := none }).arrived l).addReply l
        [replyKind kind, tag, BitVec.ofNat 8 x.code]).settle := by
  have hunted : scan 0 ((s.lineAt l).held ++ [checkByte (kind :: tag :: params)]) = ([.valid (kind :: tag :: params)], []) := by
    rw [held]
    exact (scan_whole (body := kind :: tag :: params) (by omega) (by omega) named.symm _ []).trans (if_pos rfl)
  rw [byteReceived_acts (ready_calm ready) l _ hunted]
  exact congrArg _ (requestCommand_refused (ready_holding ready [] none) refused)

end

theorem lineAllows_false {s : State} {l : LineId} {r : Request}
    (h : (l = .host ∧ r.kind = 0x44) ∨
      (l = .tablet ∧ (r.kind ∈ ([0x02, 0x03, 0x04, 0x05, 0x10, 0x11, 0x38, 0x40, 0x41, 0x43] : List Byte) ∨
        (r.kind ∈ ([0x16, 0x39] : List Byte) ∧ s.link.queryAllowed = false)))) : s.lineAllows l r = false := by
  rcases h with ⟨rfl, kind⟩ | ⟨rfl, kind | ⟨kind, held⟩⟩
  · simp [State.lineAllows, tabletOnly, kind]
  · have host : hostOnly r = true := by cases r <;> first | rfl | (simp [Request.kind] at kind)
    simp [State.lineAllows, host]
  · have query : isQuery r = true := by cases r <;> first | rfl | (simp [Request.kind] at kind)
    simp [State.lineAllows, query, held]

/-- Settles O15: each of the decoder's checks in its turn. -/
theorem decoderChecksRefuse : Obligations.DecoderChecksRefuse := by
  intro l tag s ready fixed wrong heard
  refine ⟨fun kind params unknown => ?_, fun kind params => ⟨?_, fun bad => ?_⟩, fun c r request wf held => ?_⟩
  · intro reply
    have refused (t : State) : t.answer l (kind :: tag :: params) = .error ⟨.unknownKind, []⟩ := by
      have none' := lengthAllowed_isSome kind (kind :: tag :: params)
      rw [decide_eq_false (p := kind ∈ requestKinds) unknown, Option.isSome_eq_false_iff, Option.isNone_iff_eq_none] at none'
      rw [State.answer, decodeRequest_unknownKind (b := kind :: tag :: params) none']
    have reply_eq : reply = [replyKind kind, tag, BitVec.ofNat 8 Status.unknownKind.code] := by rw [replyKind_eq]; rfl
    rw [reply_eq]
    exact ⟨congrArg _ (requestCommand_refused ready refused), fun n named high held => lastByte_refused ready refused named high held⟩
  · exact (decodeRequest_badLength _).trans (lengthAllowed_iff kind tag params)
  · have refused (t : State) : t.answer l (kind :: tag :: params) = .error ⟨.badLength, []⟩ := by
      have short := (decodeRequest_badLength (kind :: tag :: params)).mpr ((lengthAllowed_iff kind tag params).mpr bad)
      rw [State.answer, short]
    have low : kind.toNat < 128 := by
      have all : ∀ k ∈ requestKinds, k.toNat < 128 := by decide
      exact all kind (wrongLength_kind bad)
    have reply_eq : [kind + 0x80, tag, 0x02] = [replyKind kind, tag, BitVec.ofNat 8 Status.badLength.code] := by
      rw [replyKind_eq, if_pos low]; rfl
    rw [reply_eq]
    exact fun n named high held => lastByte_refused ready refused named high held
  · refine exec_notPermitted request ready wf (lineAllows_false ?_)
    rw [arrived_queryAllowed]
    exact held

end Sys2Proof.Machine
end

-- ==== Sys2Proof/Proofs/PortStops.lean ====

section
/-! What stops ports (R2, R16, R17, R140, R156, R157): a fail stop port by port, and the commands that carry one out. -/

namespace Sys2Proof.Machine

/-! ### What a stop makes of one port -/

/-- A port with its running move ended and its queue discarded (R13, R18). -/
theorem Port.cleared_some (p : Port) (x : OutcomeCode) (uptime : Word) :
    p.cleared (some x) uptime = { p.stoppedBy x p.act.notWaiting uptime with
      vp := p.vp, integral := p.integral, duty := p.duty, stallTimer := p.stallTimer } := by
  cases act : p.act <;>
    simp [Port.cleared, Port.endRunning, act, Port.discardQueue, Port.leaveWait, Port.addOutcome_eq, Port.recorded, Port.stoppedBy,
      satAdd, Activity.notWaiting]

/-- A port with its queue discarded, its move going on (R11, R13). -/
theorem Port.cleared_none (p : Port) (uptime : Word) : p.cleared none uptime = { p with
    act := p.act.notWaiting, queue := [], replacing := false, discarded := min 255 (p.discarded + p.queue.length) } := by
  cases act : p.act <;> simp [Port.cleared, act, Port.discardQueue, Port.leaveWait, satAdd, Activity.notWaiting]

theorem Port.cleared_isShutdown (p : Port) (x : OutcomeCode) (uptime : Word) :
    (p.cleared (some x) uptime).isShutdown = p.isShutdown := by
  rw [p.cleared_some]
  show (p.act.notWaiting == .shutdown) = (p.act == .shutdown)
  cases p.act <;> rfl

theorem Port.cleared_shutdown {p : Port} (x : OutcomeCode) (uptime : Word) (down : p.isShutdown = true) :
    p.cleared (some x) uptime = { p with queue := [], replacing := false, discarded := min 255 (p.discarded + p.queue.length) } := by
  have act : p.act = .shutdown := eq_of_beq down
  simp [Port.cleared_some, Port.stoppedBy, act, Activity.notWaiting]

/-- A fail stop on one port (R16). -/
theorem Port.failRest_cleared (p : Port) (x : OutcomeCode) (uptime : Word) :
    (p.cleared (some x) uptime).failRest = p.failStopped x uptime := by
  unfold Port.failRest Port.failStopped Port.stopInto
  rw [p.cleared_isShutdown]
  cases down : p.isShutdown
  · rw [if_neg (by decide), if_neg (by decide), p.cleared_some]
    show Port.enterRest (match p.config.failAction with | .coast => .free | .brake => .braked) _ = _
    cases p.config.failAction <;> rfl
  · exact p.cleared_shutdown x uptime down

/-- ALL_STOP on one port (R17). -/
theorem Port.brakeRest_cleared (p : Port) (x : OutcomeCode) (uptime : Word) :
    (p.cleared (some x) uptime).brakeRest = p.stopInto x (.rest .braked) uptime := by
  unfold Port.brakeRest Port.stopInto
  rw [p.cleared_isShutdown]
  cases down : p.isShutdown
  · rw [if_neg (by decide), if_neg (by decide), p.cleared_some]
    rfl
  · exact p.cleared_shutdown x uptime down

theorem Port.stopInto_discarded (p : Port) (x : OutcomeCode) (rest : Activity) (uptime : Word) :
    (p.stopInto x rest uptime).discarded = satAdd 255 p.discarded p.queue.length := by
  unfold Port.stopInto
  split <;> rfl

theorem failStop_stops (s : State) (who : Six Bool) (x : OutcomeCode) :
    StopsPorts s (s.failStop who x) who (fun p => p.failStopped x s.uptime) true :=
  clearPorts_stops s who (some x) Port.failRest _ (fun m _ => (s.port m).failRest_cleared x s.uptime)
    (fun m _ => (s.port m).stopInto_discarded x _ s.uptime)

/-! ### The commands -/

/-- What the sound stop of an owner whose ports stopped leaves alone. -/
structure StopKeeps (s u : State) : Prop where
  hostUnit : u.hostUnit = s.hostUnit
  link : u.link = s.link
  hostLink : u.attn.hostLink = s.attn.hostLink
  tablet : u.attn.tablet = s.attn.tablet
  clock : u.clock = s.clock
  sound : u.sound.owner = s.sound.owner

theorem StopsPorts.keeps {s t : State} {who : Six Bool} {f : Port → Port} {b : Bool} (h : StopsPorts s t who f b) : StopKeeps s t := by
  rw [h.rest]; exact ⟨rfl, rfl, rfl, rfl, rfl, rfl⟩

theorem StopKeeps.soundStop {s t : State} (h : StopKeeps s t) (c : Prop) [Decidable c] (x : OutcomeCode) :
    StopKeeps s (if c then t.soundStop x else t) := by
  split
  · rw [State.soundStop_eq, Sound.stopped_eq]
    refine ⟨h.hostUnit, h.link, ?_, ?_, h.clock, h.sound⟩
    · rw [← h.hostLink]; dsimp only; split <;> rfl
    · rw [← h.tablet]; dsimp only; split <;> rfl
  · exact h

/-- A sound stop and the tablet link have nothing to do with each other (R125). -/
theorem soundStop_withLink (s : State) (k : Link) (n : Nat) (x : OutcomeCode) :
    ({ s with link := k, attn := { s.attn with tablet := n } } : State).soundStop x =
      { s.soundStop x with link := k, attn := { (s.soundStop x).attn with tablet := n } } := by
  unfold State.soundStop State.raiseIf
  dsimp only
  split <;> rfl

/-- Settles O19: the fail stop and the sound stop touch neither the host unit nor HOST_LINK's entry. -/
theorem hostWatchExpiryStops : Obligations.HostWatchExpiryStops := by
  intro s calm
  have runs : exec .hostWatchExpiry s = .next s.watchExpires.settle := by
    show Host.Outcome.next (s.command _) = _
    rw [command_calm calm]
  refine ⟨fun since armed => ?_, fun idle => ?_⟩
  · have stops := failStop_stops s (s.ownedBy .brick) .watch
    refine ⟨_, stops, ?_⟩
    have keeps := stops.keeps.soundStop (s.sound.owner = .brick) .watch
    rw [runs, State.watchExpires, armed]
    dsimp only
    rw [← keeps.hostUnit, ← keeps.hostLink]
    rfl
  · have still : s.watchExpires = s := by
      unfold State.watchExpires
      rcases idle with h | h <;> rw [h]
    rw [runs, still, settle_of_calm calm]

/-- Settles O22: below the limit the timer starts again; at the limit the link, which is UP, goes QUIET. -/
theorem quietTimerStrikes : Obligations.QuietTimerStrikes := by
  intro s calm strikes
  have runs : exec .quietTimerExpiry s = .next s.quietExpires.settle := by
    show Host.Outcome.next (s.command _) = _
    rw [command_calm calm]
  refine ⟨fun running => ⟨fun below => ?_, fun limited reached up => ?_⟩, fun stopped => ?_⟩
  · rw [runs, State.quietExpires, if_pos (Option.isSome_iff_ne_none.mpr running)]
    dsimp only
    rw [if_neg]
    · rfl
    · show ¬ (decide (1 ≤ s.link.strikeLimit) && decide (s.link.strikeLimit ≤ strikes)) = true
      simp only [Bool.and_eq_true, decide_eq_true_eq]
      omega
  · let raised : State := { s with
      link := { s.link with strikes := strikes }, attn := { s.attn with tablet := min 255 (s.attn.tablet + 1) } }
    have stops := failStop_stops raised (s.ownedBy .remote) .quiet
    generalize ended : raised.failStop (s.ownedBy .remote) .quiet = t at stops
    refine ⟨{ t with link := s.link, attn := { t.attn with tablet := s.attn.tablet } }, ⟨stops.ports, stops.raised, ?_⟩, ?_⟩
    · rw [stops.rest]
    · have expires : s.quietExpires = raised.strikeLimit := by
        rw [State.quietExpires, if_pos (Option.isSome_iff_ne_none.mpr running)]
        exact if_pos (by rw [Bool.and_eq_true, decide_eq_true_eq, decide_eq_true_eq]; exact ⟨limited, reached⟩)
      have up' : raised.link.state ≠ .quiet := by rw [show raised.link.state = s.link.state from rfl, up]; decide
      have keeps := stops.keeps.soundStop (raised.sound.owner = .remote) .quiet
      rw [runs, expires, State.strikeLimit, show raised.ownedBy .remote = s.ownedBy .remote from rfl, ended]
      dsimp only
      rw [setLinkState_eq, keeps.link, if_neg up', keeps.tablet]
      by_cases own : s.sound.owner = .remote
      · have own' : raised.sound.owner = .remote := own
        rw [if_pos own, if_pos own', soundStop_withLink t s.link s.attn.tablet]
        rfl
      · have own' : raised.sound.owner ≠ .remote := own
        rw [if_neg own, if_neg own']
        rfl
  · have still : s.quietExpires = s := by rw [State.quietExpires, stopped]; rfl
    rw [runs, still, settle_of_calm calm]

/-- Settles O31. -/
theorem allStopStopsEverything : Obligations.AllStopStopsEverything := by
  intro tag s ready
  refine ⟨_, clearPorts_stops (s.arrived .host) (Six.all true) (some .allStop) Port.brakeRest
      (fun p => p.stopInto .allStop (.rest .braked) (s.arrived .host).uptime)
      (fun m _ => ((s.arrived .host).port m).brakeRest_cleared .allStop _) (fun m _ => Port.stopInto_discarded _ _ _ _),
    exec_taken rfl ready rfl rfl rfl⟩

theorem ownerOf_code (o : Owner) : ownerOf (BitVec.ofNat 8 o.code) = some o := by cases o <;> rfl
theorem ownerOf_lt {b : Byte} {o : Owner} (named : ownerOf b = some o) : b.toNat < 2 := by
  have := le_of_code (f := ownerOf) (k := 1) (by decide) named
  omega

theorem takeSetOwners_named (owners : Six Owner) (sound : Owner) (s : State) :
    takeSetOwners ⟨owners.map fun o => BitVec.ofNat 8 o.code, BitVec.ofNat 8 sound.code⟩ s =
      .ok ((s.setMotorOwners owners).setSoundOwner sound, []) := by
  simp only [takeSetOwners, motorOwners, Six.map, ownerOf_code, require_some, Check.bind_of_ok]
  rfl

theorem takeSetOwners_bad {r : OwnersRaw} (bad : (r.sound :: Idx6.all.map r.motor.get).any (fun b => 2 ≤ b.toNat) = true) (s : State) :
    takeSetOwners r s = .error ⟨.badParam, []⟩ := by
  refine FailsBy.of_not_ok ?_ fun a h => Bool.eq_false_iff.mp (List.any_eq_false.mpr ?_) bad
  · refine .bind ?_ fun _ _ => .bind (.require _) fun _ _ => .pure _
    exact .bind (.require _) fun _ _ => .bind (.require _) fun _ _ => .bind (.require _) fun _ _ => .bind (.require _) fun _ _ =>
      .bind (.require _) fun _ _ => .bind (.require _) fun _ _ => .pure _
  · simp only [takeSetOwners, motorOwners, Check.bind_ok, require_ok] at h
    obtain ⟨_, ⟨_, i0, _, i1, _, i2, _, i3, _, i4, _, i5, _⟩, _, sound, _⟩ := h
    intro b mem
    rw [decide_eq_true_iff, Nat.not_le]
    simp only [Idx6.all, List.map, Six.get, List.mem_cons, List.not_mem_nil, or_false] at mem
    rcases mem with rfl | rfl | rfl | rfl | rfl | rfl | rfl
    exacts [ownerOf_lt sound, ownerOf_lt i0, ownerOf_lt i1, ownerOf_lt i2, ownerOf_lt i3, ownerOf_lt i4, ownerOf_lt i5]

/-- Settles O30: the ports whose owner changes have one fail stop together; then every owner is written. -/
theorem setOwnersFailStops : Obligations.SetOwnersFailStops := by
  intro tag s ready
  refine ⟨fun owners sound => ?_, fun r bad => exec_refused rfl ready rfl rfl (takeSetOwners_bad bad _)⟩
  intro r
  have stops := failStop_stops (s.arrived .host) (Six.ofFn fun m => ((s.arrived .host).port m).owner != owners.get m) .ownerChanged
  refine ⟨_, stops, exec_taken rfl ready rfl rfl ((takeSetOwners_named owners sound _).trans ?_)⟩
  have kept : ((s.arrived .host).setMotorOwners owners).sound.owner = s.sound.owner := stops.keeps.sound
  unfold State.setSoundOwner
  rw [kept]
  by_cases same : s.sound.owner = sound
  · rw [if_pos same, if_pos same.symm]; rfl
  · rw [if_neg same, if_neg (Ne.symm same)]; rfl

end Sys2Proof.Machine
end

-- ==== Sys2Proof/Proofs/PortRequests.lean ====

section
/-! The requests on a motor port (R1 to R5, R11 to R13, R19, R24): each request's checks in their order, and what an accepted one does. -/

namespace Sys2Proof.Machine

/-! ### The port a request names (R3) -/

theorem motorOf_index (m : Idx6) : motorOf (BitVec.ofNat 8 m.toNat) = some m := by cases m <;> rfl

theorem motorOf_none {port : Byte} (h : 6 ≤ port.toNat) : motorOf port = none := by
  unfold motorOf Idx6.ofNat?
  split <;> first | omega | rfl

/-! ### PORT_SETUP (R1, R3) -/

theorem polarityOf_code (p : Polarity) : polarityOf (BitVec.ofNat 8 p.code) = some p := by cases p <;> rfl
theorem failActionOf_code (a : FailAction) : failActionOf (BitVec.ofNat 8 a.code) = some a := by cases a <;> rfl
theorem code_of_polarityOf {b : Byte} {p : Polarity} (h : polarityOf b = some p) : BitVec.ofNat 8 p.code = b := by
  revert b; cases p <;> decide
theorem code_of_failActionOf {b : Byte} {a : FailAction} (h : failActionOf b = some a) : BitVec.ofNat 8 a.code = b := by
  revert b; cases a <;> decide

theorem checkPortConfig_raw {c : PortConfig} (a : Half) (ranges : c.inRanges = true) :
    checkPortConfig { c.raw with accel := a } =
      .ok ({ c with accel := max 100 (min 20000 a.toNat) }, max 100 (min 20000 a.toNat) != a.toNat) := by
  simp only [PortConfig.inRanges, Bool.and_eq_true, decide_eq_true_eq, and_assoc] at ranges
  obtain ⟨speed, speed', accel, accel', kp, ki, kf, duty, stall, stall', slow, time, time', tolerance, hold, hold'⟩ := ranges
  have half {n : Nat} (h : n ≤ 2047) : (BitVec.ofNat 16 n).toNat = n := Nat.mod_eq_of_lt (by omega)
  have byte {n : Nat} (h : n ≤ 255) : (BitVec.ofNat 8 n).toNat = n := Nat.mod_eq_of_lt (by omega)
  simp only [checkPortConfig, PortConfig.raw, polarityOf_code, failActionOf_code, require_some, Check.bind_of_ok]
  rw [half (by omega : c.maxSpeed ≤ 2047), half kp, byte ki, half (by omega : c.kf ≤ 2047), half (by omega : c.dutyLimit ≤ 2047),
    half (by omega : c.stallDuty ≤ 2047), half (by omega : c.stallSpeed ≤ 2047), half (by omega : c.stallTime ≤ 2047),
    byte (by omega : c.tolerance ≤ 255), half (by omega : c.holdSpeed ≤ 2047), inRange_of speed speed', inRange_of (Nat.zero_le _) kp,
    inRange_of (Nat.zero_le _) ki, inRange_of (Nat.zero_le _) kf, inRange_of (Nat.zero_le _) duty, inRange_of stall stall',
    inRange_of (Nat.zero_le _) slow, inRange_of time time', inRange_of (Nat.zero_le _) tolerance, inRange_of hold hold']
  rfl

theorem checkPortConfig_bad {r : PortConfigRaw}
    (bad : ¬ ∃ (c : PortConfig) (a : Half), c.inRanges = true ∧ r = { c.raw with accel := a }) :
    checkPortConfig r = .error ⟨.badParam, []⟩ := by
  refine FailsBy.of_not_ok ?_ fun a h => bad ?_
  · exact .bind (.require _) fun _ _ => .bind (.require _) fun _ _ => .bind (.inRange _ _ _) fun _ _ => .bind (.inRange _ _ _) fun _ _ =>
      .bind (.inRange _ _ _) fun _ _ => .bind (.inRange _ _ _) fun _ _ => .bind (.inRange _ _ _) fun _ _ =>
      .bind (.inRange _ _ _) fun _ _ => .bind (.inRange _ _ _) fun _ _ => .bind (.inRange _ _ _) fun _ _ =>
      .bind (.inRange _ _ _) fun _ _ => .bind (.inRange _ _ _) fun _ _ => .bind (.require _) fun _ _ => .pure _
  · simp only [checkPortConfig, Check.bind_ok, require_ok, inRange_ok] at h
    obtain ⟨mp, motor, ep, encoder, _, ⟨speed, rfl⟩, _, ⟨kp, rfl⟩, _, ⟨ki, rfl⟩, _, ⟨kf, rfl⟩, _, ⟨duty, rfl⟩, _, ⟨stall, rfl⟩, _,
      ⟨slow, rfl⟩, _, ⟨time, rfl⟩, _, ⟨tolerance, rfl⟩, _, ⟨hold, rfl⟩, fa, fail, _⟩ := h
    refine ⟨⟨mp, ep, r.maxSpeed.toNat, 100, r.kp.toNat, r.ki.toNat, r.kf.toNat, r.dutyLimit.toNat, r.stallDuty.toNat, r.stallSpeed.toNat,
      r.stallTime.toNat, r.tolerance.toNat, r.holdSpeed.toNat, fa⟩, r.accel, ?_, ?_⟩
    · simp [PortConfig.inRanges, speed, kp, ki, kf, duty, stall, slow, time, tolerance, hold]
    · simp only [PortConfig.raw, code_of_polarityOf motor, code_of_polarityOf encoder, code_of_failActionOf fail, BitVec.ofNat_toNat,
        BitVec.setWidth_eq]

/-- Settles O23. -/
theorem portSetupIsHeldPending : Obligations.PortSetupIsHeldPending := by
  intro tag s ready
  refine ⟨fun m c a ranges => ?_, fun m r bad => ?_, fun port r h => ?_⟩
  · intro port r p current busy
    have busy_eq : (match p.act with | .running _ => true | .groupWait _ => true | _ => false) = busy := by
      show _ = (match p.act with | .running _ => true | .groupWait _ => true | .rest _ => false | .shutdown => false)
      cases p.act <;> rfl
    have current_eq : (p.pendingConfig.getD p.config).encoderPolarity = current := by
      show _ = (match p.pendingConfig with | some q => q.encoderPolarity | none => p.config.encoderPolarity)
      cases p.pendingConfig <;> rfl
    have taken : takePortSetup port r (s.arrived .host) = (do
        need (!busy || c.encoderPolarity == current) .wrongState
        return ((s.arrived .host).modPort m fun p => { p with pendingConfig := some { c with accel := max 100 (min 20000 a.toNat) } },
          flag8 (max 100 (min 20000 a.toNat) != a.toNat))) := by
      rw [takePortSetup, motorOf_index, checkPortConfig_raw a ranges, ← busy_eq, ← current_eq]
      simp only [require_some, Check.bind_of_ok, arrived_port]
      rfl
    by_cases refused : busy = true ∧ c.encoderPolarity ≠ current
    · rw [if_pos refused]
      refine exec_refused (r := .portSetup port r) rfl ready rfl rfl (taken.trans ?_)
      rw [refused.1, beq_false_of_ne refused.2]
      rfl
    · rw [if_neg refused]
      refine exec_taken (r := .portSetup port r) rfl ready rfl rfl (taken.trans ?_)
      have fits : (!busy || c.encoderPolarity == current) = true := by
        rw [Bool.or_eq_true, Bool.not_eq_true', beq_iff_eq]
        by_cases h : busy = true
        · exact .inr (by_contra fun other => refused ⟨h, other⟩)
        · exact .inl (Bool.eq_false_iff.mpr h)
      have clamps : (max 100 (min 20000 a.toNat) != a.toNat) = !decide (100 ≤ a.toNat ∧ a.toNat ≤ 20000) := by
        rw [Bool.eq_iff_iff, bne_iff_ne, Bool.not_eq_true', decide_eq_false_iff_not]
        omega
      rw [fits, clamps]
      by_cases asked : 100 ≤ a.toNat ∧ a.toNat ≤ 20000
      · rw [decide_eq_true asked, if_pos asked]; rfl
      · rw [decide_eq_false asked, if_neg asked]; rfl
  · refine exec_refused (r := .portSetup _ r) rfl ready rfl rfl ?_
    show takePortSetup _ r _ = _
    rw [takePortSetup, motorOf_index, checkPortConfig_bad bad]
    rfl
  · refine exec_refused (r := .portSetup port r) rfl ready rfl rfl ?_
    show takePortSetup _ r _ = _
    rw [takePortSetup, motorOf_none h]
    rfl

/-! ### The checks of the requests on a port (R3) -/

section
variable {l : LineId} {m : Idx6} {s : State}

theorem takeMove_badPort {port : Byte} (h : 6 ≤ port.toNat) (r : MoveRaw) : takeMove l port r s = .error ⟨.badPort, []⟩ := by
  rw [takeMove, motorOf_none h]; rfl
theorem takeMoveNow_badPort {port : Byte} (h : 6 ≤ port.toNat) (r : MoveRaw) : takeMoveNow l port r s = .error ⟨.badPort, []⟩ := by
  rw [takeMoveNow, motorOf_none h]; rfl
theorem takeQueueClear_badPort {port : Byte} (h : 6 ≤ port.toNat) (stop : Byte) :
    takeQueueClear l port stop s = .error ⟨.badPort, []⟩ := by
  rw [takeQueueClear, motorOf_none h]; rfl
theorem takePreset_badPort {port : Byte} (h : 6 ≤ port.toNat) (x : Word) : takePreset l port x s = .error ⟨.badPort, []⟩ := by
  rw [takePreset, motorOf_none h]; rfl

theorem takeMove_notOwner (h : (s.port m).owner ≠ issuerOf l) (r : MoveRaw) :
    takeMove l (BitVec.ofNat 8 m.toNat) r s = .error ⟨.notOwner, []⟩ := by
  simp [takeMove, motorOf_index, beq_false_of_ne h]
theorem takeMoveNow_notOwner (h : (s.port m).owner ≠ issuerOf l) (r : MoveRaw) :
    takeMoveNow l (BitVec.ofNat 8 m.toNat) r s = .error ⟨.notOwner, []⟩ := by
  simp [takeMoveNow, motorOf_index, beq_false_of_ne h]
theorem takeQueueClear_notOwner (h : (s.port m).owner ≠ issuerOf l) (stop : Byte) :
    takeQueueClear l (BitVec.ofNat 8 m.toNat) stop s = .error ⟨.notOwner, []⟩ := by
  simp [takeQueueClear, motorOf_index, beq_false_of_ne h]
theorem takePreset_notOwner (h : (s.port m).owner ≠ issuerOf l) (x : Word) :
    takePreset l (BitVec.ofNat 8 m.toNat) x s = .error ⟨.notOwner, []⟩ := by
  simp [takePreset, motorOf_index, beq_false_of_ne h]

theorem takeMove_powerHold (owns : (s.port m).owner = issuerOf l) (held : s.powerHeld = true) (r : MoveRaw) :
    takeMove l (BitVec.ofNat 8 m.toNat) r s = .error ⟨.powerHold, []⟩ := by
  simp [takeMove, motorOf_index, owns, held]
theorem takeMoveNow_powerHold (owns : (s.port m).owner = issuerOf l) (held : s.powerHeld = true) (r : MoveRaw) :
    takeMoveNow l (BitVec.ofNat 8 m.toNat) r s = .error ⟨.powerHold, []⟩ := by
  simp [takeMoveNow, motorOf_index, owns, held]

/-- MOVE once the port checks have passed (R3, R5). -/
theorem takeMove_owner (owns : (s.port m).owner = issuerOf l) (free : s.powerHeld = false) (r : MoveRaw) :
    takeMove l (BitVec.ofNat 8 m.toNat) r s = (do
      let (mv, clamped) ← checkMove l m false r s
      need ((s.port m).queue.length < 8) .queueFull
      return (s.modPort m fun p => { p with queue := p.queue ++ [mv] }, flag8 clamped ++ u8 ((s.port m).queue.length + 1))) := by
  simp [takeMove, motorOf_index, owns, free]

/-- MOVE_NOW once the port checks have passed (R3, R11). -/
theorem takeMoveNow_owner (owns : (s.port m).owner = issuerOf l) (free : s.powerHeld = false) (r : MoveRaw) :
    takeMoveNow l (BitVec.ofNat 8 m.toNat) r s = (do
      let (mv, clamped) ← checkMove l m true r s
      return (s.clearPorts ((Six.all false).set m true) none (fun p => { p with queue := [mv], replacing := true }), flag8 clamped)) := by
  simp [takeMoveNow, motorOf_index, owns, free]

end

/-- A request on a port is one that either line may send (R135). -/
theorem lineAllows_port (s : State) (l : LineId) (port stop : Byte) (r : MoveRaw) (x : Word) :
    s.lineAllows l (.move port r) = true ∧ s.lineAllows l (.moveNow port r) = true ∧ s.lineAllows l (.queueClear port stop) = true ∧
      s.lineAllows l (.preset port x) = true := by
  cases l <;> exact ⟨rfl, rfl, rfl, rfl⟩

/-- Settles O25. -/
theorem driveRequestRefusals : Obligations.DriveRequestRefusals := by
  intro l tag r stop x s ready
  refine ⟨fun port none => ?_, fun m other => ?_, fun m owns held => ?_⟩
  · obtain ⟨move, now, clear, preset⟩ := lineAllows_port (s.arrived l) l port stop r x
    exact ⟨exec_refused rfl ready rfl move (takeMove_badPort none r), exec_refused rfl ready rfl now (takeMoveNow_badPort none r),
      exec_refused rfl ready rfl clear (takeQueueClear_badPort none stop), exec_refused rfl ready rfl preset (takePreset_badPort none x)⟩
  · intro port
    obtain ⟨move, now, clear, preset⟩ := lineAllows_port (s.arrived l) l port stop r x
    have other : ((s.arrived l).port m).owner ≠ issuerOf l := by rw [arrived_port]; exact other
    exact ⟨exec_refused rfl ready rfl move (takeMove_notOwner other r), exec_refused rfl ready rfl now (takeMoveNow_notOwner other r),
      exec_refused rfl ready rfl clear (takeQueueClear_notOwner other stop), exec_refused rfl ready rfl preset (takePreset_notOwner other x)⟩
  · intro port
    obtain ⟨move, now, _, _⟩ := lineAllows_port (s.arrived l) l port stop r x
    have owns : ((s.arrived l).port m).owner = issuerOf l := by rw [arrived_port]; exact owns
    have held : (s.arrived l).powerHeld = true := by rw [arrived_powerHeld]; exact held
    exact ⟨exec_refused rfl ready rfl move (takeMove_powerHold owns held r),
      exec_refused rfl ready rfl now (takeMoveNow_powerHold owns held r)⟩

/-! ### The record of a MOVE (R4, R99) -/

theorem checkMotion_eq {l : LineId} {maxSpeed : Nat} {mask : Six Bool} {r : MoveRaw} {mv : Move}
    (completes : MoveCompletes l maxSpeed mask r mv) : checkMotion maxSpeed r = .ok (mv.motion, !mv.asAsked r) := by
  rcases completes.motion with ⟨kind, motion⟩ | ⟨kind, motion⟩ | ⟨kind, target, motion⟩ | ⟨kind, motion⟩ | ⟨kind, style, named, motion⟩
  · rw [checkMotion, Move.asAsked, kind, motion]; rfl
  · rw [checkMotion, Move.asAsked, kind, motion]
    simp [clampInt, clampNat, bne, Bool.not_and]
  · have given : (r.target.toInt != -2147483648) = true := bne_iff_ne.mpr target
    rw [checkMotion, Move.asAsked, kind, motion]
    simp only [given, need_true]
    rfl
  · rw [checkMotion, Move.asAsked, kind, motion]; rfl
  · rw [checkMotion, Move.asAsked, kind, motion, named]
    by_cases forever : r.duration = 0#32
    · simp [forever]
    · have : r.duration.toNat ≠ 0 := fun h => forever (BitVec.eq_of_toNat_eq h)
      simp only [require_some, Check.bind_of_ok, clampNat, bne, if_neg this]
      rw [if_neg (show ¬ r.duration = 0 from forever)]
      rfl

theorem checkGuard_eq {l : LineId} {maxSpeed : Nat} {mask : Six Bool} {r : MoveRaw} {mv : Move}
    (completes : MoveCompletes l maxSpeed mask r mv) : checkGuard (issuerOf l) mask r = .ok mv.guard := by
  rcases completes.guard with ⟨absent, guard⟩ | ⟨present, g, guard, sensor, index, low, comparison, threshold, strict, allowed⟩
  · rw [checkGuard, absent, guard]; rfl
  · have permitted : (issuerOf l == .brick || mask.get g.sensor) = true := by
      rcases allowed with rfl | allowed
      · rfl
      · rw [allowed, Bool.or_true]
    rw [checkGuard, present, guard, sensor, comparison, strict, ← index, decide_eq_true low, ← threshold]
    simp [flagOf, permitted]

/-- The record of a MOVE or of a MOVE_NOW completed (R4, R11, R19, R99). -/
theorem checkMove_completes {l : LineId} {m : Idx6} {now : Bool} {r : MoveRaw} {mv : Move} {s : State}
    (completes : MoveCompletes l (match (s.port m).pendingConfig with | some c => c.maxSpeed | none => (s.port m).config.maxSpeed)
      s.link.readMask r mv)
    (grouped : (mv.group == 0 || (!now && s.isMember mv.group m)) = true) : checkMove l m now r s = .ok (mv, !mv.asAsked r) := by
  have speed : (match (s.port m).pendingConfig with | some c => c.maxSpeed | none => (s.port m).config.maxSpeed) =
      ((s.port m).pendingConfig.getD (s.port m).config).maxSpeed := by cases (s.port m).pendingConfig <;> rfl
  have issuer : mv.issuer = issuerOf l := by rw [completes.issuer]; cases l <;> rfl
  rw [speed] at completes
  have guard := checkGuard_eq completes
  rw [← issuer] at guard
  rw [checkMove]
  simp only [checkMotion_eq completes, completes.endAction, ← completes.group, grouped, guard, ← completes.tag, ← issuer,
    Check.bind_of_ok, require_some, need_true]
  rfl

/-! ### The refusals of a record's fields (R3, R4, R11, R99) -/

theorem checkMotion_fails (maxSpeed : Nat) (r : MoveRaw) : FailsBy .badParam (checkMotion maxSpeed r) := by
  rw [checkMotion]
  split
  · exact .ok _
  · exact .ok _
  · exact .bind (.need _) fun _ _ => .pure _
  · exact .ok _
  · refine .bind (.require _) fun _ _ => ?_
    split <;> exact .pure _
  · exact .error

theorem stopStyleOf_isSome (b : Byte) : (stopStyleOf b).isSome = true ↔ b.toNat ≤ 2 := by revert b; decide

/-- The motion fields are in their ranges exactly where their check passes (R4). -/
theorem checkMotion_ok_iff (maxSpeed : Nat) (r : MoveRaw) : (∃ a, checkMotion maxSpeed r = .ok a) ↔
    r.kind.toNat ≤ 4 ∧ (r.kind = 2 → r.target.toInt ≠ -2147483648) ∧ (r.kind = 4 → r.restStyle.toNat ≤ 2) := by
  have two : r.kind = 2 ↔ r.kind.toNat = 2 := BitVec.toNat_inj.symm
  have four : r.kind = 4 ↔ r.kind.toNat = 4 := BitVec.toNat_inj.symm
  rw [two, four, checkMotion]
  generalize r.kind.toNat = kind
  match kind with
  | 0 | 1 | 3 => simp
  | 2 =>
    rw [← bne_iff_ne]
    cases (r.target.toInt != -2147483648) <;> simp
  | 4 =>
    rw [← stopStyleOf_isSome]
    cases stopStyleOf r.restStyle with
    | none => simp
    | some x => by_cases h : r.duration.toNat = 0 <;> simp [h]
  | n + 5 => simp

/-- A record whose own fields are in their ranges, before its group and its guard are looked at (R4, R19). -/
theorem checkMove_fits {l : LineId} {m : Idx6} {now : Bool} {r : MoveRaw} {s : State} (fits : r.fieldsFit) :
    ∃ (motion : Motion) (clamped : Bool) (e : StopStyle), checkMove l m now r s = (do
      need (r.group.toNat == 0 || (!now && s.isMember r.group.toNat m)) .badGroup
      let guard ← checkGuard (issuerOf l) s.link.readMask r
      return (⟨motion, e, r.group.toNat, guard, r.tag, issuerOf l⟩, clamped)) := by
  obtain ⟨kind, target, style, ending⟩ := fits
  obtain ⟨⟨motion, clamped⟩, checked⟩ :=
    (checkMotion_ok_iff ((s.port m).pendingConfig.getD (s.port m).config).maxSpeed r).mpr ⟨kind, target, style⟩
  obtain ⟨e, named⟩ := Option.isSome_iff_exists.mp ((stopStyleOf_isSome r.endAction).mpr ending)
  refine ⟨motion, clamped, e, ?_⟩
  rw [checkMove]
  simp only [checked, named, Check.bind_of_ok, require_some]

theorem checkMove_badParam {l : LineId} {m : Idx6} {now : Bool} {r : MoveRaw} {s : State} (bad : ¬ r.fieldsFit) :
    checkMove l m now r s = .error ⟨.badParam, []⟩ := by
  rw [checkMove]
  cases checked : checkMotion ((s.port m).pendingConfig.getD (s.port m).config).maxSpeed r with
  | error e => rw [checkMotion_fails _ _ e checked]; rfl
  | ok a =>
    cases named : stopStyleOf r.endAction with
    | none => rfl
    | some e =>
      obtain ⟨kind, target, style⟩ := (checkMotion_ok_iff _ r).mp ⟨a, checked⟩
      exact absurd ⟨kind, target, style, (stopStyleOf_isSome _).mp (by rw [named]; rfl)⟩ bad

theorem MoveCompletes.fieldsFit {l : LineId} {maxSpeed : Nat} {mask : Six Bool} {r : MoveRaw} {mv : Move}
    (completes : MoveCompletes l maxSpeed mask r mv) : r.fieldsFit := by
  obtain ⟨kind, target, style⟩ := (checkMotion_ok_iff maxSpeed r).mp ⟨_, checkMotion_eq completes⟩
  exact ⟨kind, target, style, (stopStyleOf_isSome _).mp (by rw [completes.endAction]; rfl)⟩

theorem checkMove_badGroup {l : LineId} {m : Idx6} {now : Bool} {r : MoveRaw} {s : State} (fits : r.fieldsFit)
    (other : (r.group.toNat == 0 || (!now && s.isMember r.group.toNat m)) = false) :
    checkMove l m now r s = .error ⟨.badGroup, []⟩ := by
  obtain ⟨_, _, _, checked⟩ := checkMove_fits (l := l) (m := m) (now := now) (s := s) fits
  rw [checked, other]
  rfl

/-- What a guard's refusal makes of a record whose own fields and group are in order (R99). -/
theorem checkMove_guard {l : LineId} {m : Idx6} {now : Bool} {r : MoveRaw} {s : State} {e : Refused} (fits : r.fieldsFit)
    (grouped : (r.group.toNat == 0 || (!now && s.isMember r.group.toNat m)) = true)
    (refused : checkGuard (issuerOf l) s.link.readMask r = .error e) : checkMove l m now r s = .error e := by
  obtain ⟨_, _, _, checked⟩ := checkMove_fits (l := l) (m := m) (now := now) (s := s) fits
  rw [checked, grouped, refused]
  rfl

theorem sensorOf_isSome (b : Byte) : (sensorOf b).isSome = true ↔ 1 ≤ b.toNat ∧ b.toNat ≤ 6 := by revert b; decide
theorem comparisonOf_isSome (b : Byte) : (comparisonOf b).isSome = true ↔ b.toNat ≤ 4 := by revert b; decide

theorem sensorOf_index {b : Byte} {i : Idx6} (named : sensorOf b = some i) : b.toNat = i.toNat + 1 := by
  revert b; cases i <;> decide

/-- A guard whose fields are in their ranges is left with R99's last check, the read mask. -/
theorem checkGuard_fits {o : Owner} {mask : Six Bool} {r : MoveRaw} (present : r.guardPresent = 1) (fits : r.guardFits) :
    ∃ (i : Idx6) (g : Guard), r.guardPort.toNat = i.toNat + 1 ∧ checkGuard o mask r = (do
      need (o == .brick || mask.get i) .notPermitted
      return some g) := by
  rcases fits with absent | ⟨_, first, last, index, comparison, strict⟩
  · rw [present] at absent; cases absent
  obtain ⟨i, sensor⟩ := Option.isSome_iff_exists.mp ((sensorOf_isSome r.guardPort).mpr ⟨first, last⟩)
  obtain ⟨c, compares⟩ := Option.isSome_iff_exists.mp ((comparisonOf_isSome r.guardComparison).mpr comparison)
  refine ⟨i, ⟨i, r.guardIndex.toNat, c, r.guardThreshold.toInt, decide (r.guardStrict = 1)⟩, sensorOf_index sensor, ?_⟩
  rw [checkGuard, present, sensor, compares, flagOf_eq strict, decide_eq_true index]
  rfl

theorem checkGuard_badGuard {o : Owner} {mask : Six Bool} {r : MoveRaw} (bad : ¬ r.guardFits) :
    checkGuard o mask r = .error ⟨.badGuard, []⟩ := by
  obtain ⟨absent, bad⟩ := not_or.mp bad
  rw [checkGuard]
  cases present : flagOf r.guardPresent with
  | none => rfl
  | some p =>
    cases p with
    | false => exact absurd ((by decide : ∀ b, flagOf b = some false → b = 0) _ present) absent
    | true =>
      cases sensor : sensorOf r.guardPort with
      | none => rfl
      | some i =>
        cases index : decide (r.guardIndex.toNat ≤ 3) with
        | false => simp
        | true =>
          cases comparison : comparisonOf r.guardComparison with
          | none => simp
          | some c =>
            cases strict : flagOf r.guardStrict with
            | none => simp
            | some b =>
              obtain ⟨first, last⟩ := (sensorOf_isSome r.guardPort).mp (by rw [sensor]; rfl)
              exact absurd ⟨(by decide : ∀ b, flagOf b = some true → b = 1) _ present, first, last, of_decide_eq_true index,
                le_of_code (by decide) comparison, le_of_code (by decide) strict⟩ bad

theorem checkGuard_notPermitted {l : LineId} {mask : Six Bool} {r : MoveRaw} (fits : r.guardFits) (held : ¬ r.guardAllowed l mask) :
    checkGuard (issuerOf l) mask r = .error ⟨.notPermitted, []⟩ := by
  obtain ⟨absent, held⟩ := not_or.mp held
  obtain ⟨foreign, outside⟩ := not_or.mp held
  obtain ⟨i, g, port, checked⟩ := checkGuard_fits (o := issuerOf l) (mask := mask) (fits.resolve_left absent).1 fits
  have masked : (issuerOf l == .brick || mask.get i) = false := by
    cases l with
    | host => exact absurd rfl foreign
    | tablet => exact Bool.eq_false_iff.mpr fun readable => outside ⟨i, port, readable⟩
  rw [checked, masked]
  rfl

/-! ### MOVE (R4, R5) -/

theorem arrived_isMember (s : State) (l : LineId) (g : Nat) (m : Idx6) : (s.arrived l).isMember g m = s.isMember g m := by
  unfold State.isMember State.groupMembers
  rw [arrived_groups]

theorem group_eq_zero (b : Byte) : b.toNat = 0 ↔ b = 0 := by rw [← BitVec.toNat_inj]; rfl

/-- Settles O24. -/
theorem moveIsQueued : Obligations.MoveIsQueued := by
  refine ⟨fun l tag m r mv s ready owns free completes member => ?_, fun l tag m r s ready owns free => ?_⟩
  · intro port
    have allowed := (lineAllows_port (s.arrived l) l port 0 r 0).1
    have checked : checkMove l m false r (s.arrived l) = .ok (mv, !mv.asAsked r) := by
      refine checkMove_completes (by rw [arrived_port, arrived_readMask]; exact completes) ?_
      rw [arrived_isMember]
      simpa using member
    have taken := takeMove_owner (l := l) (m := m) (s := s.arrived l) (by simpa using owns) (by simpa using free) r
    rw [checked, arrived_port] at taken
    by_cases room : (s.port m).queue.length < 8
    · rw [if_pos room]
      refine exec_taken rfl ready rfl allowed (taken.trans ?_)
      rw [decide_eq_true room]
      cases mv.asAsked r <;> rfl
    · rw [if_neg room]
      refine exec_refused rfl ready rfl allowed (taken.trans ?_)
      rw [decide_eq_false room]
      rfl
  · intro port refused grouped
    have allowed := (lineAllows_port (s.arrived l) l port 0 r 0).1
    have of_checked {x : Status} (checked : checkMove l m false r (s.arrived l) = .error ⟨x, []⟩) : refused x := by
      refine exec_refused (r := .move port r) rfl ready rfl allowed ?_
      show takeMove l port r (s.arrived l) = _
      rw [takeMove_owner (by simpa using owns) (by simpa using free), checked]
      rfl
    have mask : (s.arrived l).link.readMask = s.link.readMask := by simp
    have member : (r.group.toNat == 0 || (!false && (s.arrived l).isMember r.group.toNat m)) = decide grouped := by
      rw [arrived_isMember, Bool.eq_iff_iff, decide_eq_true_iff, Bool.or_eq_true, beq_iff_eq, group_eq_zero]
      rfl
    refine ⟨fun bad => of_checked (checkMove_badParam bad), fun fits other => of_checked (checkMove_badGroup fits ?_),
      fun fits isIn bad => of_checked (checkMove_guard fits ?_ (checkGuard_badGuard bad)),
      fun fits isIn guard held => of_checked (checkMove_guard fits ?_ (checkGuard_notPermitted guard (by rw [mask]; exact held)))⟩
    · rw [member]; exact decide_eq_false other
    · rw [member]; exact decide_eq_true isIn
    · rw [member]; exact decide_eq_true isIn

/-! ### MOVE_NOW (R11, R22) -/

/-- Settles O26. -/
theorem moveNowReplacesQueue : Obligations.MoveNowReplacesQueue := by
  refine ⟨fun l tag m r mv s ready owns free completes => ?_, fun l tag m r s ready owns free => ?_⟩
  · intro port
    have allowed := (lineAllows_port (s.arrived l) l port 0 r 0).2.1
    have taken := takeMoveNow_owner (l := l) (m := m) (s := s.arrived l) (by simpa using owns) (by simpa using free) r
    have completes : MoveCompletes l (match ((s.arrived l).port m).pendingConfig with
        | some c => c.maxSpeed | none => ((s.arrived l).port m).config.maxSpeed) (s.arrived l).link.readMask r mv := by
      rw [arrived_port, arrived_readMask]; exact completes
    refine ⟨fun alone => ?_, fun grouped => ?_⟩
    · rw [checkMove_completes completes (by simp [alone])] at taken
      refine ⟨(s.arrived l).clearPorts ((Six.all false).set m true) none (fun p => { p with queue := [mv], replacing := true }),
        clearPorts_stops _ _ none _ _ (fun q _ => ?_) (fun q _ => rfl), exec_taken rfl ready rfl allowed (taken.trans ?_)⟩
      · rw [Port.cleared_none]
      · cases mv.asAsked r <;> rfl
    · refine exec_refused rfl ready rfl allowed (taken.trans ?_)
      rw [checkMove_badGroup completes.fieldsFit (by simp [← completes.group, grouped])]
      rfl
  · intro port refused
    have allowed := (lineAllows_port (s.arrived l) l port 0 r 0).2.1
    have of_checked {x : Status} (checked : checkMove l m true r (s.arrived l) = .error ⟨x, []⟩) : refused x := by
      refine exec_refused (r := .moveNow port r) rfl ready rfl allowed ?_
      show takeMoveNow l port r (s.arrived l) = _
      rw [takeMoveNow_owner (by simpa using owns) (by simpa using free), checked]
      rfl
    have group : (r.group.toNat == 0 || (!true && (s.arrived l).isMember r.group.toNat m)) = decide (r.group = 0) := by
      rw [Bool.eq_iff_iff, decide_eq_true_iff, Bool.or_eq_true, beq_iff_eq, group_eq_zero]
      simp
    refine ⟨fun bad => of_checked (checkMove_badParam bad), fun fits other => of_checked (checkMove_badGroup fits ?_),
      fun fits alone bad => of_checked (checkMove_guard fits ?_ (checkGuard_badGuard bad)),
      fun fits alone guard held => of_checked (checkMove_guard fits ?_ (checkGuard_notPermitted guard (by
        rw [arrived_readMask]; exact held)))⟩
    · rw [group]; exact decide_eq_false other
    · rw [group]; exact decide_eq_true alone
    · rw [group]; exact decide_eq_true alone

/-! ### QUEUE_CLEAR, PRESET and GROUP_DEFINE (R12, R13, R19) -/

/-- The one port of a set of one. -/
theorem eq_of_single {m q : Idx6} (h : ((Six.all false).set m true).get q = true) : q = m := by
  by_contra other
  rw [Six.get_set, if_neg other, Six.get_all] at h
  cases h

/-- Where no port of the set runs a move, it is the same to say that running moves end (R18). -/
theorem StopsPorts.of_idle {a t : State} {who : Six Bool} {f : Port → Port} (h : StopsPorts a t who f false)
    (idle : ∀ q, who.get q = true → (a.port q).isRunning = false) : StopsPorts a t who f true := by
  refine { h with raised := fun q => (h.raised q).trans ?_ }
  cases isIn : who.get q
  · rfl
  · rw [idle q isIn]; rfl

theorem takeQueueClear_badFlag {l : LineId} {m : Idx6} {stop : Byte} {s : State} (owns : (s.port m).owner = issuerOf l)
    (bad : flagOf stop = none) : takeQueueClear l (BitVec.ofNat 8 m.toNat) stop s = .error ⟨.badParam, []⟩ := by
  simp [takeQueueClear, motorOf_index, owns, bad]

theorem takeQueueClear_ends {l : LineId} {m : Idx6} {s : State} {r : Running} (owns : (s.port m).owner = issuerOf l)
    (act : (s.port m).act = .running r) : takeQueueClear l (BitVec.ofNat 8 m.toNat) 1 s = .ok
      (s.clearPorts ((Six.all false).set m true) (some .replaced) (Port.enterRest (restOf r.move.endAction)),
        u8 (s.port m).queue.length) := by
  simp [takeQueueClear, motorOf_index, owns, act, flagOf]

theorem takeQueueClear_keeps {l : LineId} {m : Idx6} {stops : Bool} {s : State} (owns : (s.port m).owner = issuerOf l)
    (idle : stops = false ∨ (s.port m).isRunning = false) :
    takeQueueClear l (BitVec.ofNat 8 m.toNat) (if stops then 1 else 0) s = .ok
      (s.clearPorts ((Six.all false).set m true) none id, u8 (s.port m).queue.length) := by
  cases stops with
  | false => simp [takeQueueClear, motorOf_index, owns, flagOf]
  | true =>
    have idle := idle.resolve_left nofun
    cases act : (s.port m).act with
    | running r => rw [Port.isRunning, act] at idle; cases idle
    | _ => simp [takeQueueClear, motorOf_index, owns, flagOf, act]

/-- A port whose running move ends with its end action, its queue discarded (R13, R15, R18). -/
theorem Port.enterRest_cleared {p : Port} {r : Running} (act : p.act = .running r) (x : OutcomeCode) (uptime : Word) :
    (p.cleared (some x) uptime).enterRest (restOf r.move.endAction) =
      ({ p with queue := [], replacing := false, discarded := min 255 (p.discarded + p.queue.length) } : Port).endedBy r.move x uptime := by
  rw [p.cleared_some, Port.endedBy]
  cases r.move.endAction <;> simp only [Port.stoppedBy, act, restOf, Port.enterRest]

theorem Port.endedBy_discarded (p : Port) (mv : Move) (x : OutcomeCode) (uptime : Word) :
    (p.endedBy mv x uptime).discarded = p.discarded := by
  unfold Port.endedBy
  cases mv.endAction <;> rfl

/-- What QUEUE_CLEAR makes of its port (R13): its queue discarded, and with the flag set a running move ended. -/
def Port.queueCleared (stops : Bool) (uptime : Word) (p : Port) : Port :=
  let cleared : Port := { p with queue := [], replacing := false, discarded := min 255 (p.discarded + p.queue.length) }
  match stops, p.act with
  | true, .running r => cleared.endedBy r.move .replaced uptime
  | _, a => { cleared with act := a.notWaiting }

theorem Port.queueCleared_ends {p : Port} {r : Running} (act : p.act = .running r) (uptime : Word) :
    (p.cleared (some .replaced) uptime).enterRest (restOf r.move.endAction) = p.queueCleared true uptime := by
  rw [Port.enterRest_cleared act]
  unfold Port.queueCleared
  rw [act]

theorem Port.queueCleared_keeps {p : Port} {stops : Bool} (idle : stops = false ∨ p.isRunning = false) (uptime : Word) :
    p.cleared none uptime = p.queueCleared stops uptime := by
  rw [Port.cleared_none]
  unfold Port.queueCleared
  cases stops with
  | false => cases p.act <;> rfl
  | true =>
    have idle := idle.resolve_left nofun
    cases act : p.act with
    | running r => rw [Port.isRunning, act] at idle; cases idle
    | _ => rfl

theorem Port.queueCleared_discarded (p : Port) (stops : Bool) (uptime : Word) :
    (p.queueCleared stops uptime).discarded = satAdd 255 p.discarded p.queue.length := by
  unfold Port.queueCleared
  split
  · exact Port.endedBy_discarded _ _ _ _
  · rfl

/-- Settles O27: with the flag set on a port that runs a move that move ends; in every other case the port is only cleared. -/
theorem queueClearDiscards : Obligations.QueueClearDiscards := by
  intro l tag m stops other s ready owns port stop
  have owns : ((s.arrived l).port m).owner = issuerOf l := by rw [arrived_port]; exact owns
  have allowed (b : Byte) : (s.arrived l).lineAllows l (.queueClear port b) = true := by cases l <;> rfl
  refine ⟨fun bad => exec_refused rfl ready rfl (allowed _) (takeQueueClear_badFlag owns ?_), ?_⟩
  · unfold flagOf
    split <;> first | omega | rfl
  suffices ends : ∃ t, StopsPorts (s.arrived l) t ((Six.all false).set m true) (Port.queueCleared stops (s.arrived l).uptime) stops ∧
      takeQueueClear l port stop (s.arrived l) = .ok (t, u8 ((s.arrived l).port m).queue.length) by
    obtain ⟨t, stopped, taken⟩ := ends
    rw [arrived_port] at taken
    rw [arrived_uptime] at stopped
    exact ⟨t, stopped, exec_taken rfl ready rfl (allowed _) taken⟩
  have counts (q : Idx6) (_ : ((Six.all false).set m true).get q = true) := ((s.arrived l).port q).queueCleared_discarded stops (s.arrived l).uptime
  by_cases ends : stops = true ∧ ((s.arrived l).port m).isRunning = true
  · obtain ⟨rfl, runs⟩ := ends
    obtain ⟨r, act⟩ := Port.act_of_isRunning runs
    refine ⟨_, clearPorts_stops _ _ (some .replaced) (Port.enterRest (restOf r.move.endAction)) _ (fun q isIn => ?_) counts,
      takeQueueClear_ends owns act⟩
    rw [eq_of_single isIn]
    exact Port.queueCleared_ends act _
  · have idle : stops = false ∨ ((s.arrived l).port m).isRunning = false := by
      cases stops
      · exact .inl rfl
      · exact .inr (Bool.eq_false_iff.mpr fun runs => ends ⟨rfl, runs⟩)
    have stopped := clearPorts_stops (s.arrived l) ((Six.all false).set m true) none id (Port.queueCleared stops (s.arrived l).uptime)
      (fun q isIn => by rw [eq_of_single isIn]; exact Port.queueCleared_keeps idle _) counts
    refine ⟨_, ?_, takeQueueClear_keeps owns idle⟩
    cases stops
    · exact stopped
    · exact stopped.of_idle fun q isIn => by rw [eq_of_single isIn]; exact idle.resolve_left nofun

/-- A rest that PRESET finds a port in (R12). -/
theorem presets_eq (a : Activity) : (match a with | .rest .holding => false | .rest _ => true | .shutdown => true | _ => false) =
    decide (a ∈ [.rest .free, .rest .braked, .rest .stalled, .shutdown]) := by
  cases a with
  | rest r => cases r <;> rfl
  | shutdown => rfl
  | groupWait r => simp
  | running r => simp

/-- Settles O28. -/
theorem presetSetsPosition : Obligations.PresetSetsPosition := by
  intro l tag m x s ready owns port v
  have owns : ((s.arrived l).port m).owner = issuerOf l := by rw [arrived_port]; exact owns
  have allowed : (s.arrived l).lineAllows l (.preset port x) = true := by cases l <;> rfl
  have taken : takePreset l port x (s.arrived l) = (do
      need (v != -2147483648) .badParam
      need (decide ((s.port m).act ∈ [.rest .free, .rest .braked, .rest .stalled, .shutdown])) .wrongState
      return ((s.arrived l).modPort m fun p => { p with position := v, history := ⟨v, v, v, v, v, v, v, v⟩, rawCount := 0 }, [])) := by
    rw [takePreset, motorOf_index, ← presets_eq]
    simp only [require_some, Check.bind_of_ok, owns, beq_self_eq_true, need_true]
    rw [arrived_port] <;> rfl
  by_cases least : v = -2147483648
  · rw [if_pos least]
    refine exec_refused rfl ready rfl allowed (taken.trans ?_)
    rw [least]; rfl
  rw [if_neg least]
  have given : (v != -2147483648) = true := bne_iff_ne.mpr least
  rw [given] at taken
  by_cases stands : (s.port m).act ∈ [.rest .free, .rest .braked, .rest .stalled, .shutdown]
  · rw [if_pos stands]
    refine exec_taken rfl ready rfl allowed (taken.trans ?_)
    rw [decide_eq_true stands]; rfl
  · rw [if_neg stands]
    refine exec_refused rfl ready rfl allowed (taken.trans ?_)
    rw [decide_eq_false stands]; rfl

/-- Settles O29. -/
theorem groupDefineSetsEntry : Obligations.GroupDefineSetsEntry := by
  intro l tag group members s ready set refused
  have allowed : (s.arrived l).lineAllows l (.groupDefine group members) = true := by cases l <;> rfl
  have readyFor (g : Nat) (m : Idx6) : (s.arrived l).readyFor g m = s.readyFor g m := by
    simp only [State.readyFor, arrived_isMember, arrived_port]
  have taken : takeGroupDefine l group members (s.arrived l) = (do
      need (decide (1 ≤ group.toNat) && decide (group.toNat ≤ 15)) .badGroup
      let set ← require (setOf members) .badParam
      need (members.toNat != 0) .badParam
      need (Idx6.all.all fun m => !set.get m || (s.port m).owner == issuerOf l) .notOwner
      need (!(Idx6.all.any fun m => s.readyFor group.toNat m)) .busy
      return ({ s.arrived l with groups := s.groups.set (group.toNat - 1) (some set) }, [])) := by
    simp only [takeGroupDefine, arrived_port, readyFor, arrived_groups]
  by_cases outside : group.toNat = 0 ∨ 15 < group.toNat
  · rw [if_pos outside]
    refine exec_refused rfl ready rfl allowed (taken.trans ?_)
    have : (decide (1 ≤ group.toNat) && decide (group.toNat ≤ 15)) = false := by simp; omega
    rw [this]; rfl
  have inside : (decide (1 ≤ group.toNat) && decide (group.toNat ≤ 15)) = true := by simp; omega
  rw [if_neg outside]
  rw [inside] at taken
  by_cases wrong : members = 0 ∨ 64 ≤ members.toNat
  · rw [if_pos wrong]
    refine exec_refused rfl ready rfl allowed (taken.trans ?_)
    rcases wrong with rfl | above
    · rfl
    · rw [setOf, if_neg (by omega)]; rfl
  obtain ⟨some_member, below⟩ := not_or.mp wrong
  have given : (members.toNat != 0) = true := bne_iff_ne.mpr fun h => some_member ((group_eq_zero _).mp h)
  rw [if_neg wrong]
  rw [setOf_eq (by omega), given] at taken
  have owned : (Idx6.all.all fun m => !set.get m || (s.port m).owner == issuerOf l) =
      !decide (∃ m ∈ Idx6.all, set.get m = true ∧ (s.port m).owner ≠ issuerOf l) := by
    rw [Bool.eq_iff_iff, List.all_eq_true, Bool.not_eq_true', decide_eq_false_iff_not]
    simp [imp_iff_not_or]
  have isReady : (Idx6.all.any fun m => s.readyFor group.toNat m) = decide (∃ m ∈ Idx6.all, s.readyFor group.toNat m = true) := by
    rw [Bool.eq_iff_iff, List.any_eq_true, decide_eq_true_iff]
  rw [isReady] at taken
  replace taken : takeGroupDefine l group members (s.arrived l) = (do
      need (!decide (∃ m ∈ Idx6.all, set.get m = true ∧ (s.port m).owner ≠ issuerOf l)) .notOwner
      need (!decide (∃ m ∈ Idx6.all, s.readyFor group.toNat m = true)) .busy
      return ({ s.arrived l with groups := s.groups.set (group.toNat - 1) (some set) }, [])) := by
    rw [← owned]; exact taken
  by_cases foreign : ∃ m ∈ Idx6.all, set.get m = true ∧ (s.port m).owner ≠ issuerOf l
  · rw [if_pos foreign]
    refine exec_refused rfl ready rfl allowed (taken.trans ?_)
    rw [decide_eq_true foreign]; rfl
  rw [if_neg foreign]
  rw [decide_eq_false foreign] at taken
  by_cases waits : ∃ m ∈ Idx6.all, s.readyFor group.toNat m = true
  · rw [if_pos waits]
    refine exec_refused rfl ready rfl allowed (taken.trans ?_)
    rw [decide_eq_true waits]; rfl
  · rw [if_neg waits]
    refine exec_taken rfl ready rfl allowed (taken.trans ?_)
    rw [decide_eq_false waits]; rfl

/-- The places that a change of the encoder channels goes on by on the cycle of R24. -/
theorem turn_eq (to_ from_ : Bool × Bool) : (pairPlace to_ + 4 - pairPlace from_) % 4 =
    if to_ = (!from_.2, from_.1) then 1 else if to_ = (from_.2, !from_.1) then 3 else if to_ = (!from_.1, !from_.2) then 2 else 0 := by
  revert to_ from_; decide

/-- A change of one channel is no change of both (R24). -/
theorem one_not_both (from_ : Bool × Bool) : (!from_.2, from_.1) ≠ (!from_.1, !from_.2) ∧ (from_.2, !from_.1) ≠ (!from_.1, !from_.2) := by
  revert from_; decide

theorem Port.encoderChange_eq (p : Port) (pair : Bool × Bool) : p.encoderChange pair = { p with
    encLevels := pair
    refPair := pair
    rawCount := if pair = (!p.refPair.2, p.refPair.1) then max (-32767) (min 32767 (p.rawCount + 1))
      else if pair = (p.refPair.2, !p.refPair.1) then max (-32767) (min 32767 (p.rawCount - 1)) else p.rawCount
    encErrors := if pair = (!p.refPair.1, !p.refPair.2) then min 65535 (p.encErrors + 1) else p.encErrors } := by
  obtain ⟨oneF, oneB⟩ := one_not_both p.refPair
  unfold Port.encoderChange
  rw [turn_eq]
  by_cases forward : pair = (!p.refPair.2, p.refPair.1)
  · simp only [if_pos forward, if_neg (forward ▸ oneF), clampInt]
  by_cases back : pair = (p.refPair.2, !p.refPair.1)
  · simp only [if_neg forward, if_pos back, if_neg (back ▸ oneB), clampInt]
  by_cases both : pair = (!p.refPair.1, !p.refPair.2)
  · simp only [if_neg forward, if_neg back, if_pos both, satAdd]
  · simp only [if_neg forward, if_neg back, if_neg both]

/-- Settles O32: the turn on the cycle is the difference of the places of the two pairs. -/
theorem encoderTransitionCounts : Obligations.EncoderTransitionCounts := by
  intro m ch1 ch2 s calm p forward back both
  have free := (calm_parts calm).2.2.2
  have runs : exec (.encoderTransition m ch1 ch2) s = .next (s.modPort m (·.encoderChange (ch1, ch2))).settle := by
    show Host.Outcome.next _ = _
    rw [State.commandNoting, free, if_neg (by decide), command_calm calm]
  rw [runs]
  exact congrArg (fun t : State => Host.Outcome.next t.settle) (modPort_congr (Port.encoderChange_eq p (ch1, ch2)))

end Sys2Proof.Machine
end

-- ==== Sys2Proof/Proofs/SupplyCommands.lean ====

section
/-! The converter's due list and order of service (R42, R43, R63), and the supply monitor's commands (R44 to R56). -/

namespace Sys2Proof.Machine

/-! ### The order of service (R43) -/

/-- How many ports the converter looks at before port `i`, the last served being `last` (R43). -/
def servicePlace (last i : Idx6) : Nat := (i.toNat + 5 - last.toNat) % 6

theorem serviceOrder_ordered (last : Idx6) : (serviceOrder last).Pairwise fun i j => servicePlace last i < servicePlace last j := by
  cases last <;> decide

theorem mem_serviceOrder (last i : Idx6) : i ∈ serviceOrder last := by cases last <;> cases i <;> decide

/-- The due sensor port of the lowest place is the first that the converter finds. -/
theorem find?_serviceOrder {last i : Idx6} {due : Six Bool} (isDue : due.get i = true)
    (first : ∀ j, due.get j = true → servicePlace last i ≤ servicePlace last j) :
    (serviceOrder last).find? (fun j => due.get j) = some i := by
  obtain ⟨before, after, split⟩ := List.append_of_mem (mem_serviceOrder last i)
  have ordered := serviceOrder_ordered last
  rw [split, List.pairwise_append] at ordered
  obtain ⟨_, _, lower⟩ := ordered
  rw [split, List.find?_append, List.find?_eq_none.mpr, Option.none_or]
  · exact List.find?_cons_of_pos isDue
  · intro j mem isDue'
    have := lower j mem i (List.mem_cons_self ..)
    have := first j isDue'
    omega

theorem Converter.next_of_first {c : Converter} {i : Idx6} (battery : c.due.battery = false) (current : c.due.current = false)
    (isDue : c.due.sensor.get i = true)
    (first : ∀ j, c.due.sensor.get j = true → servicePlace c.lastServed i ≤ servicePlace c.lastServed j) : c.next = some (.sensor i) := by
  rw [Converter.next, battery, current, find?_serviceOrder isDue first]
  rfl

theorem Converter.next_none {c : Converter} : c.next = none ↔ c.due = ⟨false, false, Six.all false⟩ := by
  obtain ⟨⟨battery, current, sensor⟩, _, last, _, _⟩ := c
  unfold Converter.next
  cases battery
  · cases current
    · suffices (serviceOrder last).find? (fun i => sensor.get i) = none ↔ sensor = Six.all false by simpa using this
      rw [List.find?_eq_none]
      exact ⟨fun none => Six.ext_get fun i => by rw [Six.get_all]; exact Bool.eq_false_iff.mpr (none i (mem_serviceOrder last i)),
        fun nothing i _ => by rw [nothing, Six.get_all]; decide⟩
    · simp
  · simp

/-- The last sensor port served, once this channel has its turn (R43). -/
def Channel.served (last : Idx6) : Channel → Idx6
  | .sensor i => i
  | _ => last

theorem Converter.begin_idle {c : Converter} {ch : Channel} (idle : c.inFlight = none) (next : c.next = some ch) :
    c.begin = { c with due := c.due.leave ch, inFlight := some ⟨ch, false⟩, lastServed := ch.served c.lastServed } := by
  unfold Converter.begin
  rw [idle, next]
  cases ch <;> rfl

theorem Converter.begin_busy {c : Converter} {f : InFlight} (busy : c.inFlight = some f) : c.begin = c := by
  unfold Converter.begin
  rw [busy]

/-- Where the lines have nothing to do, all that happens at once is the converter's beginning. -/
theorem settle_of_linesQuiet {s : State} (h : s.linesQuiet = true) : s.settle = s.modConv Converter.begin := by
  rw [State.settle, serve_of_quiet h]

theorem calm_linesQuiet {s : State} (calm : s.calm = true) : s.linesQuiet = true := by
  simp only [State.calm, State.isQuiet, Bool.and_eq_true] at calm
  exact calm.1.1

/-- A command that changes the converter alone. -/
theorem settle_modConv {s : State} (calm : s.calm = true) (f : Converter → Converter) :
    (s.modConv f).settle = { s with conv := (f s.conv).begin } := by
  have quiet : (s.modConv f).linesQuiet = true := (linesQuiet_modConv s f).trans (calm_linesQuiet calm)
  rw [settle_of_linesQuiet quiet]
  rfl

theorem analogDue_live {s : State} {i : Idx6} {w : AnalogWork} (work : (s.sensorAt i).work = .analog w)
    (live : (s.sensorAt i).record.status ≠ .fault) : s.analogDue i = { s with
      sensor := s.sensor.set i { s.sensorAt i with work := .analog { w with dueAt := w.dueAt + w.period } }
      conv := { s.conv with due := s.conv.due.enter (.sensor i) } } := by
  unfold State.analogDue
  rw [work]
  exact if_neg (by rw [SensorPort.isHeld, beq_iff_eq]; exact live)

theorem analogDue_off {s : State} {i : Idx6} (off : (s.sensorAt i).mode ≠ .analog ∨ (s.sensorAt i).record.status = .fault) :
    s.analogDue i = s := by
  unfold State.analogDue
  rcases off with other | held
  · rw [SensorPort.mode] at other
    cases work : (s.sensorAt i).work with
    | analog w => rw [work] at other; exact absurd rfl other
    | _ => rfl
  · cases (s.sensorAt i).work with
    | analog w => exact if_pos (by rw [SensorPort.isHeld, held]; rfl)
    | _ => rfl

/-- Settles O40. -/
theorem dueChannelsAreServedInOrder : Obligations.DueChannelsAreServedInOrder := by
  refine ⟨fun s calm => ?_, fun i s calm => ⟨fun w work live => ?_, fun off => ?_⟩, fun c idle => ?_⟩
  · show Host.Outcome.next (s.command _) = _
    rw [command_calm calm, settle_modConv calm]
    cases busy : s.conv.inFlight with
    | some f =>
      rw [Converter.begin_busy (c := s.conv.supplyDue) busy]
      unfold Converter.supplyDue
      rw [busy]
      rfl
    | none =>
      rw [Converter.begin_idle (c := s.conv.supplyDue) (ch := .battery) busy rfl]
      rfl
  · have isDue := analogDue_live work live
    have quiet : (s.analogDue i).linesQuiet = true := by
      rw [isDue]
      exact (show _ = s.linesQuiet from rfl).trans (calm_linesQuiet calm)
    show Host.Outcome.next (s.command _) = _
    rw [command_calm calm, settle_of_linesQuiet quiet, isDue]
    cases busy : s.conv.inFlight with
    | some f =>
      rw [State.modConv, Converter.begin_busy (c := { s.conv with due := s.conv.due.enter (.sensor i) }) busy]
      rfl
    | none =>
      have nothing : s.conv.due = ⟨false, false, Six.all false⟩ := by
        have quiet := (calm_parts calm).2.2.1
        rw [Converter.isQuiet, busy] at quiet
        exact Converter.next_none.mp (Option.isNone_iff_eq_none.mp quiet)
      have next : Converter.next { s.conv with due := s.conv.due.enter (.sensor i) } = some (.sensor i) := by
        rw [nothing]
        refine Converter.next_of_first rfl rfl (Six.get_set_same ..) fun j isDue => ?_
        rw [eq_of_single isDue]
      rw [State.modConv, Converter.begin_idle (c := { s.conv with due := s.conv.due.enter (.sensor i) }) busy next]
      have left : (s.conv.due.enter (.sensor i)).leave (.sensor i) = s.conv.due := by
        rw [nothing]
        cases i <;> rfl
      rw [left]
      rfl
  · show Host.Outcome.next (s.command _) = _
    rw [command_calm calm, analogDue_off off, settle_of_calm calm]
  · intro begun place
    refine ⟨fun battery => ?_, fun battery current => ?_, fun i battery current isDue first => ?_, fun nothing => ?_⟩
    · show c.begin.inFlight = _
      rw [Converter.begin_idle (ch := .battery) idle (by rw [Converter.next, battery]; rfl)]
    · show c.begin.inFlight = _
      rw [Converter.begin_idle (ch := .current) idle (by rw [Converter.next, battery, current]; rfl)]
    · show c.begin.inFlight = _ ∧ _
      rw [Converter.begin_idle idle (Converter.next_of_first battery current isDue first)]
      exact ⟨rfl, rfl⟩
    · exact begin_of_quiet (by rw [Converter.isQuiet, Converter.next_none.mpr nothing]; exact Bool.or_true _)

/-! ### POWER_SETUP (R46) -/

/-- The fields of a POWER_SETUP in their ranges and in order (R46). -/
def powerSetupGood (low critical restore limit : Half) : Prop :=
  (∀ x ∈ [low, critical, restore], 5000 ≤ x.toNat ∧ x.toNat ≤ 9500) ∧
    500 ≤ limit.toNat ∧ limit.toNat ≤ 6000 ∧ critical.toNat < restore.toNat ∧ restore.toNat ≤ low.toNat

section
variable {low critical restore limit : Half}

theorem takePowerSetup_good (good : powerSetupGood low critical restore limit) (s : State) :
    takePowerSetup low critical restore limit s =
      .ok (s.setThresholds low.toNat critical.toNat restore.toNat limit.toNat, []) := by
  obtain ⟨voltages, least, most, order, order'⟩ := good
  have v1 := voltages low (by simp)
  have v2 := voltages critical (by simp)
  have v3 := voltages restore (by simp)
  rw [takePowerSetup, inRange_of v1.1 v1.2, inRange_of v2.1 v2.2, inRange_of v3.1 v3.2, inRange_of least most]
  simp only [Check.bind_of_ok, order, order', decide_true, Bool.and_self, need_true]
  rfl

theorem takePowerSetup_bad (bad : ¬ powerSetupGood low critical restore limit) (s : State) :
    takePowerSetup low critical restore limit s = .error ⟨.badParam, []⟩ := by
  refine FailsBy.of_not_ok ?_ fun a h => bad ?_
  · exact .bind (.inRange _ _ _) fun _ _ => .bind (.inRange _ _ _) fun _ _ => .bind (.inRange _ _ _) fun _ _ =>
      .bind (.inRange _ _ _) fun _ _ => .bind (.need _) fun _ _ => .pure _
  · simp only [takePowerSetup, Check.bind_ok, inRange_ok, need_ok, Bool.and_eq_true, decide_eq_true_eq] at h
    obtain ⟨_, ⟨v1, rfl⟩, _, ⟨v2, rfl⟩, _, ⟨v3, rfl⟩, _, ⟨v4, rfl⟩, _, order, _⟩ := h
    refine ⟨fun x mem => ?_, v4.1, v4.2, order⟩
    simp only [List.mem_cons, List.not_mem_nil, or_false] at mem
    rcases mem with rfl | rfl | rfl <;> assumption

end

/-! ### The supply states at a filter update (R47 to R49) -/

theorem Supply.nextMode_critical (u : Supply) (from_ : u.mode ≠ .critical) : u.nextMode = .critical ↔ u.vf ≤ u.vCritical := by
  unfold Supply.nextMode
  cases mode : u.mode with
  | critical => exact absurd mode from_
  | _ => dsimp only; split_ifs <;> simp_all

theorem Supply.nextMode_normal (u : Supply) (from_ : u.mode ∈ [SupplyMode.pending, .normal, .low]) (order : u.vCritical < u.vLow) :
    u.nextMode = .normal ↔ u.vLow ≤ u.vf := by
  unfold Supply.nextMode
  cases mode : u.mode with
  | critical | recovery => rw [mode] at from_; simp at from_
  | _ => dsimp only; split_ifs <;> simp <;> omega

theorem Supply.nextMode_recovery (u : Supply) (from_ : u.mode = .critical) : u.nextMode = .recovery ↔ u.vRestore ≤ u.vf := by
  unfold Supply.nextMode
  rw [from_]
  dsimp only
  split_ifs <;> simp_all

theorem Supply.nextHold_none (u : Supply) (from_ : u.mode = .recovery) (clock : Nat) :
    u.nextHold .recovery clock = none ↔ u.vf < u.vRestore := by
  unfold Supply.nextHold
  rw [from_]
  dsimp only
  split_ifs with under
  · simp [under]
  · cases u.hold <;> simp [under]

theorem Supply.scaleFor_low (u : Supply) : (u.scaleFor .low : Int) =
    max 500 (min 1000 (500 + (500 * ((u.vf : Int) - u.criticalInUse)).tdiv ((u.lowInUse : Int) - u.criticalInUse))) := by
  unfold Supply.scaleFor clampInt
  exact Int.toNat_of_nonneg (by omega)

/-- What the battery sample after a POWER_SETUP takes from it (R45 to R49). -/
theorem batterySample_setThresholds (s : State) (low critical restore limit v : Nat) :
    let u := ((s.setThresholds low critical restore limit).batterySample v).supply
    u.lowInUse = low ∧ u.criticalInUse = critical ∧
      (s.supply.mode ≠ .critical → (u.mode = .critical ↔ u.vf ≤ critical)) ∧
      (s.supply.mode ∈ [SupplyMode.pending, .normal, .low] → critical < low → (u.mode = .normal ↔ low ≤ u.vf)) ∧
      (s.supply.mode = .critical → (u.mode = .recovery ↔ restore ≤ u.vf)) ∧
      (s.supply.mode = .recovery → u.mode = .recovery → (u.hold = none ↔ u.vf < restore)) ∧
      (u.mode = .low → (u.scale : Int) = max 500 (min 1000
        (500 + (500 * ((u.vf : Int) - critical)).tdiv ((low : Int) - critical)))) := by
  intro u
  obtain ⟨causes, after⟩ := batterySample_supply (s.setThresholds low critical restore limit) v
  generalize filtered : (s.setThresholds low critical restore limit).supply.filterUpdate v = f at after
  have mode : f.mode = s.supply.mode := by rw [← filtered]; rfl
  have vLow : f.vLow = low := by rw [← filtered]; rfl
  have vCritical : f.vCritical = critical := by rw [← filtered]; rfl
  have vRestore : f.vRestore = restore := by rw [← filtered]; rfl
  have inUse : f.lowInUse = low ∧ f.criticalInUse = critical := by rw [← filtered]; exact ⟨rfl, rfl⟩
  have is : u = _ := after
  rw [is]
  dsimp only
  rw [← mode, ← vLow, ← vCritical, ← vRestore]
  refine ⟨inUse.1.trans vLow.symm, inUse.2.trans vCritical.symm, f.nextMode_critical, f.nextMode_normal, f.nextMode_recovery,
    fun from_ stays => ?_, fun isLow => ?_⟩
  · rw [stays]
    exact f.nextHold_none from_ _
  · rw [isLow, if_neg (fun h => h.2 rfl), f.scaleFor_low, inUse.1, inUse.2, vLow, vCritical]

theorem currentReading_foldback (s : State) (total : Nat) : (s.currentReading total).supply.foldback =
    if s.supply.limit < total then max 200 (s.supply.foldback - 100)
    else if total < s.supply.limit * 9 / 10 then min 1000 (s.supply.foldback + 25) else s.supply.foldback := by
  show _ = s.supply.nextFoldback total
  unfold State.currentReading
  dsimp only
  split
  · split
    · rw [raisePower_supply, recomputeCeilings_supply]; rfl
    · rw [recomputeCeilings_supply]; rfl
  · rfl

/-- Settles O39. -/
theorem powerSetupReplacesThresholds : Obligations.PowerSetupReplacesThresholds := by
  intro tag low critical restore limit
  refine ⟨fun s ready => ⟨fun good => ?_, fun bad => ?_⟩, fun s ready => exec_notPermitted rfl ready rfl rfl, fun good s => ⟨?_, fun v => ?_, fun total => ?_⟩,
    rfl, rfl, rfl, rfl⟩
  · exact exec_taken (r := .powerSetup low critical restore limit) rfl ready rfl rfl (takePowerSetup_good good _)
  · exact exec_refused (r := .powerSetup low critical restore limit) rfl ready rfl rfl (takePowerSetup_bad bad _)
  · exact holdExpires_setThresholds s _ _ _ _
  · obtain ⟨lowUse, criticalUse, toCritical, toNormal, toRecovery, hold, scale⟩ :=
      batterySample_setThresholds s low.toNat critical.toNat restore.toNat limit.toNat v
    exact ⟨lowUse, criticalUse, toCritical, fun from_ => toNormal from_ (by have := good.2.2.2; omega), toRecovery, hold, scale⟩
  · exact currentReading_foldback _ total

/-! ### Conversions of the supply channels (R44 to R51, R56) -/

/-- The supply monitor after a battery sample, its causes apart (R45 to R49). -/
def State.sampled (s : State) (v : Nat) : State :=
  let u := s.supply.filterUpdate v
  let mode := u.nextMode
  { s with supply := { u with
      mode := mode, hold := u.nextHold mode s.clock
      scale := if mode = s.supply.mode ∧ mode ≠ .low then s.supply.scale else u.scaleFor mode } }

/-- The filter and the hold updated by a battery sample, the supply state not yet (R45, R48). -/
def State.filtered (s : State) (v : Nat) : State :=
  let u := s.supply.filterUpdate v
  { s with supply := { u with hold := u.nextHold u.nextMode s.clock } }

theorem batterySample_eq (s : State) (v : Nat) : s.batterySample v =
    if (s.supply.filterUpdate v).nextMode ≠ s.supply.mode then (s.filtered v).changeSupply (s.supply.filterUpdate v).nextMode
    else if (s.supply.filterUpdate v).nextMode = .low then
      if (s.supply.filterUpdate v).scaleFor .low ≠ s.supply.scale then
        ((s.filtered v).modSupply fun u => { u with scale := (s.supply.filterUpdate v).scaleFor .low }).recomputeCeilings
      else (s.filtered v).modSupply fun u => { u with scale := (s.supply.filterUpdate v).scaleFor .low }
    else s.filtered v := rfl

section
variable {s : State} {v : Nat}

theorem sampled_low (low : (s.supply.filterUpdate v).nextMode = .low) (stays : s.supply.mode = .low) :
    (s.filtered v).modSupply (fun u => { u with scale := (s.supply.filterUpdate v).scaleFor .low }) = s.sampled v := by
  unfold State.sampled State.filtered State.modSupply
  dsimp only
  rw [low, if_neg fun h => h.2 rfl, ← stays]
  rfl

theorem sampled_still (same : (s.supply.filterUpdate v).nextMode = s.supply.mode) (other : s.supply.mode ≠ .low) :
    s.filtered v = s.sampled v := by
  unfold State.sampled State.filtered
  dsimp only
  rw [same, if_pos ⟨rfl, other⟩]
  rfl

theorem sampled_changes (changes : (s.supply.filterUpdate v).nextMode ≠ s.supply.mode) :
    (s.filtered v).modSupply (fun u =>
      { u with mode := (s.supply.filterUpdate v).nextMode, scale := u.scaleFor (s.supply.filterUpdate v).nextMode }) = s.sampled v := by
  unfold State.sampled State.filtered State.modSupply
  dsimp only
  rw [if_neg fun h => changes h.1]
  rfl

/-- A battery sample that leaves the supply state as it is (R49, R51). -/
theorem batterySample_same (same : (s.supply.filterUpdate v).nextMode = s.supply.mode) : s.batterySample v =
    if s.supply.mode = .low ∧ (s.supply.filterUpdate v).scaleFor .low ≠ s.supply.scale then (s.sampled v).recomputeCeilings
    else s.sampled v := by
  rw [batterySample_eq, if_neg (not_not.mpr same)]
  by_cases low : s.supply.mode = .low
  · rw [if_pos (same.trans low), sampled_low (same.trans low) low]
    by_cases moved : (s.supply.filterUpdate v).scaleFor .low ≠ s.supply.scale
    · rw [if_pos moved, if_pos ⟨low, moved⟩]
    · rw [if_neg moved, if_neg fun h => moved h.2]
  · rw [if_neg (fun h => low (same.symm.trans h)), if_neg fun h => low h.1, sampled_still same low]

/-- A change of supply state at a battery sample is no return: RECOVERY is left for CRITICAL alone (R47). -/
theorem nextMode_no_return (u : Supply) : (u.mode == .recovery && (u.nextMode == .normal || u.nextMode == .low)) = false := by
  unfold Supply.nextMode
  cases u.mode with
  | recovery => dsimp only; split_ifs <;> rfl
  | _ => rfl

/-- A battery sample that changes the supply state, but not into CRITICAL (R47, R51, R56). -/
theorem batterySample_changes (changes : (s.supply.filterUpdate v).nextMode ≠ s.supply.mode)
    (up : (s.supply.filterUpdate v).nextMode ≠ .critical) : s.batterySample v = (s.sampled v).recomputeCeilings.raisePower .level := by
  rw [batterySample_eq, if_pos changes, State.changeSupply, sampled_changes changes, if_neg up]
  exact if_neg (by
    show ¬ ((s.supply.filterUpdate v).mode == .recovery && _) = true
    rw [nextMode_no_return]; decide)

/-- A battery sample that takes the supply into CRITICAL (R52, R53). -/
theorem batterySample_critical (changes : (s.supply.filterUpdate v).nextMode ≠ s.supply.mode)
    (down : (s.supply.filterUpdate v).nextMode = .critical) :
    s.batterySample v = ((s.sampled v).recomputeCeilings.criticalEntry.raisePower .critical).raisePower .level := by
  rw [batterySample_eq, if_pos changes, State.changeSupply, sampled_changes changes, if_pos down]
  exact if_neg (by
    show ¬ ((s.supply.filterUpdate v).mode == .recovery && _) = true
    rw [nextMode_no_return]; decide)

end

/-- The ceilings recomputed, written out (R37, R51, R122). -/
theorem recomputeCeilings_form (s : State) : s.recomputeCeilings = { s with
    motor := s.motor.map fun p : Port => { p with
      ceiling := min p.config.dutyLimit (s.supply.scale * s.supply.foldback / 1000)
      duty := max (-((min p.config.dutyLimit (s.supply.scale * s.supply.foldback / 1000) : Nat) : Int))
        (min (min p.config.dutyLimit (s.supply.scale * s.supply.foldback / 1000) : Nat) p.duty) }
    sound := { s.sound with
      ceiling := s.supply.scale * s.supply.foldback / 1000
      gain := s.sound.volume * (s.supply.scale * s.supply.foldback / 1000) / 1000 } } := recomputeCeilings_eq s

/-- R47's table with the states that share a row together. -/
theorem nextMode_eq (u : Supply) : u.nextMode = match u.mode with
    | .pending | .normal => if u.vf ≤ u.vCritical then .critical else if u.vf < u.vLow then .low else .normal
    | .low => if u.vf ≤ u.vCritical then .critical else if u.vLow ≤ u.vf then .normal else .low
    | .critical => if u.vRestore ≤ u.vf then .recovery else .critical
    | .recovery => if u.vf ≤ u.vCritical then .critical else .recovery := by
  unfold Supply.nextMode
  cases u.mode <;> rfl

/-- R48's hold by the state that a filter update leaves. -/
theorem nextHold_eq (u : Supply) (mode : SupplyMode) (clock : Nat) : u.nextHold mode clock = match u.mode with
    | .critical => if mode = .recovery then some clock else u.hold
    | .recovery =>
      if mode = .recovery then (if u.vf < u.vRestore then none else match u.hold with | some t => some t | none => some clock) else none
    | _ => u.hold := by
  unfold Supply.nextHold
  cases u.mode <;> cases mode <;> rfl

/-- R49's scale with the states that have none together. -/
theorem scaleFor_eq (u : Supply) (mode : SupplyMode) : u.scaleFor mode = match mode with
    | .normal => 1000
    | .low => (max 500 (min 1000
        (500 + (500 * ((u.vf : Int) - u.criticalInUse)).tdiv ((u.lowInUse : Int) - u.criticalInUse)))).toNat
    | _ => 0 := by
  unfold Supply.scaleFor clampInt
  cases mode <;> rfl

theorem conversionDone_battery {s : State} {f : InFlight} (inFlight : s.conv.inFlight = some f) (channel : f.channel = .battery) (raw : Nat) :
    s.conversionDone raw = (s.modConv fun c => { c with inFlight := none }).batterySample (raw * 12000 / 4095) := by
  rw [State.conversionDone, inFlight]
  dsimp only
  rw [channel]

theorem conversionDone_current {s : State} {f : InFlight} (inFlight : s.conv.inFlight = some f) (channel : f.channel = .current) (raw : Nat) :
    s.conversionDone raw = (s.modConv fun c => { c with inFlight := none }).currentReading (raw * 8000 / 4095) := by
  rw [State.conversionDone, inFlight]
  dsimp only
  rw [channel]

theorem conversionDone_dropped {s : State} {f : InFlight} {i : Idx6} (inFlight : s.conv.inFlight = some f) (channel : f.channel = .sensor i)
    (dropped : f.dropped = true) (raw : Nat) : s.conversionDone raw = s.modConv fun c => { c with inFlight := none } := by
  rw [State.conversionDone, inFlight]
  dsimp only
  rw [channel, dropped]
  rfl

/-- Settles O41. -/
theorem conversionsUpdateSupply : Obligations.ConversionsUpdateSupply := by
  intro raw f s calm inFlight u recomputed powered idle
  have runs : exec (.conversionComplete raw) s = .next (s.conversionDone raw.toNat).settle := by
    show Host.Outcome.next (s.command _) = _
    rw [command_calm calm]
  refine ⟨fun battery => ?_, fun current => ?_, fun ⟨i, sensor⟩ dropped => ?_⟩
  · intro v vf mode hold scale base
    let a : State := { s with conv := idle }
    have next : (u.filterUpdate v).nextMode = mode := nextMode_eq _
    have scales : (if mode = u.mode ∧ mode ≠ .low then u.scale else (u.filterUpdate v).scaleFor mode) = scale := by
      rw [scaleFor_eq] <;> rfl
    have sampled : a.sampled v = base := by
      have holds : (u.filterUpdate v).nextHold mode s.clock = hold := nextHold_eq _ _ _
      show ({ a with supply := { u.filterUpdate v with
        mode := (u.filterUpdate v).nextMode, hold := (u.filterUpdate v).nextHold (u.filterUpdate v).nextMode s.clock
        scale := if (u.filterUpdate v).nextMode = u.mode ∧ (u.filterUpdate v).nextMode ≠ .low then u.scale
          else (u.filterUpdate v).scaleFor (u.filterUpdate v).nextMode } } : State) = base
      rw [next, holds, scales]
      rfl
    have ceilings : base.recomputeCeilings = recomputed base scale u.foldback := recomputeCeilings_form base
    refine ⟨fun same => ?_, fun changes up => ?_⟩
    · have kept : a.batterySample v = if u.mode = .low ∧ (u.filterUpdate v).scaleFor .low ≠ u.scale then (a.sampled v).recomputeCeilings
          else a.sampled v := batterySample_same (next.trans same)
      have moves : (u.mode = .low ∧ (u.filterUpdate v).scaleFor .low ≠ u.scale) ↔ (mode = .low ∧ scale ≠ u.scale) := by
        rw [← same]
        refine and_congr_right fun low => ?_
        rw [← scales, if_neg fun h => h.2 low, low]
      rw [sampled, ceilings] at kept
      rw [runs, conversionDone_battery inFlight battery]
      refine congrArg (fun t : State => Host.Outcome.next t.settle) (kept.trans ?_)
      exact if_congr moves rfl rfl
    · rw [runs, conversionDone_battery inFlight battery]
      have changed : a.batterySample v = (a.sampled v).recomputeCeilings.raisePower .level :=
        batterySample_changes (by show (u.filterUpdate v).nextMode ≠ u.mode; rw [next]; exact changes)
          (by show (u.filterUpdate v).nextMode ≠ _; rw [next]; exact up)
      rw [sampled, ceilings] at changed
      exact congrArg (fun t : State => Host.Outcome.next t.settle) changed
  · intro total factor base
    have ceilings : base.recomputeCeilings = recomputed base u.scale factor := recomputeCeilings_form base
    have reading : ({ s with conv := idle } : State).currentReading total =
        if factor ≠ u.foldback then
          if (decide (u.foldback = 1000) || decide (factor = 1000)) = true then base.recomputeCeilings.raisePower .foldback
          else base.recomputeCeilings
        else base := rfl
    rw [ceilings] at reading
    rw [runs, conversionDone_current inFlight current]
    refine congrArg (fun t : State => Host.Outcome.next t.settle) (reading.trans ?_)
    by_cases still : factor = u.foldback
    · rw [if_neg (not_not.mpr still), if_pos still]
    · rw [if_pos still, if_neg still]
      exact if_congr (by rw [Bool.or_eq_true, decide_eq_true_iff, decide_eq_true_iff]) rfl rfl
  · rw [runs, conversionDone_dropped inFlight sensor dropped, settle_modConv calm]

/-! ### The CRITICAL entry and the return (R48, R52 to R54) -/

/-- A sound stop leaves the converter and the supply monitor as they are (R125). -/
theorem soundStop_withSupply (s : State) (c : Converter) (u : Supply) (x : OutcomeCode) :
    ({ s with conv := c, supply := u } : State).soundStop x = { s.soundStop x with conv := c, supply := u } := by
  unfold State.soundStop State.raiseIf
  dsimp only
  split <;> rfl

theorem soundStop_power (s : State) (x : OutcomeCode) : (s.soundStop x).attn.power = s.attn.power := by
  rw [State.soundStop_eq]
  dsimp only
  split <;> rfl

theorem nextHold_critical (u : Supply) (clock : Nat) :
    u.nextHold .critical clock = if u.mode = SupplyMode.recovery then none else u.hold := by
  unfold Supply.nextHold
  cases u.mode <;> rfl

/-- The ceilings where S is 0 (R51). -/
theorem recomputeCeilings_zero {s : State} (zero : s.supply.scale = 0) : s.recomputeCeilings = { s with
    motor := s.motor.map fun p : Port => { p with ceiling := 0, duty := 0 }
    sound := { s.sound with ceiling := 0, gain := 0 } } := by
  have product : s.supply.scale * s.supply.foldback / 1000 = 0 := by rw [zero, Nat.zero_mul, Nat.zero_div]
  rw [recomputeCeilings_form, product]
  have port (p : Port) : ({ p with
      ceiling := min p.config.dutyLimit 0
      duty := max (-((min p.config.dutyLimit 0 : Nat) : Int)) (min (min p.config.dutyLimit 0 : Nat) p.duty) } : Port) =
      { p with ceiling := 0, duty := 0 } := by
    rw [Nat.min_zero]
    congr 1
    omega
  simp only [port, Nat.mul_zero, Nat.zero_div]

/-- What the expiry of a recovery hold makes of one port (R37, R54). -/
def Port.restored (product : Nat) (p : Port) : Port :=
  let c := min p.config.dutyLimit product
  if p.act = Activity.shutdown then
    { p with ceiling := c, act := .rest .braked, stallTimer := 0, vp := 0, integral := 0, duty := 0 }
  else { p with ceiling := c, duty := max (-(c : Int)) (min c p.duty) }

theorem restored_eq (p : Port) (product : Nat) :
    (if (p.storeCeiling (min p.config.dutyLimit product)).isShutdown then
        (p.storeCeiling (min p.config.dutyLimit product)).enterRest .braked
      else p.storeCeiling (min p.config.dutyLimit product)) = p.restored product := by
  have down : (p.storeCeiling (min p.config.dutyLimit product)).isShutdown = decide (p.act = .shutdown) := by
    show (p.act == .shutdown) = _
    exact Bool.beq_eq_decide_eq ..
  rw [down, Port.restored]
  by_cases h : p.act = .shutdown
  · rw [if_pos h, decide_eq_true h]; rfl
  · rw [if_neg h, decide_eq_false h]; rfl

theorem leaveShutdown_recomputed (s : State) : s.recomputeCeilings.leaveShutdown = { s with
    motor := s.motor.map (Port.restored (s.supply.scale * s.supply.foldback / 1000))
    sound := s.sound.storeCeiling (s.supply.scale * s.supply.foldback / 1000) } := by
  rw [recomputeCeilings_eq]
  refine congrArg (fun w : Six Port => ({ s with motor := w, sound := s.sound.storeCeiling s.supply.product } : State)) ?_
  exact Six.ext_get fun m => by rw [Six.get_map, Six.get_map, Six.get_map]; exact restored_eq _ _

/-- The return of the supply out of RECOVERY (R54). -/
theorem changeSupply_returns {s : State} (from_ : s.supply.mode = .recovery) {mode : SupplyMode} (to_ : mode = .normal ∨ mode = .low) :
    s.changeSupply mode =
      ((s.modSupply fun u => { u with mode := mode, scale := u.scaleFor mode }).recomputeCeilings.leaveShutdown).raisePower .restored := by
  unfold State.changeSupply
  rw [from_]
  rcases to_ with rfl | rfl <;> rfl

theorem holdExpires_returns {s : State} (recovering : s.supply.mode = .recovery) (holds : s.supply.hold ≠ none) :
    s.holdExpires = (State.leaveShutdown (State.recomputeCeilings { s with supply := { s.supply with
      hold := none
      mode := if s.supply.lowInUse ≤ s.supply.vf then .normal else .low
      scale := ({ s.supply with hold := none } : Supply).scaleFor (if s.supply.lowInUse ≤ s.supply.vf then .normal else .low) } })).raisePower
        .restored := by
  have expires : (s.supply.hold.isSome && decide (s.supply.mode = .recovery)) = true := by
    rw [Option.isSome_iff_ne_none.mpr holds, decide_eq_true recovering]; rfl
  rw [State.holdExpires, if_pos expires]
  have recovering' : (s.modSupply fun u => { u with hold := none }).supply.mode = .recovery := recovering
  rw [changeSupply_returns recovering' (by split <;> simp)]
  rfl

/-- Settles O42. -/
theorem criticalEntryAndReturn : Obligations.CriticalEntryAndReturn := by
  refine ⟨fun raw s calm inFlight => ?_, fun s calm => ?_⟩
  · intro u v vf up low a
    let idle : State := { s with conv := { s.conv with inFlight := none } }
    have down : (u.filterUpdate v).nextMode = .critical := ((u.filterUpdate v).nextMode_critical up).mpr low
    have sampled : idle.sampled v = { idle with supply := { u with
        lastV := v, vf := vf, seeded := true, lowInUse := u.vLow, criticalInUse := u.vCritical, mode := .critical, scale := 0
        hold := if u.mode = SupplyMode.recovery then none else u.hold } } := by
      show ({ idle with supply := { u.filterUpdate v with
        mode := (u.filterUpdate v).nextMode, hold := (u.filterUpdate v).nextHold (u.filterUpdate v).nextMode s.clock
        scale := if (u.filterUpdate v).nextMode = u.mode ∧ (u.filterUpdate v).nextMode ≠ .low then u.scale
          else (u.filterUpdate v).scaleFor (u.filterUpdate v).nextMode } } : State) = _
      rw [down, nextHold_critical (u.filterUpdate v), if_neg fun h => up h.1.symm]
      rfl
    generalize supply : ({ u with
        lastV := v, vf := vf, seeded := true, lowInUse := u.vLow, criticalInUse := u.vCritical, mode := .critical, scale := 0
        hold := if u.mode = SupplyMode.recovery then none else u.hold } : Supply) = w at sampled
    have zero : w.scale = 0 := by rw [← supply]
    have cut : (idle.sampled v).recomputeCeilings = { a with conv := idle.conv, supply := w } := by
      rw [sampled]
      exact recomputeCeilings_zero zero
    have stops := clearPorts_stops { a with conv := idle.conv, supply := w } (Six.all true) (some .power) Port.enterShutdown
      (fun p => p.stoppedBy .power .shutdown s.uptime) (fun m _ => by rw [Port.cleared_some]; rfl) (fun m _ => rfl)
    generalize cleared : State.clearPorts { a with conv := idle.conv, supply := w } (Six.all true) (some .power) Port.enterShutdown = t at stops
    refine ⟨{ t with conv := s.conv, supply := s.supply }, ⟨stops.ports, stops.raised, by rw [stops.rest]⟩, ?_⟩
    have entered : idle.batterySample v = ((t.soundStop .power).raisePower .critical).raisePower .level := by
      have changes : (idle.supply.filterUpdate v).nextMode ≠ idle.supply.mode := by
        show (u.filterUpdate v).nextMode ≠ u.mode
        rw [down]; exact up.symm
      rw [batterySample_critical changes down, cut, State.criticalEntry, cleared]
    have conv : (t.soundStop .power).conv = idle.conv := by
      rw [State.soundStop_eq, stops.rest]
    have supplied : (t.soundStop .power).supply = w := by rw [soundStop_supply, stops.rest]
    have power : (t.soundStop .power).attn.power = s.attn.power := by rw [soundStop_power, stops.rest]
    have runs : exec (.conversionComplete raw) s = .next (idle.batterySample v).settle := by
      show Host.Outcome.next (s.command _) = _
      rw [command_calm calm, conversionDone_battery inFlight rfl]
      rfl
    rw [runs, entered, soundStop_withSupply t, ← power]
    generalize t.soundStop .power = q at conv supplied
    refine congrArg (fun t : State => Host.Outcome.next t.settle) ?_
    calc (q.raisePower .critical).raisePower .level
        = { q with
            conv := q.conv, supply := { q.supply with causes := { q.supply.causes with critical := true, level := true } }
            attn := { q.attn with power := min 255 (min 255 (q.attn.power + 1) + 1) } } := rfl
      _ = _ := by rw [conv, supplied, ← supply]
  · intro u mode scale product
    have runs : exec .recoveryHoldExpiry s = .next s.holdExpires.settle := by
      show Host.Outcome.next (s.command _) = _
      rw [command_calm calm]
    refine ⟨fun recovering holds => ?_, fun off => ?_⟩
    · have scaled : ({ u with hold := none } : Supply).scaleFor mode = scale := by
        show Supply.scaleFor _ (if u.lowInUse ≤ u.vf then SupplyMode.normal else .low) = if u.lowInUse ≤ u.vf then 1000 else _
        split_ifs <;> rfl
      rw [runs, holdExpires_returns recovering holds, leaveShutdown_recomputed]
      show Host.Outcome.next (State.raisePower { s with
        supply := { u with hold := none, mode := mode, scale := ({ u with hold := none } : Supply).scaleFor mode }
        motor := s.motor.map (Port.restored (({ u with hold := none } : Supply).scaleFor mode * u.foldback / 1000))
        sound := s.sound.storeCeiling (({ u with hold := none } : Supply).scaleFor mode * u.foldback / 1000) } .restored).settle = _
      rw [scaled]
      rfl
    · have still : s.holdExpires = s := by
        refine if_neg fun h => ?_
        rw [Bool.and_eq_true, decide_eq_true_iff, Option.isSome_iff_ne_none] at h
        exact off.elim (fun other => other h.2) (fun stopped => h.1 stopped)
      rw [runs, still, settle_of_calm calm]

end Sys2Proof.Machine
end

-- ==== Sys2Proof/Proofs/Queries.lean ====

section
/-! The six queries: their layouts byte for byte, and their refusals (R14, R57, R73, R97, R109, R158, R170). -/

namespace Sys2Proof.Machine

/-! ### The widths of fields (R168) -/

theorem length_u8 (n : Nat) : (u8 n).length = 1 := rfl
theorem length_u16 (n : Nat) : (u16 n).length = 2 := rfl
theorem length_u32 (n : Nat) : (u32 n).length = 4 := rfl
theorem length_i16 (z : Int) : (i16 z).length = 2 := rfl
theorem length_i32 (z : Int) : (i32 z).length = 4 := rfl
theorem length_flag8 (b : Bool) : (flag8 b).length = 1 := rfl
theorem length_le16 (v : Half) : (le16 v).length = 2 := rfl

/-! ### PORT_QUERY (R14) -/

theorem length_waitingTags (queue : List Move) : (waitingTags queue).length = 16 := by
  rw [waitingTags, List.length_flatten, List.map_map]
  exact (rfl : ((List.range 8).map fun _ => 2).sum = 16)

theorem length_portConfigBytes (c : PortConfig) : (portConfigBytes c).length = 23 := by
  simp only [portConfigBytes, List.length_append, length_u8, length_u16]

theorem length_portData (p : Port) : (portData p).length = 75 := by
  unfold portData
  dsimp only
  simp only [List.length_append, length_u8, length_u16, length_u32, length_i16, length_i32, length_flag8, length_le16,
    length_waitingTags, length_portConfigBytes]

/-- The tags of the waiting records, the places beyond them 0 (R168). -/
theorem waitingTags_eq (queue : List Move) :
    waitingTags queue = ((List.range 8).map fun k => match queue[k]? with | some mv => le16 mv.tag | none => [0, 0]).flatten := by
  refine congrArg (fun f : Nat → List Byte => ((List.range 8).map f).flatten) (funext fun k => ?_)
  cases queue[k]? <;> rfl

/-! ### The lines that may ask (R135, R73) -/

theorem lineAllows_query {s : State} {l : LineId} (allowed : l = .host ∨ s.link.queryAllowed = true) :
    (∀ port, (s.arrived l).lineAllows l (.portQuery port) = true) ∧ (s.arrived l).lineAllows l .powerQuery = true := by
  have query : l = .host ∨ (s.arrived l).link.queryAllowed = true := by rwa [arrived_queryAllowed]
  rcases query with rfl | query
  · exact ⟨fun _ => rfl, rfl⟩
  · cases l
    · exact ⟨fun _ => rfl, rfl⟩
    · exact ⟨fun _ => query, query⟩

theorem sensorOf_succ (i : Idx6) : sensorOf (BitVec.ofNat 8 (i.toNat + 1)) = some i := by cases i <;> rfl

theorem sensorOf_none {port : Byte} (h : port.toNat = 0 ∨ 6 < port.toNat) : sensorOf port = none := by
  rw [← Option.not_isSome_iff_eq_none, sensorOf_isSome]
  omega

theorem checkReadPort_badPort {l : LineId} {port : Byte} {s : State} (h : port.toNat = 0 ∨ 6 < port.toNat) :
    checkReadPort l port s = .error ⟨.badPort, []⟩ := by
  rw [checkReadPort, sensorOf_none h]; rfl

theorem checkReadPort_held {l : LineId} {i : Idx6} {s : State} (held : ¬ (l = .host ∨ s.link.readMask.get i = true)) :
    checkReadPort l (BitVec.ofNat 8 (i.toNat + 1)) s = .error ⟨.notPermitted, []⟩ := by
  have : (l == .host || s.link.readMask.get i) = false := by
    rw [Bool.eq_false_iff]
    simpa using held
  rw [checkReadPort, sensorOf_succ, require_some, Check.bind_of_ok, this]; rfl

theorem checkReadPort_may {l : LineId} {i : Idx6} {s : State} (may : l = .host ∨ s.link.readMask.get i = true) :
    checkReadPort l (BitVec.ofNat 8 (i.toNat + 1)) s = .ok i := by
  have : (l == .host || s.link.readMask.get i) = true := by simpa using may
  rw [checkReadPort, sensorOf_succ, require_some, Check.bind_of_ok, this]; rfl

/-- A set of six as the sum of its members' bits (R168). -/
theorem set8_eq (v : Six Bool) : set8 v = u8 (Idx6.all.map fun i => if v.get i then 2 ^ i.toNat else 0).sum := by
  simp only [set8, Idx6.all, List.map, List.sum_cons, List.sum_nil, Six.get, Idx6.toNat]
  refine congrArg u8 ?_
  norm_num
  omega

/-- The profile's mode entries, in the order of their indices (R97, R170). -/
theorem profileBytes_eq (p : Profile) : profileBytes p = le16 p.kind ++ u8 p.modeCount ++ u8 p.maxRate ++
    ((List.range p.modeCount).map fun k => match p.modes.find? fun m => m.index == k with
      | some m => u8 k ++ u8 m.count ++ u8 m.format.code ++ u8 m.decimals ++ u8 m.name.length ++ m.name
      | none => []).flatten := by
  refine congrArg (fun f : Nat → List Byte => le16 p.kind ++ u8 p.modeCount ++ u8 p.maxRate ++ ((List.range p.modeCount).map f).flatten)
    (funext fun k => ?_)
  rw [Profile.mode]
  cases found : p.modes.find? fun m => m.index == k with
  | none => rfl
  | some m =>
    have index : m.index = k := eq_of_beq (List.find?_some (p := fun m : ModeInfo => m.index == k) found)
    rw [← index]
    rfl

theorem lineSummary_eq (p : SensorPort) : lineSummary p = u8 p.mode.code ++ flag8 p.smart.running ++ u8 p.smart.lineState.code ++
    u32 p.smart.rate ++ u8 (match p.smart.selected with | some k => k | none => 0xFF) ++ u16 p.smart.errors ++
    u8 (32 - (p.smart.cmdFifo.map List.length).sum) := by
  unfold lineSummary
  dsimp only
  cases p.smart.selected <;> rfl

/-- SMART_PROFILE on a port whose sensor has no complete profile (R97). -/
theorem takeSmartProfile_wrongState {l : LineId} {port : Byte} {i : Idx6} {s : State} (checked : checkReadPort l port s = .ok i)
    (none : (s.sensorAt i).work ≠ .smart ∨ (s.sensorAt i).smart.running = false ∨ (s.sensorAt i).smart.lineState = .listen ∨
      (s.sensorAt i).smart.lineState = .announcing) :
    takeSmartProfile l port s = .error ⟨.wrongState, lineSummary (s.sensorAt i)⟩ := by
  rw [takeSmartProfile, checked, Check.bind_of_ok]
  refine if_neg fun h => ?_
  simp only [Bool.and_eq_true, beq_iff_eq, bne_iff_ne] at h
  obtain ⟨⟨⟨mode, running⟩, listens⟩, announces⟩ := h
  rcases none with other | stopped | listen | announcing
  · refine other ?_
    rw [SensorPort.mode] at mode
    cases work : (s.sensorAt i).work <;> rw [work] at mode <;> first | rfl | cases mode
  · rw [stopped] at running; cases running
  · exact listens listen
  · exact announces announcing

theorem takeSmartProfile_ok {l : LineId} {port : Byte} {i : Idx6} {s : State} {p : Profile} (checked : checkReadPort l port s = .ok i)
    (work : (s.sensorAt i).work = .smart) (running : (s.sensorAt i).smart.running = true)
    (listen : (s.sensorAt i).smart.lineState ≠ .listen) (announcing : (s.sensorAt i).smart.lineState ≠ .announcing)
    (profile : (s.sensorAt i).smart.profile = some p) :
    takeSmartProfile l port s = .ok (s, lineSummary (s.sensorAt i) ++ profileBytes p) := by
  have mode : (s.sensorAt i).mode = .smart := by rw [SensorPort.mode, work]
  rw [takeSmartProfile, checked, Check.bind_of_ok]
  dsimp only
  rw [mode, running, bne_iff_ne.mpr listen, bne_iff_ne.mpr announcing, profile]
  rfl

theorem length_soundStatus (e : Sound) : (soundStatus e).length = 21 := by
  simp only [soundStatus, List.length_append, length_u8, length_u16, length_flag8, length_le16]

theorem takeSoundSetup_notOwner {l : LineId} {volume : Byte} {threshold : Half} {s : State} (other : s.sound.owner ≠ issuerOf l)
    (action : Byte) : takeSoundSetup l action volume threshold s = .error ⟨.notOwner, []⟩ := by
  rw [takeSoundSetup, beq_false_of_ne other]
  rfl

/-- SOUND_SETUP with QUERY (R109). -/
theorem takeSoundSetup_query {l : LineId} {volume : Byte} {threshold : Half} {s : State} {e : Sound} (sound : s.sound = e)
    (owns : e.owner = issuerOf l) : takeSoundSetup l 0 volume threshold s = .ok (s, 0 :: soundStatus e) := by
  rw [takeSoundSetup, sound, owns, beq_self_eq_true]
  generalize soundStatus e = status
  rfl

/-- Settles O43. -/
theorem queriesChangeNothing : Obligations.QueriesChangeNothing := by
  intro l tag s ready a n1 n2 n4 z2 z4 flag
  have is1 : n1 = u8 := rfl
  have is2 : n2 = u16 := rfl
  have is4 : n4 = u32 := rfl
  have isZ2 : z2 = i16 := rfl
  have isZ4 : z4 = i32 := rfl
  have isFlag : flag = flag8 := funext fun b => (flag8_eq b).symm
  clear_value n1 n2 n4 z2 z4 flag
  subst is1 is2 is4 isZ2 isZ4 isFlag
  have reads (port : Byte) : a.lineAllows l (.sensorRead port) = true := by cases l <;> rfl
  have profiles (port : Byte) : a.lineAllows l (.smartProfile port) = true := by cases l <;> rfl
  have mask : a.link.readMask = s.link.readMask := arrived_readMask ..
  refine ⟨fun port none allowed => ?_, fun port none => ⟨?_, ?_⟩, fun i tablet unread => ?_, fun m allowed => ?_, fun allowed => ?_, fun i => ?_, ?_,
    fun volume threshold => ?_, fun i may => ?_⟩
  · refine exec_refused rfl ready rfl ((lineAllows_query allowed).1 port) ?_
    show takePortQuery port _ = _
    rw [takePortQuery, motorOf_none none]; rfl
  · refine exec_refused rfl ready rfl (reads port) ?_
    show takeSensorRead l port _ = _
    rw [takeSensorRead, checkReadPort_badPort none]; rfl
  · refine exec_refused rfl ready rfl (profiles port) ?_
    show takeSmartProfile l port _ = _
    rw [takeSmartProfile, checkReadPort_badPort none]; rfl
  · intro port
    refine exec_refused rfl ready rfl (profiles port) ?_
    show takeSmartProfile l port a = _
    rw [takeSmartProfile, checkReadPort_held (by rw [tablet, mask, unread]; simp)]; rfl
  · intro port p c running data
    have layout : portData p = data := by
      unfold portData portConfigBytes
      dsimp only [data, running]
      rw [waitingTags_eq]
      cases act : p.act with
      | running r =>
        simp only [List.append_assoc]
        rfl
      | _ =>
        simp only [List.append_assoc]
        rfl
    refine ⟨layout ▸ length_portData p, exec_taken rfl ready rfl ((lineAllows_query allowed).1 port) ?_⟩
    show takePortQuery port a = _
    rw [takePortQuery, motorOf_index, ← layout, require_some, Check.bind_of_ok, show a.port m = p from arrived_port ..]
    rfl
  · intro u data
    refine ⟨?_, exec_taken rfl ready rfl (lineAllows_query allowed).2 ?_⟩
    · simp only [data, List.length_append, length_u8, length_u16]
    · show takePowerQuery a = _
      rw [takePowerQuery, State.holdTime, arrived_supply, arrived_clock]
      rfl
  · intro port r
    by_cases may : l = .host ∨ s.link.readMask.get i = true
    · rw [if_pos may]
      refine exec_taken rfl ready rfl (reads port) ?_
      show takeSensorRead l port a = _
      rw [takeSensorRead, checkReadPort_may (by rwa [mask]), Check.bind_of_ok, arrived_sensorAt]
      rfl
    · rw [if_neg may]
      refine exec_refused rfl ready rfl (reads port) ?_
      show takeSensorRead l port a = _
      rw [takeSensorRead, checkReadPort_held (by rwa [mask])]; rfl
  · intro k data
    have layout : takeLinkStatus a = .ok (a, data) := by
      unfold takeLinkStatus payloadCounts
      dsimp only
      rw [set8_eq]
      simp only [data, List.append_assoc]
      rfl
    refine ⟨?_, exec_taken rfl ready rfl (by cases l <;> rfl) layout⟩
    simp only [data, List.length_append, length_u8, length_u16, length_u32, length_flag8]
  · intro r e playing player front data
    have allowed : a.lineAllows l r = true := by cases l <;> rfl
    have owner : a.sound = e := arrived_sound ..
    have status : u8 e.player.code ++ u8 e.player.suspendedCode ++ flag8 e.player.clip.isSome ++
        u8 (e.player.clip.elim 0 (·.ctx.kindCode)) ++ le16 (e.player.clip.elim 0 (·.tag)) = front := by
      dsimp only [front, playing, player]
      cases e.player with
      | idle => rfl
      | playing p => cases ctx : p.ctx <;> simp only [Player.code, Player.clip, Option.elim, PlayCtx.kindCode, PlayCtx.stateCode, ctx] <;> rfl
      | immediate g p =>
        cases p with
        | none => simp only [Player.code, Player.suspendedCode, Player.clip, Option.elim] <;> rfl
        | some p => cases ctx : p.ctx <;>
            simp only [Player.code, Player.suspendedCode, Player.clip, Option.elim, PlayCtx.kindCode, PlayCtx.stateCode, ctx] <;> rfl
    have layout : soundStatus e = data := by
      dsimp only [data]
      rw [soundStatus, status]
    refine ⟨layout ▸ length_soundStatus e, ?_⟩
    by_cases owns : e.owner = issuerOf l
    · rw [if_pos owns, ← layout]
      exact exec_taken (r := .soundSetup 0 volume threshold) rfl ready rfl allowed (takeSoundSetup_query owner owns)
    · rw [if_neg owns]
      exact exec_refused (r := .soundSetup 0 volume threshold) rfl ready rfl allowed (takeSoundSetup_notOwner (by rw [owner]; exact owns) _)
  · intro port c summary
    have layout : lineSummary (s.sensorAt i) = summary := lineSummary_eq _
    have checked : checkReadPort l port a = .ok i := checkReadPort_may (by rwa [mask])
    have sensor : a.sensorAt i = s.sensorAt i := arrived_sensorAt ..
    refine ⟨?_, fun none => ?_, fun p work running listen announcing profile whole => ?_⟩
    · simp only [summary, List.length_append, length_u8, length_u16, length_u32, length_flag8]
    · rw [← layout, ← sensor]
      exact exec_refused rfl ready rfl (profiles port) (takeSmartProfile_wrongState checked (by rw [sensor]; exact none))
    · intro modes
      have layout' : profileBytes p = modes := profileBytes_eq p
      rw [← layout, ← layout', ← sensor]
      exact exec_taken rfl ready rfl (profiles port) (takeSmartProfile_ok checked (by rw [sensor]; exact work) (by rw [sensor]; exact running)
        (by rw [sensor]; exact listen) (by rw [sensor]; exact announcing) (by rw [sensor]; exact profile))

end Sys2Proof.Machine
end

-- ==== Sys2Proof/Proofs/SensorEvents.lean ====

section
/-! What happens at a sensor port: pins debounced, edges counted, averages, overloads and the report policies (R58 to R75). -/

namespace Sys2Proof.Machine

/-! ### One port changed -/

theorem modSensor_eq (s : State) (i : Idx6) (f : SensorPort → SensorPort) :
    s.modSensor i f = { s with sensor := s.sensor.set i (f (s.sensorAt i)) } := rfl

/-- A port changed twice. -/
theorem modSensor_set (s : State) (i : Idx6) (p : SensorPort) (f : SensorPort → SensorPort) :
    ({ s with sensor := s.sensor.set i p } : State).modSensor i f = { s with sensor := s.sensor.set i (f p) } := by
  rw [State.modSensor]
  dsimp only
  rw [Six.get_set_same, Six.set_set]

theorem sensorAt_set (s : State) (i : Idx6) (p : SensorPort) : ({ s with sensor := s.sensor.set i p } : State).sensorAt i = p :=
  Six.get_set_same ..

/-- A value set that follows a change of the port's work (R59). -/
theorem setWork_valueSet (s : State) (i : Idx6) (p : SensorPort) (w : SensorWork) (status : ReadingStatus) (count : Nat) (values : Values)
    (decimals : Nat) : (({ s with sensor := s.sensor.set i p } : State).setWork i w).valueSet i status count values decimals =
      { s with sensor := s.sensor.set i { p with
        work := w
        record := ⟨({ p with work := w } : SensorPort).mode, status, p.record.sequence + 1, s.uptime, count, values, decimals⟩ } } := by
  rw [State.setWork, modSensor_set, State.valueSet, modSensor_set]
  rfl

theorem set_self (s : State) (i : Idx6) : ({ s with sensor := s.sensor.set i (s.sensorAt i) } : State) = s := by
  unfold State.sensorAt
  rw [Six.set_get_self]

/-- A change of the sensor ports alone leaves nothing to do at once. -/
theorem settle_sensor {s : State} (calm : s.calm = true) (v : Six SensorPort) :
    ({ s with sensor := v } : State).settle = { s with sensor := v } := by
  simp only [State.calm, Bool.and_eq_true] at calm
  exact settle_of_quiet ((show _ = s.isQuiet from rfl).trans calm.1)

/-- A command that notes a level, where no reset holds. -/
theorem commandNoting_calm {s : State} (calm : s.calm = true) (note effect : State → State) :
    s.commandNoting note effect = (effect s).settle := by
  rw [State.commandNoting, (calm_parts calm).2.2.2, if_neg (by decide), command_calm calm]

/-! ### DIGITAL (R65 to R67) -/

/-- A port with a level driven on one of its pins. -/
def SensorPort.driven (p : SensorPort) (pin : PinId) (level : Bool) : SensorPort :=
  match pin with
  | .a => { p with driveA := .driven level }
  | .b => { p with driveB := .driven level }

theorem SensorPort.driven_work (p : SensorPort) (pin : PinId) (level : Bool) : (p.driven pin level).work = p.work := by cases pin <;> rfl
theorem SensorPort.driven_record (p : SensorPort) (pin : PinId) (level : Bool) : (p.driven pin level).record = p.record := by
  cases pin <;> rfl

theorem drivePin_eq (s : State) (i : Idx6) (pin : PinId) (level : Bool) :
    s.drivePin i pin level = { s with sensor := s.sensor.set i ((s.sensorAt i).driven pin level) } := by cases pin <;> rfl

/-- The two pins with one of them replaced. -/
def pinsWith (a b : DigitalPin) (pin : PinId) (q : DigitalPin) : DigitalPin × DigitalPin :=
  match pin with
  | .a => (q, b)
  | .b => (a, q)

/-- A DIGITAL pin whose debounced level has changed (R66, R67). -/
def DigitalPin.changedTo (q : DigitalPin) (level : Bool) : DigitalPin :=
  { q with
    level := level, timer := none
    count := if (q.edge = .rise ∧ level = true) ∨ (q.edge = .fall ∧ level = false) ∨ q.edge = .both then q.count + 1 else q.count }

theorem Edge.matches_iff (e : Edge) (level : Bool) :
    e.matches level = true ↔ (e = .rise ∧ level = true) ∨ (e = .fall ∧ level = false) ∨ e = .both := by
  cases e <;> cases level <;> decide

section
variable {s : State} {i : Idx6} {p : SensorPort} {a b : DigitalPin} (work : p.work = .digital a b)
include work

theorem setDebounce_eq (pin : PinId) (t : Timer) : ({ s with sensor := s.sensor.set i p } : State).setDebounce i pin t =
    let x := pinsWith a b pin { pinOf a b pin with timer := t }
    { s with sensor := s.sensor.set i { p with work := .digital x.1 x.2 } } := by
  rw [State.setDebounce, sensorAt_set, work]
  dsimp only
  rw [State.setWork, modSensor_set]
  cases pin <;> rfl

theorem debouncedChange_eq (pin : PinId) (level : Bool) : ({ s with sensor := s.sensor.set i p } : State).debouncedChange i pin level =
    let x := pinsWith a b pin ((pinOf a b pin).changedTo level)
    State.samplePolicy { s with sensor := s.sensor.set i { p with
      work := .digital x.1 x.2
      record := ⟨.digital, .fresh, p.record.sequence + 1, s.uptime, 4,
        ⟨levelValue x.1.level, levelValue x.2.level, signed32 x.1.count, signed32 x.2.count⟩, 0⟩ } } i := by
  have count (q : DigitalPin) : (if q.edge.matches level = true then q.count + 1 else q.count) = (q.changedTo level).count :=
    if_congr (q.edge.matches_iff level) rfl rfl
  rw [State.debouncedChange, sensorAt_set, work]
  dsimp only
  rw [setWork_valueSet]
  cases pin <;> simp only [pinsWith, pinOf, count] <;> rfl

end

section
variable {s : State} {i : Idx6} {a b : DigitalPin} {pin : PinId} {level : Bool} (work : (s.sensorAt i).work = .digital a b)
include work

/-- A change of an input pin's level on a live port (R66). -/
theorem digitalPin_input (moves : (s.sensorAt i).drive pin ≠ .driven level) (input : (pinOf a b pin).direction = .input)
    (live : (s.sensorAt i).record.status ≠ .fault) : s.digitalPin i pin level =
      if level = (pinOf a b pin).level then (s.drivePin i pin level).setDebounce i pin none
      else if (pinOf a b pin).debounce = 0 then (s.drivePin i pin level).debouncedChange i pin level
      else (s.drivePin i pin level).setDebounce i pin (some s.clock) := by
  rw [State.digitalPin, work]
  refine if_neg ?_
  simp only [Bool.or_eq_true, decide_eq_true_iff, input, ne_eq, not_true, false_or, not_or]
  exact ⟨fun held => live (eq_of_beq held), moves⟩

/-- An output pin, and a pin of a held port, only has the level noted (R65, R72). -/
theorem digitalPin_noted (noted : (pinOf a b pin).direction ≠ .input ∨ (s.sensorAt i).record.status = .fault) :
    s.digitalPin i pin level = s.drivePin i pin level := by
  rw [State.digitalPin, work]
  refine if_pos ?_
  simp only [Bool.or_eq_true, decide_eq_true_iff]
  exact .inl (noted.imp_right fun held => by rw [SensorPort.isHeld, held]; rfl)

theorem debounceExpires_eq : s.debounceExpires i pin =
    if (pinOf a b pin).timer.isSome then s.debouncedChange i pin (!(pinOf a b pin).level) else s := by
  rw [State.debounceExpires, work]

end

/-- Settles O46. -/
theorem digitalPinsAreDebounced : Obligations.DigitalPinsAreDebounced := by
  intro i pin a b s calm work p q workOf driven changed
  have drivenIs (level : Bool) : p.driven pin level = driven level := by cases pin <;> rfl
  have qIs : pinOf a b pin = q := by cases pin <;> rfl
  have workIs (q' : DigitalPin) : SensorWork.digital (pinsWith a b pin q').1 (pinsWith a b pin q').2 = workOf q' := by cases pin <;> rfl
  have drivenWork (level : Bool) : (driven level).work = .digital a b := by rw [← drivenIs, p.driven_work, ← work]
  have changes (from_ : SensorPort) (level : Bool) (same : from_.work = .digital a b) (record : from_.record = p.record) :
      ({ s with sensor := s.sensor.set i from_ } : State).debouncedChange i pin level = changed from_ level := by
    rw [debouncedChange_eq same, record, qIs]
    cases pin <;> rfl
  have pinChange (level : Bool) : exec (.digitalPinChange i pin level) s = .next (s.digitalPin i pin level).settle :=
    congrArg Host.Outcome.next (commandNoting_calm calm _ _)
  have expiry : exec (.debounceExpiry i pin) s = .next (s.debounceExpires i pin).settle := by
    show Host.Outcome.next (s.command _) = _
    rw [command_calm calm]
  refine ⟨fun level moves input live => ?_, fun level noted => ?_, fun runs => ?_, fun stopped => ?_⟩
  · have moves : (s.sensorAt i).drive pin ≠ .driven level := by cases pin <;> exact moves
    have acts := digitalPin_input work moves (by rw [qIs]; exact input) live
    rw [qIs, drivePin_eq, drivenIs] at acts
    refine ⟨fun back => ?_, fun away slow => ?_, fun away atOnce => ?_⟩
    · rw [pinChange, acts, if_pos back, setDebounce_eq (drivenWork level), qIs, settle_sensor calm]
      dsimp only
      rw [workIs]
    · rw [pinChange, acts, if_neg away, if_neg slow, setDebounce_eq (drivenWork level), qIs, settle_sensor calm]
      dsimp only
      rw [workIs]
    · rw [pinChange, acts, if_neg away, if_pos atOnce, changes _ _ (drivenWork level) (by rw [← drivenIs, p.driven_record])]
  · rw [pinChange, digitalPin_noted work (by rw [qIs]; exact noted), drivePin_eq, drivenIs, settle_sensor calm]
  · rw [expiry, debounceExpires_eq work, qIs, if_pos (Option.isSome_iff_ne_none.mpr runs), ← changes p _ work rfl, set_self]
  · rw [expiry, debounceExpires_eq work, qIs, stopped]
    exact congrArg Host.Outcome.next (settle_of_calm calm)

/-! ### COUNTER (R68 to R70) -/

/-- The work replaced and a value set made, on a port as it stands (R59). -/
theorem valueSet_of (s : State) (i : Idx6) (w : SensorWork) (status : ReadingStatus) (count : Nat) (values : Values) (decimals : Nat) :
    (s.setWork i w).valueSet i status count values decimals = { s with sensor := s.sensor.set i { s.sensorAt i with
      work := w
      record := ⟨({ s.sensorAt i with work := w } : SensorPort).mode, status, (s.sensorAt i).record.sequence + 1, s.uptime, count, values,
        decimals⟩ } } := by
  rw [← setWork_valueSet, set_self]

section
variable {s : State} {i : Idx6} {w : CounterWork} {level : Bool} {us : Nat} (work : (s.sensorAt i).work = .counter w)
include work

/-- A change of pin A on a live port (R69). -/
theorem counterPinA_live (live : (s.sensorAt i).record.status ≠ .fault) (moves : (s.sensorAt i).driveA ≠ .driven level) :
    s.counterPinA i level us =
      if level = w.falling then (s.drivePin i .a level).setWork i (.counter { w with armed := true })
      else if (w.armed && (!w.gated || w.gateLevel)) = true then (s.drivePin i .a level).countEdge i w (1000 * s.clock + us)
      else s.drivePin i .a level := by
  rw [State.counterPinA, work]
  refine if_neg ?_
  rw [Bool.or_eq_true, decide_eq_true_iff, not_or]
  exact ⟨fun held => live (eq_of_beq held), moves⟩

theorem counterPinA_held (held : (s.sensorAt i).record.status = .fault) : s.counterPinA i level us = s.drivePin i .a level := by
  rw [State.counterPinA, work]
  exact if_pos (by rw [SensorPort.isHeld, held]; rfl)

/-- A level on pin B of a live port (R69). -/
theorem counterPinB_live (live : (s.sensorAt i).record.status ≠ .fault) : s.counterPinB i level =
    if level = w.gateLevel then s.drivePin i .b level
    else (((s.drivePin i .b level).setWork i (.counter { w with gateLevel := level })).valueSet i .fresh 3
      ⟨signed32 w.count, w.period, levelValue level, 0⟩ 0).samplePolicy i := by
  have held : (s.sensorAt i).isHeld = false := beq_false_of_ne live
  rw [State.counterPinB, work, held]
  simp only [Bool.false_or, decide_eq_true_iff]

theorem counterPinB_held (held : (s.sensorAt i).record.status = .fault) : s.counterPinB i level = s.drivePin i .b level := by
  rw [State.counterPinB, work]
  exact if_pos (by rw [SensorPort.isHeld, held]; rfl)

end

/-- Settles O47. -/
theorem counterCountsEdges : Obligations.CounterCountsEdges := by
  intro i w level us s calm work p now onA onB set
  have pinA : exec (.counterPinAChange i level us) s = .next (s.counterPinA i level us).settle :=
    congrArg Host.Outcome.next (commandNoting_calm calm _ _)
  have pinB : exec (.counterPinBChange i level) s = .next (s.counterPinB i level).settle :=
    congrArg Host.Outcome.next (commandNoting_calm calm _ _)
  have noted : (onA p).settle = onA p := settle_sensor calm _
  have notedB : (onB p).settle = onB p := settle_sensor calm _
  refine ⟨fun live moves => ⟨fun leaves => ?_, fun edge armed gate => ?_, fun edge off => ?_⟩, fun live changes => ?_, fun live same => ?_,
    fun held => ⟨?_, ?_⟩⟩
  · rw [pinA, counterPinA_live work live moves, if_pos leaves, drivePin_eq, State.setWork, modSensor_set, settle_sensor calm]
    rfl
  · have counts : (w.armed && (!w.gated || w.gateLevel)) = true := by simpa [armed] using gate
    rw [pinA, counterPinA_live work live moves, if_neg edge, if_pos counts, drivePin_eq, State.countEdge, setWork_valueSet]
    rfl
  · have counts : ¬ (w.armed && (!w.gated || w.gateLevel)) = true := by
      rcases off with off | ⟨gated, low⟩
      · simp [off]
      · simp [gated, low]
    rw [pinA, counterPinA_live work live moves, if_neg edge, if_neg counts, drivePin_eq]
    exact congrArg Host.Outcome.next noted
  · rw [pinB, counterPinB_live work live, if_neg changes, drivePin_eq, setWork_valueSet]
    rfl
  · rw [pinB, counterPinB_live work live, if_pos same, drivePin_eq]
    exact congrArg Host.Outcome.next notedB
  · rw [pinA, counterPinA_held work held, drivePin_eq]
    exact congrArg Host.Outcome.next noted
  · rw [pinB, counterPinB_held work held, drivePin_eq]
    exact congrArg Host.Outcome.next notedB

/-! ### ANALOG (R64) -/

/-- The level read from an input pin, and how many free values have been read with it, `used` of them before (R58; log entry 10). -/
def readLevel (free : Nat) (d : Drive) (pull : Pull) (used : Nat) : Bool × Nat :=
  match d, pull with
  | .driven level, _ => (level, used)
  | .nothing, .up => (true, used)
  | .nothing, .down => (false, used)
  | .nothing, .none => (Config.freeLevel (free + used), used + 1)

theorem readPin_eq (s : State) (free used : Nat) (d : Drive) (pull : Pull) :
    ({ s with freeIdx := free + used } : State).readPin d pull =
      ((readLevel free d pull used).1, { s with freeIdx := free + (readLevel free d pull used).2 }) := by
  cases d <;> cases pull <;> rfl

theorem analogResult_eq {s : State} {i : Idx6} {w : AnalogWork} (work : (s.sensorAt i).work = .analog w) {x y : Bool × Nat}
    (first : readLevel s.freeIdx (s.sensorAt i).driveA .none 0 = x) (second : readLevel s.freeIdx (s.sensorAt i).driveB .none x.2 = y)
    (raw : Nat) : s.analogResult i raw =
      let window := (raw :: w.window).take w.averaging
      State.samplePolicy { s with
        freeIdx := s.freeIdx + y.2
        sensor := s.sensor.set i { s.sensorAt i with
          work := .analog { w with window := window }
          record := ⟨.analog, .fresh, (s.sensorAt i).record.sequence + 1, s.uptime, 3,
            ⟨(window.sum / window.length * 5000 / 4095 : Nat), levelValue x.1, levelValue y.1, 0⟩, 0⟩ } } i := by
  have pinA := readPin_eq s s.freeIdx 0 (s.sensorAt i).driveA .none
  rw [State.analogResult, work]
  dsimp only
  rw [show s.readPin (s.sensorAt i).driveA .none = _ from pinA, first]
  dsimp only
  rw [readPin_eq, second, valueSet_of]
  rfl

/-- Settles O45. -/
theorem analogResultIsAveraged : Obligations.AnalogResultIsAveraged := by
  intro i raw w s calm inFlight work p window mean x y t
  have runs : exec (.conversionComplete raw) s = .next (s.conversionDone raw.toNat).settle := by
    show Host.Outcome.next (s.command _) = _
    rw [command_calm calm]
  have done : s.conversionDone raw.toNat = (s.modConv fun c => { c with inFlight := none }).analogResult i raw.toNat := by
    rw [State.conversionDone, inFlight]
    rfl
  have xIs : readLevel s.freeIdx p.driveA .none 0 = x := by
    show _ = (match p.driveA with | .driven b => (b, 0) | .nothing => (Config.freeLevel s.freeIdx, 1))
    cases p.driveA <;> rfl
  have yIs : readLevel s.freeIdx p.driveB .none x.2 = y := by
    show _ = (match p.driveB with | .driven b => (b, x.2) | .nothing => (Config.freeLevel (s.freeIdx + x.2), x.2 + 1))
    cases p.driveB <;> rfl
  rw [runs, done, analogResult_eq (s := s.modConv fun c => { c with inFlight := none }) work xIs yIs]
  rfl

/-! ### Overloads and report policies (R72, R75) -/

theorem raiseSensor_eq (s : State) (i : Idx6) (p : SensorPort) (c : SensorCause) :
    ({ s with sensor := s.sensor.set i p } : State).raiseSensor i c = { s with
      sensor := s.sensor.set i { p with causes := p.causes.set c }
      attn := { s.attn with sensor := s.attn.sensor.set i (min 255 (s.attn.sensor.get i + 1)) } } := by
  rw [State.raiseSensor, modSensor_set]
  rfl

theorem dropSensor_eq (c : Converter) (i : Idx6) : c.dropSensor i = { c with
    due := { c.due with sensor := c.due.sensor.set i false }
    inFlight := match c.inFlight with
      | some f => some (if f.channel = Channel.sensor i then { f with dropped := true } else f)
      | none => none } := by
  unfold Converter.dropSensor
  cases c.inFlight <;> rfl

theorem SensorWork.halt_eq (w : SensorWork) : w.halt = match w with
    | .digital a b => .digital { a with timer := none } { b with timer := none }
    | w => w := by cases w <;> rfl

theorem Policy.halt_eq (x : Policy) : x.halt = match x with | .interval n _ => .interval n Option.none | x => x := by cases x <;> rfl

theorem overload_on {s : State} {i : Idx6} (mode : (s.sensorAt i).mode ≠ .off) (on : (s.sensorAt i).supplyOn = true) :
    s.overload i = { s with
      conv := s.conv.dropSensor i
      sensor := s.sensor.set i { s.sensorAt i with
        work := (s.sensorAt i).work.halt, supplyOn := false, record := { (s.sensorAt i).record with status := .fault }
        policy := (s.sensorAt i).policy.halt, smart := (s.sensorAt i).smart.stop, causes := (s.sensorAt i).causes.set .fault }
      attn := { s.attn with sensor := s.attn.sensor.set i (min 255 (s.attn.sensor.get i + 1)) } } := by
  unfold State.overload
  dsimp only
  rw [on, if_neg (by simpa using mode), modSensor_eq, raiseSensor_eq]
  rfl

/-- R75: when a CHANGE policy reports. -/
theorem changeReports_iff (p : SensorPort) (d : Nat) (ref : Option Int) :
    (decide (p.record.status = .fresh) && (match ref with | none => true | some x => decide ((p.record.values.v0 - x).natAbs ≥ d))) = true ↔
      p.record.status = .fresh ∧ (ref = none ∨ ∃ x, ref = some x ∧ (d : Int) ≤ |p.record.values.v0 - x|) := by
  rw [Bool.and_eq_true, decide_eq_true_iff]
  refine and_congr_right fun _ => ?_
  cases ref with
  | none => simp
  | some x =>
    simp only [decide_eq_true_iff, ge_iff_le, reduceCtorEq, false_or, Option.some.injEq, exists_eq_left']
    rw [Int.abs_eq_natAbs]
    exact Int.ofNat_le.symm

/-- Settles O48. -/
theorem overloadAndReportPolicies : Obligations.OverloadAndReportPolicies := by
  intro i s p raised reported v
  have raises {policy : Policy} (same : p.policy = policy) : s.raiseSensor i .report = reported policy := by
    have raised := raiseSensor_eq s i p .report
    rw [set_self] at raised
    rw [raised, ← same]
    rfl
  refine ⟨fun calm mode on => ?_, fun calm off => ?_, fun n t calm policy => ?_, fun calm other => ?_, fun every => ?_, fun d ref change => ⟨?_, ?_⟩,
    fun quiet => ?_⟩
  · show Host.Outcome.next (s.command _) = _
    rw [command_calm calm, overload_on mode on]
    refine congrArg (fun t : State => Host.Outcome.next t.settle) ?_
    rw [dropSensor_eq, SensorWork.halt_eq, Policy.halt_eq]
    rfl
  · show Host.Outcome.next (s.command _) = _
    have still : s.overload i = s := if_pos (by
      rw [Bool.or_eq_true, decide_eq_true_iff, Bool.not_eq_true']
      exact off)
    rw [command_calm calm, still, settle_of_calm calm]
  · show Host.Outcome.next (s.command _) = _
    have expires : s.intervalExpires i = if p.record.status = .fresh then reported (.interval n (some (t + n)))
        else { s with sensor := s.sensor.set i { p with policy := .interval n (some (t + n)) } } := by
      rw [State.intervalExpires, show (s.sensorAt i).policy = _ from policy]
      dsimp only
      rw [modSensor_eq, raiseSensor_eq]
      rfl
    rw [command_calm calm, expires]
  · show Host.Outcome.next (s.command _) = _
    have still : s.intervalExpires i = s := by
      unfold State.intervalExpires
      split
      · exact absurd (by assumption) (other _ _)
      · rfl
    rw [command_calm calm, still, settle_of_calm calm]
  · show s.samplePolicy i = _
    rw [State.samplePolicy, show (s.sensorAt i).policy = _ from every]
    exact raises (policy := .every) every
  · intro reports
    rw [State.samplePolicy, show (s.sensorAt i).policy = _ from change]
    refine (if_pos ((changeReports_iff p d ref).mpr reports)).trans ?_
    rw [modSensor_eq, raiseSensor_eq]
    rfl
  · intro still
    rw [State.samplePolicy, show (s.sensorAt i).policy = _ from change]
    exact if_neg fun h => still ((changeReports_iff p d ref).mp h)
  · rw [State.samplePolicy]
    rcases quiet with none | ⟨n, t, interval⟩
    · rw [show (s.sensorAt i).policy = _ from none]
    · rw [show (s.sensorAt i).policy = _ from interval]

end Sys2Proof.Machine
end

-- ==== Sys2Proof/Proofs/SensorSetup.lean ====

section
/-! SENSOR_SETUP: its checks, the entry into each mode, and what the pins are in it (R58, R61 to R65, R68, R71, R83). -/

namespace Sys2Proof.Machine

/-! ### The checks (R61) -/

theorem checkSetupPort_badPort {l : LineId} {port : Byte} {s : State} (h : port.toNat = 0 ∨ 6 < port.toNat) :
    checkSetupPort l port s = .error ⟨.badPort, []⟩ := by
  rw [checkSetupPort, sensorOf_none h]; rfl

section
variable {l : LineId} {i : Idx6} {s : State}

theorem checkSetupPort_held (held : ¬ (l = .host ∨ (s.link.setupAllowed = true ∧ s.link.readMask.get i = true))) :
    checkSetupPort l (BitVec.ofNat 8 (i.toNat + 1)) s = .error ⟨.notPermitted, []⟩ := by
  have : (l == .host || (s.link.setupAllowed && s.link.readMask.get i)) = false := by
    rw [Bool.eq_false_iff]
    simpa using held
  rw [checkSetupPort, sensorOf_succ, require_some, Check.bind_of_ok, this]; rfl

theorem checkSetupPort_may (may : l = .host ∨ (s.link.setupAllowed = true ∧ s.link.readMask.get i = true)) :
    checkSetupPort l (BitVec.ofNat 8 (i.toNat + 1)) s = .ok i := by
  have : (l == .host || (s.link.setupAllowed && s.link.readMask.get i)) = true := by simpa using may
  rw [checkSetupPort, sensorOf_succ, require_some, Check.bind_of_ok, this]; rfl

end

theorem checkModeSetup_fails (r : SensorSetupRaw) : FailsBy .badParam (checkModeSetup r) := by
  refine .bind (.require _) fun mode _ => ?_
  cases mode with
  | off => exact .pure _
  | analog => exact .bind (.need _) fun _ _ => .pure _
  | digital =>
    exact .bind (.require _) fun _ _ => .bind (.require _) fun _ _ => .bind (.require _) fun _ _ => .bind (.require _) fun _ _ =>
      .bind (.inRange _ _ _) fun _ _ => .bind (.inRange _ _ _) fun _ _ => .bind (.require _) fun _ _ => .bind (.require _) fun _ _ => .pure _
  | counter =>
    exact .bind (.require _) fun _ _ => .bind (.require _) fun _ _ => .bind (.require _) fun _ _ => .bind (.require _) fun _ _ => .pure _
  | smart => exact .bind (.inRange _ _ _) fun _ _ => .bind (.inRange _ _ _) fun _ _ => .pure _

theorem checkPolicy_fails (r : SensorSetupRaw) (clock : Nat) : FailsBy .badParam (checkPolicy r clock) := by
  unfold checkPolicy
  split
  · exact .ok _
  · exact .ok _
  · exact .bind (.inRange _ _ _) fun _ _ => .pure _
  · exact .ok _
  · exact .error

/-- The fields of R61 that the mode uses. -/
def modeFieldsFit (r : SensorSetupRaw) : Prop :=
  r.mode.toNat ≤ 4 ∧ (r.mode = 1 → r.averaging.toNat ∈ [1, 2, 4, 8]) ∧ (r.mode = 2 ∨ r.mode = 3 → r.pullA.toNat ≤ 2 ∧ r.pullB.toNat ≤ 2) ∧
    (r.mode = 2 → r.directionA.toNat ≤ 2 ∧ r.directionB.toNat ≤ 2 ∧ r.debounceA.toNat ≤ 50 ∧ r.debounceB.toNat ≤ 50 ∧
      r.edgeA.toNat ≤ 2 ∧ r.edgeB.toNat ≤ 2) ∧
    (r.mode = 3 → r.countingEdge.toNat ≤ 1 ∧ r.gate.toNat ≤ 1) ∧ (r.mode = 4 → r.maxRate.toNat ≤ 3 ∧ r.preferred.toNat ≤ 7)

theorem mode_of_code {b : Byte} {m : SensorMode} (named : sensorModeOf b = some m) : b = BitVec.ofNat 8 m.code := by
  revert b; cases m <;> decide

theorem modeFits_of_ok {r : SensorSetupRaw} {x : ModeSetup × Bool} (passed : checkModeSetup r = .ok x) : modeFieldsFit r := by
  rw [checkModeSetup, Check.bind_ok] at passed
  obtain ⟨mode, named, passed⟩ := passed
  have code := mode_of_code (require_ok _ _ _ |>.mp named)
  unfold modeFieldsFit
  rw [code]
  cases mode with
  | off => simp [SensorMode.code]
  | analog =>
    simp only [Check.bind_ok, need_ok, Bool.or_eq_true, beq_iff_eq] at passed
    obtain ⟨_, averaging, _⟩ := passed
    simp [SensorMode.code]
    omega
  | digital =>
    simp only [Check.bind_ok, require_ok, inRange_ok] at passed
    obtain ⟨_, pullA, _, pullB, _, dirA, _, dirB, _, ⟨debA, _⟩, _, ⟨debB, _⟩, _, edgeA, _, edgeB, _⟩ := passed
    refine ⟨by decide, nofun, fun _ => ⟨le_of_code (by decide) pullA, le_of_code (by decide) pullB⟩,
      fun _ => ⟨le_of_code (by decide) dirA, le_of_code (by decide) dirB, debA.2, debB.2, le_of_code (by decide) edgeA,
        le_of_code (by decide) edgeB⟩, nofun, nofun⟩
  | counter =>
    simp only [Check.bind_ok, require_ok] at passed
    obtain ⟨_, pullA, _, pullB, _, edge, _, gate, _⟩ := passed
    exact ⟨by decide, nofun, fun _ => ⟨le_of_code (by decide) pullA, le_of_code (by decide) pullB⟩, nofun,
      fun _ => ⟨le_of_code (by decide) edge, le_of_code (by decide) gate⟩, nofun⟩
  | smart =>
    simp only [Check.bind_ok, inRange_ok] at passed
    obtain ⟨_, ⟨rate, _⟩, _, ⟨preferred, _⟩, _⟩ := passed
    exact ⟨by decide, nofun, nofun, nofun, nofun, fun _ => ⟨rate.2, preferred.2⟩⟩

theorem policyFits_of_ok {r : SensorSetupRaw} {clock : Nat} {x : Policy × Bool} (passed : checkPolicy r clock = .ok x) :
    r.policy.toNat ≤ 3 ∧ (r.policy = 2 → r.delta.toNat ≤ 2147483647) := by
  have two : r.policy = 2 ↔ r.policy.toNat = 2 := BitVec.toNat_inj.symm
  rw [two]
  unfold checkPolicy at passed
  dsimp only at passed
  split at passed <;> rename_i code
  · omega
  · omega
  · simp only [Check.bind_ok, inRange_ok] at passed
    obtain ⟨_, ⟨delta, _⟩, _⟩ := passed
    omega
  · omega
  · cases passed

theorem takeSensorSetup_bad {l : LineId} {port : Byte} {i : Idx6} {r : SensorSetupRaw} {s : State} (checked : checkSetupPort l port s = .ok i)
    (bad : ¬ r.fieldsFit) : takeSensorSetup l port r s = .error ⟨.badParam, []⟩ := by
  rw [takeSensorSetup, checked, Check.bind_of_ok]
  refine FailsBy.of_not_ok ?_ fun a h => bad ?_
  · exact .bind (checkModeSetup_fails r) fun _ _ => .bind (checkPolicy_fails r _) fun _ _ => .pure _
  · simp only [Check.bind_ok] at h
    obtain ⟨_, mode, _, policy, _⟩ := h
    obtain ⟨known, averaging, pulls, digital, counter, smart⟩ := modeFits_of_ok mode
    exact ⟨known, averaging, pulls, digital, counter, smart, policyFits_of_ok policy⟩

theorem checkPolicy_of {r : SensorSetupRaw} {clock : Nat} {policy : Policy} {clamped : Bool}
    (asked : (r.policy = 0 ∧ policy = .none ∧ clamped = false) ∨ (r.policy = 1 ∧ policy = .every ∧ clamped = false) ∨
      (r.policy = 2 ∧ r.delta.toNat ≤ 2147483647 ∧ policy = .change r.delta.toNat none ∧ clamped = false) ∨
      (r.policy = 3 ∧ policy = .interval (max 10 (min 10000 r.interval.toNat)) (some clock) ∧
        clamped = decide (r.interval.toNat < 10 ∨ 10000 < r.interval.toNat))) : checkPolicy r clock = .ok (policy, clamped) := by
  rcases asked with ⟨code, rfl, rfl⟩ | ⟨code, rfl, rfl⟩ | ⟨code, delta, rfl, rfl⟩ | ⟨code, rfl, rfl⟩
  · rw [checkPolicy, code]; rfl
  · rw [checkPolicy, code]; rfl
  · rw [checkPolicy, code, inRange_of (Nat.zero_le _) delta]; rfl
  · rw [checkPolicy, code]
    refine congrArg (fun b => Except.ok (Policy.interval (max 10 (min 10000 r.interval.toNat)) (some clock), b)) ?_
    rw [Bool.eq_iff_iff, bne_iff_ne, decide_eq_true_iff]
    exact clampNat_ne_iff (by decide) _

/-! ### The entry into a mode (R58, R60, R62, R63, R65, R68, R71, R83) -/

/-- A sensor port's mode entered: its work, supply, controller, record and policy, its channel due or not, `free` free values read. -/
def State.entered (s : State) (i : Idx6) (policy : Policy) (work : SensorWork) (on : Bool) (smart : Smart) (first : Reading) (due : Bool)
    (free : Nat) : State :=
  { s with
    sensor := s.sensor.set i { s.sensorAt i with
      work := work, supplyOn := on, smart := smart, policy := policy, causes := { (s.sensorAt i).causes with mode := true }
      record := { first with sequence := (s.sensorAt i).record.sequence + 1, timestamp := s.uptime, decimals := 0 } }
    conv := { s.conv with
      due := { s.conv.due with sensor := s.conv.due.sensor.set i due }
      inFlight := match s.conv.inFlight with
        | some f => some (if f.channel = Channel.sensor i then { f with dropped := true } else f)
        | none => none }
    freeIdx := s.freeIdx + free
    attn := { s.attn with sensor := s.attn.sensor.set i (min 255 (s.attn.sensor.get i + 1)) } }

/-- The controller that a mode entry stops (R62, R80, R83). -/
def Smart.ended (c : Smart) : Smart := { Smart.reset with maxRate := c.maxRate, preferred := c.preferred, running := false }

/-- The level a DIGITAL pin has at entry (R65). -/
def pinLevel (free : Nat) (direction : Direction) (d : Drive) (pull : Pull) (used : Nat) : Bool × Nat :=
  match direction with
  | .input => readLevel free d pull used
  | .outputLow => (false, used)
  | .outputHigh => (true, used)

theorem enterPin_eq (s : State) (free used : Nat) (d : Drive) (pull : Pull) (direction : Direction) (debounce : Nat) (edge : Edge) :
    ({ s with freeIdx := free + used } : State).enterPin d pull direction debounce edge =
      (⟨pull, direction, debounce, edge, (pinLevel free direction d pull used).1, none, 0⟩,
        { s with freeIdx := free + (pinLevel free direction d pull used).2 }) := by
  unfold State.enterPin
  cases direction with
  | input => dsimp only; rw [readPin_eq]; rfl
  | outputLow => rfl
  | outputHigh => rfl

section
variable (b : State) (i : Idx6) (q : SensorPort)

theorem enterMode_off : ({ b with sensor := b.sensor.set i q } : State).enterMode i .off = { b with sensor := b.sensor.set i { q with
    supplyOn := false, work := .off, record := ⟨.off, .none, q.record.sequence + 1, b.uptime, 0, ⟨0, 0, 0, 0⟩, 0⟩ } } := by
  unfold State.enterMode
  dsimp only
  rw [modSensor_set, setWork_valueSet]
  rfl

theorem enterMode_analog (period n : Nat) : ({ b with sensor := b.sensor.set i q } : State).enterMode i (.analog period n) = { b with
    conv := { b.conv with due := b.conv.due.enter (.sensor i) }
    sensor := b.sensor.set i { q with
      supplyOn := true, work := .analog ⟨period, n, [], b.clock⟩
      record := ⟨.analog, .stale, q.record.sequence + 1, b.uptime, 3, ⟨0, 0, 0, 0⟩, 0⟩ } } := by
  unfold State.enterMode
  dsimp only
  rw [modSensor_set]
  exact setWork_valueSet (b.modConv fun c => { c with due := c.due.enter (.sensor i) }) i { q with supplyOn := true } _ _ _ _ _

theorem enterMode_smart (maxRate preferred : Nat) : ({ b with sensor := b.sensor.set i q } : State).enterMode i (.smart maxRate preferred) =
    { b with sensor := b.sensor.set i { q with
      supplyOn := true, work := .smart, smart := Smart.start maxRate preferred
      record := ⟨.smart, .stale, q.record.sequence + 1, b.uptime, 0, ⟨0, 0, 0, 0⟩, 0⟩ } } := by
  unfold State.enterMode
  dsimp only
  rw [modSensor_set, State.setWork, modSensor_set, State.modSmart, modSensor_set, State.valueSet, modSensor_set]
  rfl

/-- The supply switched on, the work replaced and the initial value set made (R58, R60). -/
theorem powered_valueSet (w : SensorWork) (status : ReadingStatus) (count : Nat) (values : Values) :
    ((({ b with sensor := b.sensor.set i q } : State).modSensor i fun p => { p with supplyOn := true }).setWork i w).valueSet i status count
      values 0 = { b with sensor := b.sensor.set i { q with
        supplyOn := true, work := w
        record := ⟨({ q with work := w } : SensorPort).mode, status, q.record.sequence + 1, b.uptime, count, values, 0⟩ } } := by
  rw [modSensor_set, setWork_valueSet]
  rfl

theorem enterMode_digital (pullA pullB : Pull) (dirA dirB : Direction) (debA debB : Nat) (edgeA edgeB : Edge) {x y : Bool × Nat}
    (first : pinLevel b.freeIdx dirA q.driveA pullA 0 = x) (second : pinLevel b.freeIdx dirB q.driveB pullB x.2 = y) :
    ({ b with sensor := b.sensor.set i q } : State).enterMode i (.digital pullA pullB dirA dirB debA debB edgeA edgeB) = { b with
      freeIdx := b.freeIdx + y.2
      sensor := b.sensor.set i { q with
        supplyOn := true
        work := .digital ⟨pullA, dirA, debA, edgeA, x.1, none, 0⟩ ⟨pullB, dirB, debB, edgeB, y.1, none, 0⟩
        record := ⟨.digital, .fresh, q.record.sequence + 1, b.uptime, 4, ⟨levelValue x.1, levelValue y.1, 0, 0⟩, 0⟩ } } := by
  have pinA := enterPin_eq { b with sensor := b.sensor.set i q } b.freeIdx 0 q.driveA pullA dirA debA edgeA
  have pinB := enterPin_eq { b with sensor := b.sensor.set i q } b.freeIdx x.2 q.driveB pullB dirB debB edgeB
  unfold State.enterMode
  dsimp only at pinB ⊢
  rw [sensorAt_set, show State.enterPin { b with sensor := b.sensor.set i q } q.driveA pullA dirA debA edgeA = _ from pinA, first]
  dsimp only
  rw [pinB, second]
  exact powered_valueSet { b with freeIdx := b.freeIdx + y.2 } i q _ _ _ _

theorem enterMode_counter (pullA pullB : Pull) (falling gated : Bool) (preset : Word) {x y : Bool × Nat}
    (first : readLevel b.freeIdx q.driveA pullA 0 = x) (second : readLevel b.freeIdx q.driveB pullB x.2 = y) :
    ({ b with sensor := b.sensor.set i q } : State).enterMode i (.counter pullA pullB falling gated preset) = { b with
      freeIdx := b.freeIdx + y.2
      sensor := b.sensor.set i { q with
        supplyOn := true
        work := .counter ⟨pullA, pullB, falling, gated, x.1 == falling, preset, 0, none, y.1⟩
        record := ⟨.counter, .fresh, q.record.sequence + 1, b.uptime, 3, ⟨preset.toInt, 0, levelValue y.1, 0⟩, 0⟩ } } := by
  have pinA := readPin_eq { b with sensor := b.sensor.set i q } b.freeIdx 0 q.driveA pullA
  have pinB := readPin_eq { b with sensor := b.sensor.set i q } b.freeIdx x.2 q.driveB pullB
  unfold State.enterMode
  dsimp only at pinB ⊢
  rw [sensorAt_set, show State.readPin { b with sensor := b.sensor.set i q } q.driveA pullA = _ from pinA, first]
  dsimp only
  rw [pinB, second]
  exact powered_valueSet { b with freeIdx := b.freeIdx + y.2 } i q _ _ _ _

end

/-- A mode entry, its new mode's entry apart (R62). -/
theorem modeEntry_of {s t : State} {i : Idx6} {setup : ModeSetup} (enters : (s.endWork i).enterMode i setup = t) (policy : Policy) :
    s.modeEntry i setup policy = { t with
      sensor := t.sensor.set i { t.sensorAt i with policy := policy, causes := { (t.sensorAt i).causes with mode := true } }
      attn := { t.attn with sensor := t.attn.sensor.set i (min 255 (t.attn.sensor.get i + 1)) } } := by
  rw [State.modeEntry, enters, modSensor_eq, raiseSensor_eq]
  rfl

section
variable (s : State) (i : Idx6) (policy : Policy)

/-- A state whose port `i` has ended its old mode's work, the controller apart (R62). -/
def State.unworked : State := { s with conv := s.conv.dropSensor i }

/-- A port whose controller the mode entry has stopped. -/
def SensorPort.unworked (p : SensorPort) : SensorPort := { p with smart := p.smart.ended }

theorem modeEntry_off : s.modeEntry i .off policy =
    s.entered i policy (.off) false (s.sensorAt i).smart.ended
      ⟨.off, .none, 0, 0, 0, ⟨0, 0, 0, 0⟩, 0⟩ false 0 := by
  rw [modeEntry_of (enterMode_off (s.unworked i) i (s.sensorAt i).unworked)]
  unfold State.entered State.unworked State.sensorAt
  dsimp only
  rw [Six.get_set_same, Six.set_set, dropSensor_eq]
  rfl

theorem modeEntry_analog (period n : Nat) : s.modeEntry i (.analog period n) policy =
    s.entered i policy (.analog ⟨period, n, [], s.clock⟩) true (s.sensorAt i).smart.ended
      ⟨.analog, .stale, 0, 0, 3, ⟨0, 0, 0, 0⟩, 0⟩ true 0 := by
  rw [modeEntry_of (enterMode_analog (s.unworked i) i (s.sensorAt i).unworked period n)]
  unfold State.entered State.unworked State.sensorAt
  dsimp only
  rw [Six.get_set_same, Six.set_set, dropSensor_eq, DueList.enter, Six.set_set]
  rfl

theorem modeEntry_smart (maxRate preferred : Nat) : s.modeEntry i (.smart maxRate preferred) policy =
    s.entered i policy .smart true { Smart.reset with maxRate := maxRate, preferred := preferred, running := true }
      ⟨.smart, .stale, 0, 0, 0, ⟨0, 0, 0, 0⟩, 0⟩ false 0 := by
  rw [modeEntry_of (enterMode_smart (s.unworked i) i (s.sensorAt i).unworked maxRate preferred)]
  unfold State.entered State.unworked State.sensorAt
  dsimp only
  rw [Six.get_set_same, Six.set_set, dropSensor_eq]
  rfl

variable {s i}

theorem modeEntry_digital {pullA pullB : Pull} {dirA dirB : Direction} {debA debB : Nat} {edgeA edgeB : Edge} {x y : Bool × Nat}
    (first : pinLevel s.freeIdx dirA (s.sensorAt i).driveA pullA 0 = x)
    (second : pinLevel s.freeIdx dirB (s.sensorAt i).driveB pullB x.2 = y) : s.modeEntry i (.digital pullA pullB dirA dirB debA debB edgeA edgeB) policy =
    s.entered i policy (.digital ⟨pullA, dirA, debA, edgeA, x.1, none, 0⟩ ⟨pullB, dirB, debB, edgeB, y.1, none, 0⟩) true (s.sensorAt i).smart.ended
      ⟨.digital, .fresh, 0, 0, 4, ⟨levelValue x.1, levelValue y.1, 0, 0⟩, 0⟩ false y.2 := by
  rw [modeEntry_of (enterMode_digital (s.unworked i) i (s.sensorAt i).unworked pullA pullB dirA dirB debA debB edgeA edgeB first second)]
  unfold State.entered State.unworked State.sensorAt
  dsimp only
  rw [Six.get_set_same, Six.set_set, dropSensor_eq]
  rfl

theorem modeEntry_counter {pullA pullB : Pull} {falling gated : Bool} {preset : Word} {x y : Bool × Nat}
    (first : readLevel s.freeIdx (s.sensorAt i).driveA pullA 0 = x) (second : readLevel s.freeIdx (s.sensorAt i).driveB pullB x.2 = y) :
    s.modeEntry i (.counter pullA pullB falling gated preset) policy =
    s.entered i policy (.counter ⟨pullA, pullB, falling, gated, x.1 == falling, preset, 0, none, y.1⟩) true (s.sensorAt i).smart.ended
      ⟨.counter, .fresh, 0, 0, 3, ⟨preset.toInt, 0, levelValue y.1, 0⟩, 0⟩ false y.2 := by
  rw [modeEntry_of (enterMode_counter (s.unworked i) i (s.sensorAt i).unworked pullA pullB falling gated preset first second)]
  unfold State.entered State.unworked State.sensorAt
  dsimp only
  rw [Six.get_set_same, Six.set_set, dropSensor_eq]
  rfl

end

/-! ### The fields of each mode (R61) -/

section
variable {r : SensorSetupRaw}

theorem checkModeSetup_off (mode : r.mode = 0) : checkModeSetup r = .ok (.off, false) := by rw [checkModeSetup, mode]; rfl

theorem checkModeSetup_analog (mode : r.mode = 1) (averaging : r.averaging.toNat ∈ [1, 2, 4, 8]) :
    checkModeSetup r = .ok (.analog (max 5 (min 1000 r.samplePeriod.toNat)) r.averaging.toNat,
      decide (r.samplePeriod.toNat < 5 ∨ 1000 < r.samplePeriod.toNat)) := by
  have window : (r.averaging.toNat == 1 || r.averaging.toNat == 2 || r.averaging.toNat == 4 || r.averaging.toNat == 8) = true := by
    simpa [or_assoc] using averaging
  have clamps : (clampNat 5 1000 r.samplePeriod.toNat != r.samplePeriod.toNat) =
      decide (r.samplePeriod.toNat < 5 ∨ 1000 < r.samplePeriod.toNat) := by
    rw [Bool.eq_iff_iff, bne_iff_ne, decide_eq_true_iff]
    exact clampNat_ne_iff (by decide) _
  rw [checkModeSetup, mode, ← clamps]
  show (need _ _ >>= fun _ => _) = _
  rw [window]
  rfl

theorem checkModeSetup_digital {pullA pullB : Pull} {dirA dirB : Direction} {edgeA edgeB : Edge} (mode : r.mode = 2)
    (pA : pullOf r.pullA = some pullA) (pB : pullOf r.pullB = some pullB) (dA : directionOf r.directionA = some dirA)
    (dB : directionOf r.directionB = some dirB) (eA : edgeOf r.edgeA = some edgeA) (eB : edgeOf r.edgeB = some edgeB)
    (debA : r.debounceA.toNat ≤ 50) (debB : r.debounceB.toNat ≤ 50) :
    checkModeSetup r = .ok (.digital pullA pullB dirA dirB r.debounceA.toNat r.debounceB.toNat edgeA edgeB, false) := by
  rw [checkModeSetup, mode, pA, pB, dA, dB, eA, eB, inRange_of (Nat.zero_le _) debA, inRange_of (Nat.zero_le _) debB]
  rfl

theorem checkModeSetup_counter {pullA pullB : Pull} {falling gated : Bool} (mode : r.mode = 3) (pA : pullOf r.pullA = some pullA)
    (pB : pullOf r.pullB = some pullB) (edge : r.countingEdge = if falling then 1 else 0) (gate : r.gate = if gated then 1 else 0) :
    checkModeSetup r = .ok (.counter pullA pullB falling gated r.preset, false) := by
  rw [checkModeSetup, mode, pA, pB, edge, gate]
  cases falling <;> cases gated <;> rfl

theorem checkModeSetup_smart (mode : r.mode = 4) (rate : r.maxRate.toNat ≤ 3) (preferred : r.preferred.toNat ≤ 7) :
    checkModeSetup r = .ok (.smart r.maxRate.toNat r.preferred.toNat, false) := by
  rw [checkModeSetup, mode, inRange_of (Nat.zero_le _) rate, inRange_of (Nat.zero_le _) preferred]
  rfl

end

theorem takeSensorSetup_enters {l : LineId} {port : Byte} {i : Idx6} {r : SensorSetupRaw} {s : State} {setup : ModeSetup} {policy : Policy}
    {clampedPeriod clamped : Bool} (port_ok : checkSetupPort l port s = .ok i) (mode : checkModeSetup r = .ok (setup, clampedPeriod))
    (reports : checkPolicy r s.clock = .ok (policy, clamped)) :
    takeSensorSetup l port r s = .ok (s.modeEntry i setup policy, [if clampedPeriod || clamped then 1 else 0]) := by
  rw [takeSensorSetup, port_ok, mode, reports]
  cases clampedPeriod <;> cases clamped <;> rfl

/-- A DIGITAL pin's part: an output drives its level unless an overload holds the port (R58, R72). -/
theorem digitalRole_eq (p : SensorPort) (q : DigitalPin) : q.role p.isHeld = (match q.direction with
    | .input => .input q.pull
    | .outputLow => if p.record.status = .fault then .highImpedance else .output false
    | .outputHigh => if p.record.status = .fault then .highImpedance else .output true) := by
  unfold DigitalPin.role SensorPort.isHeld
  cases q.direction <;> simp only [beq_iff_eq]

/-- Settles O44: a refused check leaves the state as it was, and each accepted setup is the entry into its mode. -/
theorem sensorSetupEntersMode : Obligations.SensorSetupEntersMode := by
  refine ⟨fun l tag r s ready => ⟨fun port none => ?_, fun i => ?_⟩, fun i s awake => ?_⟩
  · refine exec_refused rfl ready rfl (by cases l <;> rfl) ?_
    show takeSensorSetup l port r _ = _
    rw [takeSensorSetup, checkSetupPort_badPort none]; rfl
  · intro port permitted
    have allowed : (s.arrived l).lineAllows l (.sensorSetup port r) = true := by cases l <;> rfl
    have may : permitted → checkSetupPort l port (s.arrived l) = .ok i := fun h =>
      checkSetupPort_may (by rw [arrived_setupAllowed, arrived_readMask]; exact h)
    refine ⟨fun held => exec_refused rfl ready rfl allowed ?_, fun given bad => exec_refused rfl ready rfl allowed (takeSensorSetup_bad (may given) bad),
      fun policy clamped given asked => ?_⟩
    · show takeSensorSetup l port r _ = _
      rw [takeSensorSetup, checkSetupPort_held (by rw [arrived_setupAllowed, arrived_readMask]; exact held)]; rfl
    · intro p a stopped entered answers keep read
      have reports : checkPolicy r (s.arrived l).clock = .ok (policy, clamped) := by rw [arrived_clock]; exact checkPolicy_of asked
      have count : (s.arrived l).attn.sensor.get i = s.attn.sensor.get i := arrived_count _ _ (.sensor i) nofun
      have same : ∀ work on smart first due free, (s.arrived l).entered i policy work on smart first due free =
          entered work on smart first due free := by
        intro work on smart first due free
        unfold State.entered
        rw [arrived_sensorAt, arrived_sensor, arrived_conv, arrived_freeIdx, arrived_uptime, count] <;> rfl
      have taken : ∀ {setup clampedPeriod t}, checkModeSetup r = .ok (setup, clampedPeriod) →
          (s.arrived l).modeEntry i setup policy = t → answers t clampedPeriod := fun mode enters =>
        enters ▸ exec_taken rfl ready rfl allowed (takeSensorSetup_enters (may given) mode reports)
      have ended : ((s.arrived l).sensorAt i).smart.ended = keep := by rw [arrived_sensorAt]; rfl
      refine ⟨fun mode => ?_, fun mode averaging => ?_, fun pullA pullB dirA dirB edgeA edgeB mode pA pB dA dB eA eB debA debB => ?_,
        fun pullA pullB falling gated mode pA pB edge gate => ?_, fun mode rate preferred => ?_⟩
      · refine taken (checkModeSetup_off mode) ?_
        rw [modeEntry_off, ended, same]
      · refine taken (checkModeSetup_analog mode averaging) ?_
        rw [modeEntry_analog, ended, arrived_clock, same]
      · intro level x y
        refine taken (checkModeSetup_digital mode pA pB dA dB eA eB debA debB) ?_
        rw [modeEntry_digital (x := x) (y := y) policy ?_ ?_, ended, same]
        · rfl
        · rw [arrived_sensorAt, arrived_freeIdx]; cases dirA <;> rfl
        · rw [arrived_sensorAt, arrived_freeIdx]; cases dirB <;> rfl
      · intro x y
        refine taken (checkModeSetup_counter mode pA pB edge gate) ?_
        rw [modeEntry_counter (x := x) (y := y) policy ?_ ?_, ended, same]
        · rfl
        · rw [arrived_sensorAt, arrived_freeIdx]; rfl
        · rw [arrived_sensorAt, arrived_freeIdx]; rfl
      · refine taken (checkModeSetup_smart mode rate preferred) ?_
        rw [modeEntry_smart, same]
  · intro p pin digital
    have roles : ∀ x, pin x = p.role x := fun x => by
      show s.pinRole i x = _
      rw [State.pinRole, awake]; rfl
    have sampled : s.pin1Role i = p.pin1Role := by rw [State.pin1Role, awake]; rfl
    rw [roles, roles, sampled, State.supplyPin, awake]
    refine ⟨rfl, fun work => ?_, fun w work => ?_, fun x y work => ?_, fun w work => ?_, fun work => ?_⟩
    · unfold SensorPort.pin1Role SensorPort.role; rw [work]
      exact ⟨rfl, rfl, rfl⟩
    · unfold SensorPort.pin1Role SensorPort.role; rw [work]
      exact ⟨rfl, rfl, rfl⟩
    · unfold SensorPort.pin1Role SensorPort.role; rw [work]
      exact ⟨rfl, digitalRole_eq p x, digitalRole_eq p y⟩
    · unfold SensorPort.pin1Role SensorPort.role; rw [work]
      exact ⟨rfl, rfl, rfl⟩
    · unfold SensorPort.pin1Role SensorPort.role; rw [work]
      refine ⟨rfl, rfl, fun stopped => ?_, fun running idle => ?_, fun r running sending => ?_⟩
      · show p.smart.txRole = _
        rw [Smart.txRole, stopped]; rfl
      · show p.smart.txRole = _
        rw [Smart.txRole, running, idle]; rfl
      · show p.smart.txRole = _
        rw [Smart.txRole, running, sending]; rfl

end Sys2Proof.Machine
end

-- ==== Sys2Proof/Proofs/SmartEvents.lean ====

section
/-! The smart lines: SMART_SELECT and SMART_WRITE, the characters received, the timers and the transmitter (R78 to R96). -/

namespace Sys2Proof.Machine

/-! ### The transmitter (R82) -/

section
variable {c : Smart}

theorem beginTx_busy {r : List Byte} (sending : c.tx = some r) : c.beginTx = c := by
  unfold Smart.beginTx
  rw [sending, Option.isSome_some, Bool.or_true, if_pos rfl]

/-- An idle transmitter takes the slot, then the oldest COMMAND, then a NUDGE. -/
theorem beginTx_idle (running : c.running = true) (idle : c.tx = none) : c.beginTx = (match c.slot, c.cmdFifo with
    | some x, _ => { c with tx := some x, slot := none }
    | none, x :: rest => { c with tx := some x, cmdFifo := rest }
    | none, [] => if c.nudge then { c with tx := some [0xE0, 0x1F], nudge := false } else c) := by
  unfold Smart.beginTx
  rw [running, idle]
  cases c.slot with
  | some x => rfl
  | none =>
    cases c.cmdFifo with
    | cons x rest => rfl
    | nil => cases c.nudge <;> rfl

theorem beginTx_slot (running : c.running = true) (idle : c.tx = none) {x : List Byte} (waits : c.slot = some x) :
    c.beginTx = { c with tx := some x, slot := none } := by
  rw [beginTx_idle running idle, waits]

/-- A record put in the protocol slot is begun at once by an idle transmitter. -/
theorem beginTx_placed (running : c.running = true) (x : List Byte) : ({ c with slot := some x } : Smart).beginTx = (match c.tx with
    | some _ => { c with slot := some x }
    | none => { c with slot := none, tx := some x }) := by
  cases idle : c.tx with
  | some r => exact beginTx_busy rfl
  | none => exact beginTx_slot (c := { c with slot := some x, tx := none }) running rfl rfl

end

/-- A record of one body byte. -/
theorem smartRecord_one (cls : Nat) (b : Byte) :
    smartRecord cls [b] = [BitVec.ofNat 8 (32 * cls + 1), b, 0xFF ^^^ BitVec.ofNat 8 (32 * cls + 1) ^^^ b] := by
  simp [smartRecord, xorAll]

/-! ### SMART_SELECT and SMART_WRITE (R61, R94 to R96) -/

theorem smart_mode_iff (p : SensorPort) : p.mode = .smart ↔ p.work = .smart := by
  unfold SensorPort.mode
  cases p.work <;> simp

theorem live_true {p : SensorPort} (live : p.work = .smart ∧ p.smart.running = true) : (p.mode == .smart && p.smart.running) = true := by
  rw [live.2, Bool.and_true, beq_iff_eq, smart_mode_iff]
  exact live.1

theorem live_false {p : SensorPort} (dead : ¬ (p.work = .smart ∧ p.smart.running = true)) :
    (p.mode == .smart && p.smart.running) = false := by
  rw [Bool.eq_false_iff]
  simpa [smart_mode_iff] using dead

/-- The line takes another mode: the SELECT record in the slot, the reading STALE (R94, R95). -/
theorem smartSelects_eq (s : State) (i : Idx6) (mode : Byte) :
    (s.modSmart i fun c => { c with
      lineState := .switching, selected := some mode.toNat, slot := some (smartRecord 6 [mode]), lossTimer := some s.clock }.beginTx).setStatus i
        .stale = { s with sensor := s.sensor.set i { s.sensorAt i with
      record := { (s.sensorAt i).record with status := .stale }
      smart := ({ (s.sensorAt i).smart with
        lineState := .switching, selected := some mode.toNat, slot := some (smartRecord 6 [mode]), lossTimer := some s.clock } : Smart).beginTx } } := by
  rw [State.modSmart_eq, State.setStatus, modSensor_set]

section
variable {l : LineId} {port mode count : Byte} {bytes : List Byte} {i : Idx6} {s : State}

theorem takeSmartSelect_noPort {e : Refused} (h : checkSetupPort l port s = .error e) : takeSmartSelect l port mode s = .error e := by
  rw [takeSmartSelect, h]; rfl

theorem takeSmartWrite_noPort {e : Refused} (h : checkSetupPort l port s = .error e) : takeSmartWrite l port count bytes s = .error e := by
  rw [takeSmartWrite, h]; rfl

variable (named : checkSetupPort l port s = .ok i)
include named

theorem takeSmartSelect_dead (dead : ¬ ((s.sensorAt i).work = .smart ∧ (s.sensorAt i).smart.running = true)) :
    takeSmartSelect l port mode s = .error ⟨.wrongState, []⟩ := by
  rw [takeSmartSelect, named, Check.bind_of_ok, State.smartAt]
  dsimp only
  rw [live_false dead]; rfl

variable (live : (s.sensorAt i).work = .smart ∧ (s.sensorAt i).smart.running = true)
include live

theorem takeSmartSelect_busy (state : (s.sensorAt i).smart.lineState = .starting ∨ (s.sensorAt i).smart.lineState = .switching) :
    takeSmartSelect l port mode s = .error ⟨.busy, []⟩ := by
  rw [takeSmartSelect, named, Check.bind_of_ok, State.smartAt]
  dsimp only
  rw [live_true live]
  rcases state with state | state <;> rw [state] <;> rfl

theorem takeSmartSelect_early (state : (s.sensorAt i).smart.lineState = .listen ∨ (s.sensorAt i).smart.lineState = .announcing ∨
    (s.sensorAt i).smart.lineState = .accepting) : takeSmartSelect l port mode s = .error ⟨.wrongState, []⟩ := by
  rw [takeSmartSelect, named, Check.bind_of_ok, State.smartAt]
  dsimp only
  rw [live_true live]
  rcases state with state | state | state <;> rw [state] <;> rfl

variable (streaming : (s.sensorAt i).smart.lineState = .streaming)
include streaming

theorem takeSmartSelect_bad {profile : Profile} (known : (s.sensorAt i).smart.profile = some profile)
    (beyond : profile.modeCount ≤ mode.toNat) : takeSmartSelect l port mode s = .error ⟨.badParam, []⟩ := by
  rw [takeSmartSelect, named, Check.bind_of_ok, State.smartAt]
  dsimp only
  rw [live_true live, streaming, known, Option.elim_some,
    decide_eq_false (Nat.not_lt.mpr beyond)]
  rfl

theorem takeSmartSelect_takes {profile : Profile} (known : (s.sensorAt i).smart.profile = some profile)
    (within : mode.toNat < profile.modeCount) : takeSmartSelect l port mode s = .ok ({ s with sensor := s.sensor.set i { s.sensorAt i with
      record := { (s.sensorAt i).record with status := .stale }
      smart := ({ (s.sensorAt i).smart with
        lineState := .switching, selected := some mode.toNat, slot := some (smartRecord 6 [mode]), lossTimer := some s.clock } : Smart).beginTx } },
      []) := by
  rw [← smartSelects_eq, takeSmartSelect, named, Check.bind_of_ok, State.smartAt]
  dsimp only
  rw [live_true live, streaming, known, Option.elim_some, decide_eq_true within]
  rfl

end

section
variable {l : LineId} {port count : Byte} {bytes : List Byte} {i : Idx6} {s : State} (named : checkSetupPort l port s = .ok i)
include named

theorem takeSmartWrite_length (length : count = 0 ∨ 24 < count.toNat) : takeSmartWrite l port count bytes s = .error ⟨.badParam, []⟩ := by
  have out : (decide (1 ≤ count.toNat) && decide (count.toNat ≤ 24)) = false := by
    have zero : count = 0 ↔ count.toNat = 0 := BitVec.toNat_inj.symm
    rw [zero] at length
    simp only [Bool.and_eq_false_iff, decide_eq_false_iff_not]
    omega
  rw [takeSmartWrite, named, Check.bind_of_ok, out]; rfl

variable (least : 1 ≤ count.toNat) (most : count.toNat ≤ 24)
include least most

theorem takeSmartWrite_dead (dead : ¬ ((s.sensorAt i).work = .smart ∧ (s.sensorAt i).smart.running = true) ∨
    (s.sensorAt i).smart.lineState ≠ .streaming) : takeSmartWrite l port count bytes s = .error ⟨.wrongState, []⟩ := by
  have off : ((s.sensorAt i).mode == .smart && (s.sensorAt i).smart.running && (s.sensorAt i).smart.lineState == .streaming) = false := by
    rcases dead with dead | state
    · rw [live_false dead, Bool.false_and]
    · rw [beq_false_of_ne state, Bool.and_false]
  rw [takeSmartWrite, named, Check.bind_of_ok, decide_eq_true least, decide_eq_true most, State.smartAt]
  dsimp only
  rw [off]; rfl

variable (live : (s.sensorAt i).work = .smart ∧ (s.sensorAt i).smart.running = true)
  (streaming : (s.sensorAt i).smart.lineState = .streaming)
include live streaming

theorem takeSmartWrite_full (full : 32 < (s.sensorAt i).smart.cmdUsed + (count.toNat + 2)) :
    takeSmartWrite l port count bytes s = .error ⟨.queueFull, []⟩ := by
  rw [takeSmartWrite, named, Check.bind_of_ok, decide_eq_true least, decide_eq_true most, State.smartAt]
  dsimp only
  rw [live_true live, streaming, decide_eq_false (Nat.not_le.mpr full)]
  rfl

theorem takeSmartWrite_takes (fits : (s.sensorAt i).smart.cmdUsed + (count.toNat + 2) ≤ 32) (counts : bytes.length = count.toNat) :
    takeSmartWrite l port count bytes s = .ok ({ s with sensor := s.sensor.set i { s.sensorAt i with
      smart := ({ (s.sensorAt i).smart with cmdFifo := (s.sensorAt i).smart.cmdFifo ++ [smartRecord 0 bytes] } : Smart).beginTx } },
      [BitVec.ofNat 8 ((s.sensorAt i).smart.cmdRoom - (count.toNat + 2))]) := by
  rw [takeSmartWrite, named, Check.bind_of_ok, decide_eq_true least, decide_eq_true most, State.smartAt]
  dsimp only
  rw [live_true live, streaming, decide_eq_true fits]
  have room : ({ (s.sensorAt i).smart with cmdFifo := (s.sensorAt i).smart.cmdFifo ++ [smartRecord 0 bytes] } : Smart).cmdRoom =
      (s.sensorAt i).smart.cmdRoom - (count.toNat + 2) := by
    unfold Smart.cmdRoom Smart.cmdUsed
    simp [smartRecord, counts]
    omega
  refine congrArg (fun n => Except.ok (_, [BitVec.ofNat 8 n])) ?_
  exact room

end

/-- Settles O49: the checks in the rules' order, and an accepted request's record begun at once by an idle transmitter. -/
theorem smartRequestsAct : Obligations.SmartRequestsAct := by
  refine ⟨fun l tag port mode count bytes s ready counts short none => ?_, fun l tag i mode count bytes s ready counts short => ?_⟩
  · have wf : (Request.smartWrite port count bytes).wf = true := by simp [Request.wf, counts]; omega
    have bad := checkSetupPort_badPort (l := l) (s := s.arrived l) none
    exact ⟨exec_refused rfl ready rfl (by cases l <;> rfl) (takeSmartSelect_noPort bad),
      exec_refused rfl ready wf (by cases l <;> rfl) (takeSmartWrite_noPort bad)⟩
  · intro port p c a permitted select write selects writes changed live room record selectRecord
    have wf : write.wf = true := by simp [write, Request.wf, counts]; omega
    have may : permitted → checkSetupPort l port (s.arrived l) = .ok i := fun h =>
      checkSetupPort_may (by rw [arrived_setupAllowed, arrived_readMask]; exact h)
    have selectAllowed : (s.arrived l).lineAllows l select = true := by cases l <;> rfl
    have writeAllowed : (s.arrived l).lineAllows l write = true := by cases l <;> rfl
    have selectFails : ∀ {x}, takeSmartSelect l port mode (s.arrived l) = .error ⟨x, []⟩ → selects a x :=
      fun h => exec_refused rfl ready rfl selectAllowed h
    have writeFails : ∀ {x}, takeSmartWrite l port count bytes (s.arrived l) = .error ⟨x, []⟩ → writes a x [] :=
      fun h => exec_refused rfl ready wf writeAllowed h
    have same : (s.arrived l).sensorAt i = p := arrived_sensorAt ..
    refine ⟨fun held => ?_, fun given => ?_⟩
    · have refused := checkSetupPort_held (l := l) (i := i) (s := s.arrived l) (by rw [arrived_setupAllowed, arrived_readMask]; exact held)
      exact ⟨selectFails (takeSmartSelect_noPort refused), writeFails (takeSmartWrite_noPort refused)⟩
    have on := may given
    have within : 32 - c.cmdUsed = room := rfl
    have stays : ∀ q : SensorPort, ({ s.arrived l with sensor := (s.arrived l).sensor.set i q } : State) = changed q := fun q => by
      rw [arrived_sensor]
    refine ⟨fun dead => selectFails (takeSmartSelect_dead on (by rw [same]; exact dead)),
      fun alive state => selectFails (takeSmartSelect_busy on (by rw [same]; exact alive) (by rw [same]; exact state)),
      fun alive state => selectFails (takeSmartSelect_early on (by rw [same]; exact alive) (by rw [same]; exact state)),
      fun profile alive state known => ⟨fun beyond => selectFails (takeSmartSelect_bad on (by rw [same]; exact alive) (by rw [same]; exact state)
        (by rw [same]; exact known) beyond), fun mode_ => ?_⟩,
      fun length => writeFails (takeSmartWrite_length on length),
      fun least most dead => writeFails (takeSmartWrite_dead on least most (by rw [same]; exact dead)),
      fun least most alive state full => writeFails (takeSmartWrite_full on least most (by rw [same]; exact alive) (by rw [same]; exact state)
        (by rw [same]; show 32 < c.cmdUsed + _; omega)), fun least most alive state fits => ?_⟩
    · intro c'
      have taken := takeSmartSelect_takes on (by rw [same]; exact alive) (by rw [same]; exact state) (by rw [same]; exact known) mode_
      rw [same, stays, arrived_clock, smartRecord_one] at taken
      have runs := exec_taken (c := .smartSelect l tag port mode) rfl ready rfl selectAllowed taken
      exact runs.trans (congrArg (fun q : Smart => Host.Outcome.next ((changed { p with
        record := { p.record with status := .stale }, smart := q }).replied l tag select .ok []).settle)
        (beginTx_placed (c := c') alive.2 selectRecord))
    · have taken := takeSmartWrite_takes on least most (by rw [same]; exact alive) (by rw [same]; exact state)
        (by rw [same]; show c.cmdUsed + _ ≤ 32; omega) counts
      rw [same, stays] at taken
      have runs := exec_taken (c := .smartWrite l tag port count bytes) rfl ready wf writeAllowed taken
      have written : smartRecord 0 bytes = record := by
        have header : BitVec.ofNat 8 (32 * 0 + bytes.length) = count := by
          rw [counts, Nat.mul_zero, Nat.zero_add, BitVec.ofNat_toNat]
          exact BitVec.setWidth_eq count
        rw [smartRecord, header]
        rfl
      rw [written] at runs
      refine ⟨fun r sending => ?_, fun idle slot empty => ?_⟩
      · rw [beginTx_busy (r := r) (by exact sending)] at runs
        exact runs
      · have begun : ({ c with cmdFifo := c.cmdFifo ++ [record] } : Smart).beginTx = { c with tx := some record } := by
          rw [beginTx_idle (by exact alive.2) (by exact idle)]
          dsimp only
          rw [slot, empty]
          rfl
        rw [begun] at runs
        have emptied : c.cmdRoom = 32 := by rw [Smart.cmdRoom, Smart.cmdUsed, empty]; rfl
        rw [emptied] at runs
        exact runs

/-! ### The timers and the transmitter's end (R80, R82, R84, R87 to R89, R91, R92) -/

section
variable {s : State} (calm : s.calm = true)
include calm

/-- A command whose effect changes one controller. -/
theorem command_smart {effect : State → State} {i : Idx6} {f : Smart → Smart} {c' : Smart} (is : effect s = s.modSmart i f)
    (makes : f (s.sensorAt i).smart = c') :
    s.command effect = { s with sensor := s.sensor.set i { s.sensorAt i with smart := c' } } := by
  rw [command_calm calm, is, State.modSmart_eq, makes, settle_sensor calm]

/-- A command without an effect. -/
theorem command_nothing {effect : State → State} (is : effect s = s) : s.command effect = s := by
  rw [command_calm calm, is, settle_of_calm calm]

end

theorem discard_eq (c : Smart) : c.discard = (if c.lineState = .announcing then
    { c with errors := min 65535 (c.errors + 1), parser := none, profile := none, announceTimer := none, lineState := .listen, rate := 2400 }
    else { c with errors := min 65535 (c.errors + 1), parser := none }) := by
  unfold Smart.discard Smart.failHandshake
  rfl

theorem rateOfCode_eq (n : Nat) :
    rateOfCode n = if n = 0 then 9600 else if n = 1 then 19200 else if n = 2 then 57600 else 115200 := by
  match n with
  | 0 => rfl
  | 1 => rfl
  | 2 => rfl
  | n + 3 => rfl

/-- The switch to the agreed rate, the transmitter idle: the SELECT record is begun at once (R88, R89). -/
theorem switched_eq {c : Smart} {profile : Profile} (known : c.profile = some profile) (running : c.running = true) (idle : c.tx = none)
    {index clock : Nat} : ({ c with
      rate := rateOfCode c.agreedCode, rxFifo := [], lostMark := false, parser := none, pauseTimer := none, switchTimer := none
      lineState := .starting, selected := some index, slot := some (smartRecord 6 [BitVec.ofNat 8 index]), nudgeTimer := some clock
      lossTimer := some clock } : Smart).beginTx = { c with
      rate := if min profile.maxRate c.maxRate = 0 then 9600 else if min profile.maxRate c.maxRate = 1 then 19200
        else if min profile.maxRate c.maxRate = 2 then 57600 else 115200
      rxFifo := [], lostMark := false, parser := none, pauseTimer := none, switchTimer := none, lineState := .starting
      selected := some index, slot := none
      tx := some [0xC1, BitVec.ofNat 8 index, 0xFF ^^^ 0xC1 ^^^ BitVec.ofNat 8 index], nudgeTimer := some clock, lossTimer := some clock } := by
  have code : c.agreedCode = min profile.maxRate c.maxRate := by rw [Smart.agreedCode, known]
  rw [code, rateOfCode_eq, smartRecord_one, beginTx_slot (by exact running) (by exact idle) (by rfl)]
  rfl

/-- A record sent: what waits is begun (R82). -/
theorem sent_eq {c : Smart} (running : c.running = true) {timer : Timer} :
    ({ c with tx := none, switchTimer := timer } : Smart).beginTx = (match c.slot, c.cmdFifo with
      | some x, _ => { c with switchTimer := timer, tx := some x, slot := none }
      | none, x :: rest => { c with switchTimer := timer, tx := some x, cmdFifo := rest }
      | none, [] => if c.nudge then { c with switchTimer := timer, tx := some [0xE0, 0x1F], nudge := false }
        else { c with switchTimer := timer, tx := none }) := by
  rw [beginTx_idle (by exact running) (by rfl)]

/-- Settles O51: a running timer's expiry changes its own controller, a stopped one's nothing. -/
theorem smartTimersExpire : Obligations.SmartTimersExpire := by
  intro i s calm p c done nudge
  refine ⟨fun cs t timer parser => ?_, fun off => ?_, fun timer => ?_, fun timer => ?_, fun profile timer running idle known => ?_, fun timer => ?_,
    fun t timer running => ⟨fun sending => ?_, fun idle slot empty => ?_⟩, fun timer => ?_, fun timer => ?_, fun timer => ?_,
    fun r sending running => ?_, fun idle => ?_⟩
  · refine congrArg Host.Outcome.next (command_smart calm (i := i) (f := fun c => { c.discard with pauseTimer := none }) ?_ ?_)
    · rw [State.smartPause, State.smartAt, show (s.sensorAt i).smart.pauseTimer = some t from timer,
        show (s.sensorAt i).smart.parser = some cs from parser]
      rfl
    · show ({ c.discard with pauseTimer := none } : Smart) = _
      rw [discard_eq]
      split <;> rfl
  · refine congrArg Host.Outcome.next (command_nothing calm ?_)
    have : (c.pauseTimer.isSome && c.parser.isSome) = false := by
      rcases off with h | h <;> rw [h] <;> simp
    exact if_neg (Bool.eq_false_iff.mp this)
  · exact congrArg Host.Outcome.next (command_smart calm (if_pos (Option.isSome_iff_ne_none.mpr timer)) rfl)
  · refine congrArg Host.Outcome.next (command_nothing calm (if_neg ?_))
    rw [State.smartAt, show (s.sensorAt i).smart.announceTimer = none from timer]; decide
  · intro index b code
    refine congrArg Host.Outcome.next (command_smart calm (if_pos (Option.isSome_iff_ne_none.mpr timer)) ?_)
    show Smart.beginTx { c with
      rate := rateOfCode c.agreedCode, rxFifo := [], lostMark := false, parser := none, pauseTimer := none, switchTimer := none
      lineState := .starting, selected := some _, slot := some (smartRecord 6 [BitVec.ofNat 8 _]), nudgeTimer := some s.clock
      lossTimer := some s.clock } = _
    rw [switched_eq known running idle, known]
  · refine congrArg Host.Outcome.next (command_nothing calm (if_neg ?_))
    rw [State.smartAt, show (s.sensorAt i).smart.switchTimer = none from timer]; decide
  · refine congrArg Host.Outcome.next (command_smart calm (i := i)
      (f := fun c => { c with nudge := true, nudgeTimer := some (t + 100) }.beginTx) ?_ ?_)
    · rw [State.smartNudge, State.smartAt, show (s.sensorAt i).smart.nudgeTimer = some t from timer]
    · obtain ⟨r, sending⟩ := Option.ne_none_iff_exists'.mp sending
      exact beginTx_busy (r := r) sending
  · refine congrArg Host.Outcome.next (command_smart calm (i := i)
      (f := fun c => { c with nudge := true, nudgeTimer := some (t + 100) }.beginTx) ?_ ?_)
    · rw [State.smartNudge, State.smartAt, show (s.sensorAt i).smart.nudgeTimer = some t from timer]
    · show Smart.beginTx { c with nudge := true, nudgeTimer := some (t + 100) } = _
      rw [beginTx_idle (by exact running) (by exact idle)]
      dsimp only
      rw [slot, empty]
      rfl
  · refine congrArg Host.Outcome.next (command_nothing calm ?_)
    rw [State.smartNudge, State.smartAt, show (s.sensorAt i).smart.nudgeTimer = none from timer]
  · show Host.Outcome.next (s.command _) = _
    rw [command_calm calm, State.smartLoss, State.smartAt, if_pos (Option.isSome_iff_ne_none.mpr timer), State.setStatus, modSensor_eq,
      State.modSmart, modSensor_set, raiseSensor_eq]
    rfl
  · refine congrArg Host.Outcome.next (command_nothing calm (if_neg ?_))
    rw [State.smartAt, show (s.sensorAt i).smart.lossTimer = none from timer]; decide
  · intro timed
    refine congrArg Host.Outcome.next (command_smart calm (i := i) (f := fun c => { c with
      tx := none
      switchTimer := if classOf (rd8 r 0) == 5 && c.lineState == LineState.accepting then some s.clock else c.switchTimer }.beginTx) ?_ ?_)
    · rw [State.smartSent, State.smartAt, show (s.sensorAt i).smart.tx = some r from sending]
    · have starts : (if classOf (rd8 r 0) == 5 && c.lineState == LineState.accepting then some s.clock else c.switchTimer) =
          timed.switchTimer := by
        show _ = if (rd8 r 0).toNat / 32 = 5 ∧ c.lineState = .accepting then some s.clock else c.switchTimer
        rw [classOf_eq]
        simp only [Bool.and_eq_true, beq_iff_eq]
      refine (sent_eq running).trans ?_
      rw [starts] <;> rfl
  · refine congrArg Host.Outcome.next (command_nothing calm ?_)
    rw [State.smartSent, State.smartAt, show (s.sensorAt i).smart.tx = none from idle]

end Sys2Proof.Machine
end

-- ==== Sys2Proof/Proofs/SmartCharacters.lean ====

section
/-! SMART_CHARACTER_RECEIVED: records assembled, checked and judged by the line state (R78 to R90, R95). -/

namespace Sys2Proof.Machine

/-! ### A controller changed beside a report -/

theorem modSmart_raiseSensor (s : State) (i : Idx6) (f : Smart → Smart) (c : SensorCause) :
    (s.modSmart i f).raiseSensor i c = (s.raiseSensor i c).modSmart i f := by
  have raised := raiseSensor_eq s i (s.sensorAt i) c
  rw [set_self] at raised
  rw [raised, State.modSmart_eq, raiseSensor_eq]
  exact (modSensor_set { s with attn := { s.attn with sensor := s.attn.sensor.set i (min 255 (s.attn.sensor.get i + 1)) } } i
    { s.sensorAt i with causes := (s.sensorAt i).causes.set c } fun p => { p with smart := f p.smart }).symm

theorem modSmart_modSensor (s : State) (i : Idx6) (f : Smart → Smart) {g : SensorPort → SensorPort}
    (keeps : ∀ p : SensorPort, g { p with smart := f p.smart } = { g p with smart := f (g p).smart }) :
    (s.modSmart i f).modSensor i g = (s.modSensor i g).modSmart i f := by
  rw [modSensor_eq s i g, State.modSmart_eq, modSensor_set, keeps, State.modSmart, modSensor_set]

theorem modSmart_samplePolicy (s : State) (i : Idx6) (f : Smart → Smart) :
    (s.modSmart i f).samplePolicy i = (s.samplePolicy i).modSmart i f := by
  have policy : ((s.modSmart i f).sensorAt i).policy = (s.sensorAt i).policy := by
    rw [State.modSmart_eq, sensorAt_set]
  have record : ((s.modSmart i f).sensorAt i).record = (s.sensorAt i).record := by
    rw [State.modSmart_eq, sensorAt_set]
  unfold State.samplePolicy
  dsimp only
  rw [policy, record]
  cases (s.sensorAt i).policy with
  | none => rfl
  | interval => rfl
  | every => exact modSmart_raiseSensor s i f _
  | change delta reference =>
    dsimp only
    rw [modSmart_modSensor s i f (fun p => rfl), modSmart_raiseSensor]
    cases reference <;> (dsimp only; split <;> rfl)

/-! ### Records by class (R81, R84 to R90) -/

section
variable {c : Smart} {body : List Byte}

theorem announce_eq (c : Smart) (body : List Byte) (clock : Nat) : c.announce body clock =
    if body.length = 4 ∧ 1 ≤ (rd8 body 2).toNat ∧ (rd8 body 2).toNat ≤ 8 ∧ (rd8 body 3).toNat ≤ 3 then
      { c with profile := some ⟨rd16 body 0, (rd8 body 2).toNat, (rd8 body 3).toNat, []⟩, lineState := .announcing, announceTimer := some clock }
    else c.discard := by
  unfold Smart.announce
  simp only [Bool.and_eq_true, decide_eq_true_iff, and_assoc]

theorem valueFormatOf_eq (b : Byte) : valueFormatOf b = if b.toNat ≤ 2 then
    some (if b.toNat = 0 then .int8 else if b.toNat = 1 then .int16 else .int32) else none := by
  revert b; decide

/-- The index of a profile's entry that is found is the index looked for. -/
theorem mode_index {p : Profile} {k : Nat} {m : ModeInfo} (found : p.mode k = some m) : m.index = k := by
  simpa using List.find?_some found

theorem mode_isNone (p : Profile) (k : Nat) : (p.mode k).isNone = true ↔ ¬ ∃ m ∈ p.modes, m.index = k := by
  simp [Profile.mode]

theorem isWhole_iff (p : Profile) : p.isWhole = true ↔ ¬ ∃ k ∈ List.range p.modeCount, ∀ m ∈ p.modes, m.index ≠ k := by
  simp [Profile.isWhole, Profile.mode]

/-- A MODE_INFO: counted where its shape fails, the handshake failed where its index does, added to the profile otherwise (R85). -/
theorem modeInfo_eq {profile : Profile} (known : c.profile = some profile) (shaped : Prop) [Decidable shaped]
    (is : shaped ↔ 5 ≤ body.length ∧ body.length = 5 + (rd8 body 4).toNat ∧ (rd8 body 4).toNat ≤ 11 ∧ 1 ≤ (rd8 body 1).toNat ∧
      (rd8 body 1).toNat ≤ 4 ∧ (rd8 body 2).toNat ≤ 2 ∧ (rd8 body 3).toNat ≤ 4)
    (taken : Prop) [Decidable taken] (was : taken ↔ profile.modeCount ≤ (rd8 body 0).toNat ∨ ∃ m ∈ profile.modes, m.index = (rd8 body 0).toNat) :
    c.modeInfo body = if ¬ shaped then c.discard else if taken then c.failHandshake else { c with profile := some { profile with
      modes := profile.modes ++ [⟨(rd8 body 0).toNat, (rd8 body 1).toNat,
        if (rd8 body 2).toNat = 0 then .int8 else if (rd8 body 2).toNat = 1 then .int16 else .int32, (rd8 body 3).toNat, body.drop 5⟩] } } := by
  have fresh : ((rd8 body 0).toNat < profile.modeCount ∧ (profile.mode (rd8 body 0).toNat).isNone = true) ↔ ¬ taken := by
    rw [was, mode_isNone, not_or, Nat.not_le]
  unfold Smart.modeInfo
  rw [valueFormatOf_eq, known]
  by_cases format : (rd8 body 2).toNat ≤ 2
  · rw [if_pos format]
    simp only [Bool.and_eq_true, decide_eq_true_iff, fresh]
    by_cases holds : shaped
    · rw [if_pos (by have := is.mp holds; omega), if_neg (not_not_intro holds), ite_not]
    · rw [if_neg (fun fits => holds (is.mpr (by omega))), if_pos holds]
  · rw [if_neg format, if_pos fun holds => format (is.mp holds).2.2.2.2.2.1]

/-- An ANNOUNCE_END: its body counted, the profile completed, or the handshake failed (R86, R88). -/
theorem announceEnd_eq {profile : Profile} (known : c.profile = some profile) (running : c.running = true) (absent : Prop) [Decidable absent]
    (is : absent ↔ ∃ k ∈ List.range profile.modeCount, ∀ m ∈ profile.modes, m.index ≠ k) {rate : Byte}
    (agreed : rate = BitVec.ofNat 8 (min profile.maxRate c.maxRate)) :
    c.announceEnd body = if body.length ≠ 0 then c.discard else if absent then c.failHandshake else { c with
      announceTimer := none, lineState := .accepting
      slot := if c.tx = none then none else some [0xA1, rate, 0xFF ^^^ 0xA1 ^^^ rate]
      tx := if c.tx = none then some [0xA1, rate, 0xFF ^^^ 0xA1 ^^^ rate] else c.tx } := by
  have code : c.agreedCode = min profile.maxRate c.maxRate := by rw [Smart.agreedCode, known]
  unfold Smart.announceEnd
  cases body with
  | cons => rfl
  | nil =>
    rw [known]
    dsimp only
    by_cases holds : absent
    · rw [if_pos holds, if_neg (fun whole => (isWhole_iff profile).mp whole (is.mp holds))]
      rfl
    · rw [if_neg holds, if_pos ((isWhole_iff profile).mpr fun h => holds (is.mpr h)), code, ← known, agreed]
      refine (beginTx_placed (c := { c with announceTimer := none, lineState := .accepting }) running _).trans ?_
      rw [show u8 (min profile.maxRate c.maxRate) = [BitVec.ofNat 8 (min profile.maxRate c.maxRate)] from rfl, smartRecord_one]
      cases idle : c.tx <;> rfl

/-! ### DATA records (R89, R90) -/

theorem dataMode_none {profile : Profile} (known : c.profile = some profile) (fails : profile.modeCount ≤ (rd8 body 0).toNat ∨
    ∀ m, profile.mode (rd8 body 0).toNat = some m → body.length ≠ 1 + m.count * m.format.size) : c.dataMode body = none := by
  unfold Smart.dataMode
  rw [known]
  cases body with
  | nil => rfl
  | cons index rest =>
    dsimp only
    cases found : profile.mode index.toNat with
    | none => rfl
    | some m =>
      refine if_neg fun fits => ?_
      simp only [Bool.and_eq_true, decide_eq_true_iff] at fits
      rcases fails with beyond | short
      · exact Nat.not_lt.mpr beyond fits.1
      · exact short m found fits.2

theorem dataMode_some {profile : Profile} {m : ModeInfo} (known : c.profile = some profile) (found : profile.mode (rd8 body 0).toNat = some m)
    (within : (rd8 body 0).toNat < profile.modeCount) (length : body.length = 1 + m.count * m.format.size) : c.dataMode body = some m := by
  unfold Smart.dataMode
  rw [known]
  cases body with
  | nil => rw [List.length_nil] at length; omega
  | cons index rest =>
    dsimp only
    rw [show profile.mode index.toNat = some m from found]
    exact if_pos (by simp only [Bool.and_eq_true, decide_eq_true_iff]; exact ⟨within, length⟩)

end

section
variable (s : State) (i : Idx6)

theorem modSmart_valueSet (f : Smart → Smart) (status : ReadingStatus) (count : Nat) (values : Values) (decimals : Nat) :
    (s.modSmart i f).valueSet i status count values decimals = (s.valueSet i status count values decimals).modSmart i f :=
  modSmart_modSensor s i f fun _ => rfl

/-- The values of a DATA record's body (R90). -/
def dataValues (m : ModeInfo) (body : List Byte) : Values := ⟨dataValue m body 0, dataValue m body 1, dataValue m body 2, dataValue m body 3⟩

theorem dataValue_eq (m : ModeInfo) (body : List Byte) (k : Nat) : dataValue m body k = if m.count ≤ k then 0 else (match m.format with
    | .int8 => (rd8 body (1 + k)).toInt
    | .int16 => (rd16 body (1 + 2 * k)).toInt
    | .int32 => (rd32 body (1 + 4 * k)).toInt) := by
  unfold dataValue
  by_cases beyond : m.count ≤ k
  · rw [if_pos beyond, if_neg (Nat.not_lt.mpr beyond)]
  · rw [if_neg beyond]
    exact if_pos (Nat.lt_of_not_le beyond)

/-- The value set of an accepted DATA record, before its report (R59, R90). -/
def State.accepted (m : ModeInfo) (body : List Byte) : State :=
  (s.valueSet i .fresh m.count (dataValues m body) m.decimals).modSmart i fun c =>
    { c.waiting with lineState := .streaming, lossTimer := some s.clock }

theorem accepted_eq (work : (s.sensorAt i).work = .smart) (m : ModeInfo) (body : List Byte) :
    s.accepted i m body = { s with sensor := s.sensor.set i { s.sensorAt i with
      smart := { (s.sensorAt i).smart.waiting with lineState := .streaming, lossTimer := some s.clock }
      record := ⟨.smart, .fresh, (s.sensorAt i).record.sequence + 1, s.uptime, m.count, dataValues m body, m.decimals⟩ } } := by
  rw [State.accepted, State.valueSet, modSensor_eq, State.modSmart, modSensor_set, (smart_mode_iff _).mpr work]

/-- A DATA record of the selected mode, taken between the parser's two changes of the controller. -/
theorem dataAccepted_eq (m : ModeInfo) (body : List Byte) :
    ((((s.modSmart i fun c => { c with parser := none, lostMark := false }).modSmart i fun c => { c with lineState := .streaming }).dataAccepted i m
      body).modSmart i fun c => { c with pauseTimer := if c.parser.isSome then some s.clock else none }) = (s.accepted i m body).samplePolicy i := by
  rw [State.dataAccepted, ← modSmart_samplePolicy]
  refine congrArg (fun t : State => t.samplePolicy i) ?_
  rw [State.modSmart_modSmart, State.modSmart_modSmart, modSmart_valueSet, State.modSmart_modSmart]
  rfl

end

/-- A character that completes a DATA record of the selected mode (R89, R90, R95). -/
theorem smartChar_accepts {s : State} {i : Idx6} {char : Byte} (running : (s.smartAt i).running = true) (empty : (s.smartAt i).rxFifo = [])
    (kept : (s.smartAt i).lostMark = false) (whole : bodyLength (rd8 (s.assembled i char) 0) + 2 ≤ (s.assembled i char).length)
    (good : xorAll (s.assembled i char) = 0xFF) (data : classOf (rd8 (s.assembled i char) 0) = 4) {m : ModeInfo}
    (mode : (s.smartAt i).dataMode ((s.assembled i char).drop 1).dropLast = some m) (selected : (s.smartAt i).selected = some m.index)
    (live : (s.smartAt i).lineState = .starting ∨ (s.smartAt i).lineState = .streaming ∨ (s.smartAt i).lineState = .switching) :
    s.smartChar i char false = (match (s.smartAt i).lineState with
      | .starting => ((s.accepted i m ((s.assembled i char).drop 1).dropLast).samplePolicy i).raiseSensor i .connect
      | .switching => ((s.accepted i m ((s.assembled i char).drop 1).dropLast).samplePolicy i).raiseSensor i .mode
      | _ => (s.accepted i m ((s.assembled i char).drop 1).dropLast).samplePolicy i) := by
  rw [smartChar_completes running empty kept whole, if_pos good, smartRecordReceived_data data, State.modSmart_smartAt]
  have reads : (s.modSmart i fun c => { c with parser := none, lostMark := false }).smartData i ((s.assembled i char).drop 1).dropLast =
      (match (s.smartAt i).lineState with
        | .starting => (((s.modSmart i fun c => { c with parser := none, lostMark := false }).modSmart i fun c =>
            { c with lineState := .streaming }).dataAccepted i m ((s.assembled i char).drop 1).dropLast).raiseSensor i .connect
        | .switching => (((s.modSmart i fun c => { c with parser := none, lostMark := false }).modSmart i fun c =>
            { c with lineState := .streaming }).dataAccepted i m ((s.assembled i char).drop 1).dropLast).raiseSensor i .mode
        | _ => ((s.modSmart i fun c => { c with parser := none, lostMark := false }).modSmart i fun c =>
            { c with lineState := .streaming }).dataAccepted i m ((s.assembled i char).drop 1).dropLast) := by
    have mode' : Smart.dataMode { s.smartAt i with parser := none, lostMark := false } ((s.assembled i char).drop 1).dropLast = some m := mode
    unfold State.smartData
    dsimp only
    rw [State.modSmart_smartAt, mode']
    dsimp only
    rw [if_pos selected] <;> cases (s.smartAt i).lineState <;> rfl
  rcases live with state | state | state
  · rw [state] at reads ⊢
    dsimp only at reads ⊢
    rw [reads, ← modSmart_raiseSensor, dataAccepted_eq]
  · rw [state] at reads ⊢
    dsimp only at reads ⊢
    rw [reads, dataAccepted_eq]
  · rw [state] at reads ⊢
    dsimp only at reads ⊢
    rw [reads, ← modSmart_raiseSensor, dataAccepted_eq]

/-! ### Records without a use (R81) -/

section
variable {c : Smart} {cls : Nat} {body : List Byte} {clock : Nat}

theorem record_unknown (odd : cls = 0 ∨ 5 ≤ cls) : c.record cls body clock = c.discard := by
  unfold Smart.record
  split <;> first | omega | rfl

/-- The classes that a line state ignores. -/
def LineState.ignores (state : LineState) (cls : Nat) : Prop :=
  match state with
  | .listen => cls ≠ 1
  | .announcing => cls = 4
  | .accepting => True
  | .starting | .streaming | .switching => cls ≠ 4

theorem record_ignored (least : 1 ≤ cls) (most : cls ≤ 3) (ignored : c.lineState.ignores cls) : c.record cls body clock = c := by
  have named : cls = 1 ∨ cls = 2 ∨ cls = 3 := by omega
  unfold Smart.record
  rcases named with rfl | rfl | rfl <;> cases state : c.lineState <;> rw [state] at ignored <;> revert ignored <;> simp [LineState.ignores]

theorem not_live_of_ignores {state : LineState} (data : state.ignores 4) : state = .listen ∨ state = .announcing ∨ state = .accepting := by
  revert data
  cases state <;> simp [LineState.ignores]

theorem record_announce (state : c.lineState = .listen ∨ c.lineState = .announcing) : c.record 1 body clock = c.announce body clock := by
  unfold Smart.record
  rcases state with state | state <;> rw [state] <;> rfl

theorem record_modeInfo (state : c.lineState = .announcing) : c.record 2 body clock = c.modeInfo body := by
  unfold Smart.record
  rw [state] <;> rfl

theorem record_announceEnd (state : c.lineState = .announcing) : c.record 3 body clock = c.announceEnd body := by
  unfold Smart.record
  rw [state] <;> rfl

end

/-! ### A character (R78 to R81) -/

theorem held_eq (o : Option (List Byte)) (char : Byte) : o.getD [] ++ [char] = (match o with | some cs => cs | none => []) ++ [char] := by
  cases o <;> rfl

theorem headD_eq (held : List Byte) : held.headD 0 = rd8 held 0 := by cases held <;> rfl

/-- A whole record's body is what stands between its header and its check. -/
theorem body_eq {held : List Byte} {n : Nat} (whole : held.length = n + 2) : (held.drop 1).dropLast = (held.drop 1).take n := by
  rw [List.dropLast_eq_take, List.length_drop, whole]
  rfl

/-- Settles O50: the parser's cases, each whole record judged by its class and the line state. -/
theorem smartCharactersAreParsed : Obligations.SmartCharactersAreParsed := by
  intro i char framing s calm p c done after
  have runs : ∀ {t}, s.smartChar i char framing = t → after t := fun {t} taken => by
    show Host.Outcome.next (s.command _) = _
    rw [command_calm calm, taken]
  have changes : ∀ {f c'}, s.smartChar i char framing = s.modSmart i f → f c = c' → after (done c') := fun taken makes =>
    runs (taken.trans (by rw [State.modSmart_eq]; exact makes ▸ rfl))
  refine ⟨fun stopped => runs (if_neg (Bool.eq_false_iff.mp stopped)), fun running empty => ?_⟩
  intro held header n cls body idle counted failed good live
  have isHeld : s.assembled i char = held := held_eq c.parser char
  have isHeader : rd8 held 0 = header := (headD_eq held).symm
  have isLength : bodyLength (rd8 (s.assembled i char) 0) = n := by rw [isHeld, isHeader, bodyLength_eq]
  have isClass : classOf (rd8 (s.assembled i char) 0) = cls := by rw [isHeld, isHeader, classOf_eq]
  have isCounted : idle.discard = counted := discard_eq idle
  refine ⟨fun flagged => changes (smartChar_flagged running empty flagged) isCounted, fun framed kept short => ?_, fun framed kept whole => ?_⟩
  · subst framed
    refine changes (smartChar_held running empty kept (by rw [isHeld, ← isHeld, isLength, isHeld]; exact short)) ?_
    rw [isHeld]
  subst framed
  have full : bodyLength (rd8 (s.assembled i char) 0) + 2 ≤ (s.assembled i char).length := by rw [isLength, isHeld, whole]
  have isBody : ((s.assembled i char).drop 1).dropLast = body := by rw [isHeld]; exact body_eq whole
  have bodyLen : body.length = n := by
    show ((held.drop 1).take n).length = n
    rw [List.length_take, List.length_drop, whole]; omega
  have checked : good → xorAll (s.assembled i char) = 0xFF := fun fits => by rw [isHeld]; exact fits
  have control : good → cls ≠ 4 → ∀ {c'}, idle.record cls body s.clock = c' → after (done c') := fun fits other {c'} makes =>
    changes (smartChar_record running empty kept full (checked fits) (by rw [isClass]; exact other)) (by rw [isClass, isBody]; exact makes)
  have dropped : good → cls = 4 → (∀ m, c.dataMode body = some m → c.selected = some m.index →
      c.lineState = .listen ∨ c.lineState = .announcing ∨ c.lineState = .accepting) → ∀ {c'}, (match c.lineState, c.dataMode body with
        | .starting, none | .streaming, none | .switching, none => idle.discard
        | _, _ => idle) = c' → after (done c') := fun fits data ignored {c'} makes =>
    changes (smartChar_data running empty kept full (checked fits) (isClass.trans data) (by rw [isBody]; exact ignored)) (by rw [isBody]; exact makes)
  refine ⟨fun bad => ?_, fun fits odd => ?_, fun fits least most ignored => ?_, fun fits announce state => ?_,
    fun profile fits info state known => ?_, fun profile fits ends state known => ?_, fun profile fits data alive known fails => ?_,
    fun profile m fits data alive known found within length other => ?_, fun profile m fits data alive known found within length selected => ?_⟩
  · refine changes ((smartChar_completes running empty kept full).trans (if_neg ?_)) isCounted
    rw [isHeld]; exact bad
  · exact control fits (by omega) ((record_unknown odd).trans isCounted)
  · have ignores : c.lineState.ignores cls := ignored
    by_cases data : cls = 4
    · have state := not_live_of_ignores (data ▸ ignores)
      refine dropped fits data (fun _ _ _ => state) ?_
      rcases state with state | state | state <;> rw [state]
    · exact control fits data (record_ignored least (by omega) ignores)
  · refine control fits (by omega) ?_
    rw [announce, record_announce (c := idle) state, announce_eq, bodyLen, isCounted]
  · intro index shaped
    refine control fits (by omega) ?_
    rw [info, record_modeInfo (c := idle) state, modeInfo_eq (c := idle) known shaped (by rw [bodyLen])
      (profile.modeCount ≤ index ∨ ∃ m ∈ profile.modes, m.index = index) Iff.rfl,
      isCounted]
    rfl
  · intro rate accept
    refine control fits (by omega) ?_
    rw [ends, record_announceEnd (c := idle) state, announceEnd_eq (c := idle) known running _ Iff.rfl rfl, bodyLen, isCounted]
    rfl
  · refine dropped fits data (fun m found => ?_) ?_
    · rw [dataMode_none known (by rw [bodyLen]; exact fails)] at found
      cases found
    · rw [dataMode_none known (by rw [bodyLen]; exact fails)]
      rcases alive with state | state | state <;> rw [state] <;> exact isCounted
  · have isMode := dataMode_some known found within (bodyLen.trans length)
    refine dropped fits data (fun m' found' selected => ?_) ?_
    · rw [isMode, Option.some.injEq] at found'
      rw [← found', mode_index found] at selected
      exact absurd selected other
    · rw [isMode]
      rcases alive with state | state | state <;> rw [state]
  · have isMode := dataMode_some known found within (bodyLen.trans length)
    intro value set work
    refine runs ((smartChar_accepts running empty kept full (checked fits) (isClass.trans data) (by rw [isBody]; exact isMode)
      (by rw [mode_index found]; exact selected) alive).trans ?_)
    have isValue : ∀ k, dataValue m body k = value k := fun k => dataValue_eq m body k
    have isSet : s.accepted i m body = set := by
      rw [accepted_eq s i work, dataValues, isValue, isValue, isValue, isValue]
      rfl
    rw [isBody, isSet] <;> rfl

end Sys2Proof.Machine
end

-- ==== Sys2Proof/Proofs/SoundRequests.lean ====

section
/-! The sound requests: SOUND_SETUP with APPLY, CLIP, SOUND_DATA and IMMEDIATE_TONE (R108 to R111, R113, R115 to R117, R120, R122, R123). -/

namespace Sys2Proof.Machine

theorem flagOf_none {b : Byte} (h : 2 ≤ b.toNat) : flagOf b = none := by revert b; decide

section
variable {l : LineId} {s : State} {e : Sound} (sound : s.sound = e)
include sound

/-! ### SOUND_SETUP with APPLY (R109, R122) -/

section
variable {volume : Byte} {threshold : Half} (owns : e.owner = issuerOf l)
include owns

theorem takeSoundSetup_bad (out : threshold.toNat < 256 ∨ 3840 < threshold.toNat) :
    takeSoundSetup l 1 volume threshold s = .error ⟨.badParam, []⟩ := by
  have fails : (decide (256 ≤ threshold.toNat) && decide (threshold.toNat ≤ 3840)) = false := by
    simp only [Bool.and_eq_false_iff, decide_eq_false_iff_not]
    omega
  rw [takeSoundSetup, sound, owns, beq_self_eq_true, fails]
  rfl

theorem takeSoundSetup_applies (fits : ¬ (threshold.toNat < 256 ∨ 3840 < threshold.toNat)) {x : Sound}
    (set : x = { e with volume := min 100 volume.toNat, threshold := threshold.toNat, gain := min 100 volume.toNat * e.ceiling / 1000 }) :
    takeSoundSetup l 1 volume threshold s =
      .ok ({ s with sound := x }, [if 100 < volume.toNat then 1 else 0] ++ soundStatus x) := by
  have passes : (decide (256 ≤ threshold.toNat) && decide (threshold.toNat ≤ 3840)) = true := by
    simp only [Bool.and_eq_true, decide_eq_true_iff]
    omega
  have clamped : flag8 (min 100 volume.toNat != volume.toNat) = [if 100 < volume.toNat then 1 else 0] := by
    rw [flag8_eq]
    refine congrArg (fun b : Byte => [b]) (if_congr ?_ rfl rfl)
    rw [bne_iff_ne]
    omega
  rw [takeSoundSetup, sound, owns, beq_self_eq_true, passes, ← clamped, set]
  refine congrArg (fun x : Sound => Except.ok (({ s with sound := x } : State), flag8 (min 100 volume.toNat != volume.toNat) ++ soundStatus x)) ?_
  rw [sound]
  rfl

end

/-! ### Checks that the other three share (R108) -/

theorem takeClip_notOwner {r : ClipRaw} (other : e.owner ≠ issuerOf l) : takeClip l r s = .error ⟨.notOwner, []⟩ := by
  rw [takeClip, sound, beq_false_of_ne other]; rfl

theorem takeSoundData_notOwner {count endFlag : Byte} {bytes : List Byte} (other : e.owner ≠ issuerOf l) :
    takeSoundData l count endFlag bytes s = .error ⟨.notOwner, []⟩ := by
  rw [takeSoundData, sound, beq_false_of_ne other]; rfl

theorem takeImmediateTone_notOwner {frequency duration : Half} (other : e.owner ≠ issuerOf l) :
    takeImmediateTone l frequency duration s = .error ⟨.notOwner, []⟩ := by
  rw [takeImmediateTone, sound, beq_false_of_ne other]; rfl

section
variable (owns : e.owner = issuerOf l)
include owns

section
variable (held : s.powerHeld = true)
include held

theorem takeClip_held {r : ClipRaw} : takeClip l r s = .error ⟨.powerHold, []⟩ := by
  rw [takeClip, sound, owns, beq_self_eq_true, held]; rfl

theorem takeSoundData_held {count endFlag : Byte} {bytes : List Byte} : takeSoundData l count endFlag bytes s = .error ⟨.powerHold, []⟩ := by
  rw [takeSoundData, sound, owns, beq_self_eq_true, held]; rfl

theorem takeImmediateTone_held {frequency duration : Half} : takeImmediateTone l frequency duration s = .error ⟨.powerHold, []⟩ := by
  rw [takeImmediateTone, sound, owns, beq_self_eq_true, held]; rfl

end

variable (powered : s.powerHeld = false)
include powered

/-! ### CLIP (R110, R111, R117) -/

section
variable {r : ClipRaw}

theorem takeClip_bad (bad : checkClip r = .error ⟨.badParam, []⟩) : takeClip l r s = .error ⟨.badParam, []⟩ := by
  rw [takeClip, sound, owns, beq_self_eq_true, powered, bad]; rfl

variable {kind : ClipKind} {clamped : Bool} (fits : checkClip r = .ok (kind, clamped))
include fits

theorem takeClip_full (full : 4 ≤ e.queue.length) : takeClip l r s = .error ⟨.queueFull, []⟩ := by
  rw [takeClip, sound, owns, beq_self_eq_true, powered, fits]
  show (need (decide (e.queue.length < 4)) .queueFull >>= fun _ => _) = _
  rw [decide_eq_false (Nat.not_lt.mpr full)]
  rfl

/-- A clip that the engine has room for, before an idle engine starts it. -/
theorem takeClip_room (room : e.queue.length < 4) {t u : State}
    (placed : s.modSound (fun x => { x with queue := x.queue ++ [⟨kind, r.tag, issuerOf l⟩] }) = t)
    (begun : (if t.sound.player = .idle then t.startClip else t) = u) :
    takeClip l r s = .ok (u, flag8 clamped ++ u8 u.sound.queue.length ++ u8 u.sound.player.code) := by
  rw [takeClip, sound, owns, beq_self_eq_true, powered, fits]
  show (need (decide (e.queue.length < 4)) .queueFull >>= fun _ => _) = _
  rw [decide_eq_true room]
  subst placed begun
  rfl

theorem takeClip_waits (room : e.queue.length < 4) (busy : e.player ≠ .idle) : takeClip l r s = .ok ({ s with sound := { e with
    queue := e.queue ++ [⟨kind, r.tag, issuerOf l⟩] } }, flag8 clamped ++ u8 (e.queue.length + 1) ++ u8 e.player.code) := by
  have taken := takeClip_room sound owns powered fits room (by rw [State.modSound, sound]) (if_neg busy)
  rw [List.length_append] at taken
  exact taken

/-- A clip that starts at once, on an idle engine. -/
theorem takeClip_starts (empty : e.queue = []) (idle : e.player = .idle) {u : State} (begun : (if kind.isStream && e.ring.length ≤ e.threshold then
      State.refill { s with sound := { e with player := .playing ⟨r.tag, issuerOf l, kind.start⟩ } }
      else { s with sound := { e with player := .playing ⟨r.tag, issuerOf l, kind.start⟩ } }) = u) :
    takeClip l r s = .ok (u, flag8 clamped ++ u8 u.sound.queue.length ++ u8 u.sound.player.code) := by
  refine takeClip_room sound owns powered fits (by rw [empty]; decide) (t := { s with sound := { e with queue := [⟨kind, r.tag, issuerOf l⟩] } })
    (by rw [State.modSound, sound, empty]; rfl) ?_
  rw [if_pos idle, ← begun]
  have : ({ e with player := .playing ⟨r.tag, issuerOf l, kind.start⟩ } : Sound) =
    { e with queue := [], player := .playing ⟨r.tag, issuerOf l, kind.start⟩ } := by rw [← empty]
  rw [this]
  rfl

end

/-! ### SOUND_DATA (R115, R116) -/

section
variable {count endFlag : Byte} {bytes : List Byte}

theorem takeSoundData_bad (bad : count = 0 ∨ 224 < count.toNat ∨ 2 ≤ endFlag.toNat) :
    takeSoundData l count endFlag bytes s = .error ⟨.badParam, []⟩ := by
  rw [takeSoundData, sound, owns, beq_self_eq_true, powered]
  show (need (decide (1 ≤ count.toNat) && decide (count.toNat ≤ 224)) .badParam >>= fun _ => _) = _
  have zero : count = 0 ↔ count.toNat = 0 := BitVec.toNat_inj.symm
  rw [zero] at bad
  by_cases length : 1 ≤ count.toNat ∧ count.toNat ≤ 224
  · rw [decide_eq_true length.1, decide_eq_true length.2, flagOf_none (by omega)]
    rfl
  · have : (decide (1 ≤ count.toNat) && decide (count.toNat ≤ 224)) = false := by simpa using length
    rw [this]
    rfl

variable (least : 1 ≤ count.toNat) (most : count.toNat ≤ 224) (flagged : endFlag.toNat ≤ 1)
include least most flagged

theorem takeSoundData_ringFull (full : 4096 < e.ring.length + count.toNat) :
    takeSoundData l count endFlag bytes s = .error ⟨.ringFull, []⟩ := by
  rw [takeSoundData, sound, owns, beq_self_eq_true, powered, decide_eq_true least, decide_eq_true most, flagOf_eq flagged,
    decide_eq_false (Nat.not_le.mpr full)]
  rfl

variable (fits : e.ring.length + count.toNat ≤ 4096)
include fits

theorem takeSoundData_queueFull (full : endFlag = 1 ∧ 4 ≤ e.marks.length) :
    takeSoundData l count endFlag bytes s = .error ⟨.queueFull, []⟩ := by
  rw [takeSoundData, sound, owns, beq_self_eq_true, powered, decide_eq_true least, decide_eq_true most, flagOf_eq flagged,
    decide_eq_true fits, decide_eq_false (Nat.not_lt.mpr full.2), full.1]
  rfl

theorem takeSoundData_appends (room : ¬ (endFlag = 1 ∧ 4 ≤ e.marks.length)) {ring : List Byte} (appended : ring = e.ring ++ bytes)
    {marks : List Nat} (marked : marks = if endFlag = 1 then e.marks ++ [ring.length] else e.marks) :
    takeSoundData l count endFlag bytes s = .ok ({ s with sound := { e with ring := ring, marks := marks } },
      u16 ring.length ++ u16 (4096 - ring.length) ++ u8 marks.length) := by
  have passes : (!decide (endFlag = 1) || decide (e.marks.length < 4)) = true := by
    rw [Bool.or_eq_true, Bool.not_eq_true', decide_eq_false_iff_not, decide_eq_true_iff]
    exact (not_and_or.mp room).imp_right Nat.lt_of_not_le
  rw [takeSoundData, sound, owns, beq_self_eq_true, powered, decide_eq_true least, decide_eq_true most, flagOf_eq flagged,
    decide_eq_true fits]
  show (need (!decide (endFlag = 1) || decide (e.marks.length < 4)) .queueFull >>= fun _ => _) = _
  rw [passes]
  subst sound appended marked
  show Except.ok (_, _) = _
  simp only [decide_eq_true_iff, ← owns]
  rfl

end

/-! ### IMMEDIATE_TONE (R123) -/

theorem takeImmediateTone_busy {frequency duration : Half} {g : ToneGen} {x : Option Playing} (sounds : e.player = .immediate g x) :
    takeImmediateTone l frequency duration s = .error ⟨.busy, []⟩ := by
  rw [takeImmediateTone, sound, owns, beq_self_eq_true, powered, sounds]
  rfl

theorem takeImmediateTone_suspends {frequency duration : Half} (free : ∀ g x, e.player ≠ .immediate g x) :
    takeImmediateTone l frequency duration s = .ok ({ s with sound := { e with
      player := .immediate (ToneGen.start (clampNat 50 10000 frequency.toNat) (clampNat 1 2000 duration.toNat) .square) e.player.clip } },
      flag8 (clampNat 50 10000 frequency.toNat != frequency.toNat || clampNat 1 2000 duration.toNat != duration.toNat)) := by
  have passes : takeImmediateTone l frequency duration s = .ok (s.modSound fun x => { x with
      player := .immediate (ToneGen.start (clampNat 50 10000 frequency.toNat) (clampNat 1 2000 duration.toNat) .square) x.player.clip },
      flag8 (clampNat 50 10000 frequency.toNat != frequency.toNat || clampNat 1 2000 duration.toNat != duration.toNat)) := by
    rw [takeImmediateTone, sound, owns, beq_self_eq_true, powered]
    cases player : e.player with
    | idle => rfl
    | playing p => rfl
    | immediate g x => exact absurd player (free g x)
  rw [passes, State.modSound, sound]

end

end

/-! ### A clip's fields (R111) -/

theorem checkClip_fails (r : ClipRaw) : FailsBy .badParam (checkClip r) := by
  unfold checkClip
  split
  · exact .bind (.require _) fun _ _ => .pure _
  · exact .bind (.require _) fun _ _ => .bind (.need _) fun _ _ => .pure _
  · exact .error

theorem clipFits_of_ok {r : ClipRaw} {x : ClipKind × Bool} (passed : checkClip r = .ok x) : r.fieldsFit := by
  have zero : r.kind = 0 ↔ r.kind.toNat = 0 := BitVec.toNat_inj.symm
  have one : r.kind = 1 ↔ r.kind.toNat = 1 := BitVec.toNat_inj.symm
  unfold ClipRaw.fieldsFit
  rw [zero, one]
  unfold checkClip at passed
  dsimp only at passed
  split at passed <;> rename_i code
  · simp only [Check.bind_ok, require_ok] at passed
    obtain ⟨_, waveform, _⟩ := passed
    exact ⟨by omega, fun _ => le_of_code (f := waveformOf) (by decide) waveform, fun h => by omega⟩
  · simp only [Check.bind_ok, require_ok, need_ok, Bool.or_eq_true, beq_iff_eq] at passed
    obtain ⟨_, format, _, rate, _⟩ := passed
    exact ⟨by omega, fun h => by omega, fun _ => ⟨le_of_code (f := formatOf) (by decide) format, rate⟩⟩
  · cases passed

theorem checkClip_of {r : ClipRaw} {kind : ClipKind}
    (asked : (r.kind = 0 ∧ ∃ w, waveformOf r.waveform = some w ∧
        kind = .tone (max 50 (min 10000 r.frequency.toNat)) (max 1 (min 10000 r.duration.toNat)) w) ∨
      (r.kind = 1 ∧ (r.rate.toNat = 8000 ∨ r.rate.toNat = 16000) ∧ ∃ f, formatOf r.format = some f ∧
        kind = .stream f r.rate.toNat (if r.sampleCount = 0 then none else some r.sampleCount.toNat))) :
    checkClip r = .ok (kind, decide (r.kind = 0 ∧ (r.frequency.toNat < 50 ∨ 10000 < r.frequency.toNat ∨ r.duration.toNat < 1 ∨
      10000 < r.duration.toNat))) := by
  rcases asked with ⟨code, w, named, rfl⟩ | ⟨code, rate, f, named, rfl⟩
  · have clamps : (clampNat 50 10000 r.frequency.toNat != r.frequency.toNat || clampNat 1 10000 r.duration.toNat != r.duration.toNat) =
        decide (r.kind = 0 ∧ (r.frequency.toNat < 50 ∨ 10000 < r.frequency.toNat ∨ r.duration.toNat < 1 ∨ 10000 < r.duration.toNat)) := by
      rw [Bool.eq_iff_iff, Bool.or_eq_true, bne_iff_ne, bne_iff_ne, decide_eq_true_iff, clampNat_ne_iff (by decide), clampNat_ne_iff (by decide),
        or_assoc]
      exact (and_iff_right code).symm
    rw [← clamps, checkClip, code, named]
    rfl
  · have count : r.sampleCount = 0 ↔ r.sampleCount.toNat = 0 := BitVec.toNat_inj.symm
    have passes : (r.rate.toNat == 8000 || r.rate.toNat == 16000) = true := by simpa using rate
    rw [checkClip, code, named]
    show (need (r.rate.toNat == 8000 || r.rate.toNat == 16000) .badParam >>= fun _ => _) = _
    rw [passes]
    simp only [count]
    rfl

theorem none_waits {e : Sound} (empty : e.queue = []) : u8 e.queue.length = [0] := by rw [empty]; rfl

theorem clampedFlag_eq (f d f' d' : Nat) : flag8 (f != f' || d != d') = [if f = f' ∧ d = d' then 0 else 1] := by
  rw [flag8_eq]
  by_cases same : f = f' ∧ d = d'
  · rw [if_pos same, same.1, same.2]
    simp
  · rw [if_neg same, if_pos (by simpa [imp_iff_not_or] using same)]

/-- Settles O52: each request's checks in their order, then the engine it leaves. -/
theorem soundRequestsAct : Obligations.SoundRequestsAct := by
  intro l tag s ready a e owned sounding
  have sound : (s.arrived l).sound = e := arrived_sound ..
  have power : (s.arrived l).powerHeld = s.powerHeld := arrived_powerHeld ..
  have clips : ∀ c, (s.arrived l).lineAllows l (.clip c) = true := fun _ => by cases l <;> rfl
  refine ⟨fun volume threshold => ?_, fun c kind => ?_, fun c owns bad => ?_, fun count endFlag bytes counts short => ?_,
    fun frequency duration => ?_⟩
  · intro r v x
    have allowed : (s.arrived l).lineAllows l r = true := by cases l <;> rfl
    by_cases owns : owned
    · rw [if_neg (not_not_intro owns)]
      by_cases out : threshold.toNat < 256 ∨ 3840 < threshold.toNat
      · rw [if_pos out]
        exact exec_refused (r := r) rfl ready rfl allowed (takeSoundSetup_bad sound owns out)
      · rw [if_neg out]
        exact exec_taken (r := r) rfl ready rfl allowed (takeSoundSetup_applies sound owns out rfl)
    · rw [if_pos owns]
      exact exec_refused (r := r) rfl ready rfl allowed (takeSoundSetup_notOwner (by rw [sound]; exact owns) _)
  · intro r asked clamped clip
    have fits := checkClip_of asked
    have flagged : flag8 (decide (c.kind = 0 ∧ (c.frequency.toNat < 50 ∨ 10000 < c.frequency.toNat ∨ c.duration.toNat < 1 ∨
        10000 < c.duration.toNat))) = [clamped] := by
      rw [flag8_eq]
      simp only [decide_eq_true_iff]
      rfl
    refine ⟨fun other => exec_refused (r := r) rfl ready rfl (clips c) (takeClip_notOwner sound other),
      fun owns held => exec_refused (r := r) rfl ready rfl (clips c) (takeClip_held sound owns (power.trans held)),
      fun owns powered full => exec_refused (r := r) rfl ready rfl (clips c) (takeClip_full sound owns (power.trans powered) fits full),
      fun owns powered room busy => ?_, fun owns powered empty idle => ⟨fun f d w tone => ?_, fun f rate n stream => ?_⟩⟩
    · have taken := takeClip_waits sound owns (power.trans powered) fits room busy
      rw [flagged] at taken
      exact exec_taken (r := r) rfl ready rfl (clips c) taken
    · subst tone
      have taken : takeClip l c (s.arrived l) = .ok (sounding { e with player := .playing ⟨c.tag, issuerOf l, .tone (ToneGen.start f d w)⟩ },
          _ ++ u8 e.queue.length ++ u8 1) := takeClip_starts sound owns (power.trans powered) fits empty idle (if_neg (by simp [ClipKind.isStream]))
      rw [flagged, none_waits empty] at taken
      exact exec_taken (r := r) rfl ready rfl (clips c) taken
    · intro x
      subst stream
      by_cases low : e.ring.length ≤ e.threshold
      · rw [if_pos low]
        have taken : takeClip l c (s.arrived l) = .ok ({ sounding { x with refill := true } with
            attn := { a.attn with sound := min 255 (a.attn.sound + 1) } }, _ ++ u8 e.queue.length ++ u8 2) :=
          takeClip_starts sound owns (power.trans powered) fits empty idle (if_pos (by simp [ClipKind.isStream, low]))
        rw [flagged, none_waits empty] at taken
        exact exec_taken (r := r) rfl ready rfl (clips c) taken
      · rw [if_neg low]
        have taken : takeClip l c (s.arrived l) = .ok (sounding x, _ ++ u8 e.queue.length ++ u8 2) :=
          takeClip_starts sound owns (power.trans powered) fits empty idle (if_neg (by simp [low]))
        rw [flagged, none_waits empty] at taken
        exact exec_taken (r := r) rfl ready rfl (clips c) taken
  · by_cases held : s.powerHeld
    · rw [if_pos held]
      exact exec_refused (r := .clip c) rfl ready rfl (clips c) (takeClip_held sound owns (power.trans held))
    · rw [if_neg held]
      refine exec_refused (r := .clip c) rfl ready rfl (clips c) (takeClip_bad sound owns (power.trans (Bool.eq_false_iff.mpr held)) ?_)
      exact (checkClip_fails c).of_not_ok fun _ passed => bad (clipFits_of_ok passed)
  · intro r ring marks
    have allowed : (s.arrived l).lineAllows l r = true := by cases l <;> rfl
    have wf : r.wf = true := by simp [r, Request.wf, counts]; omega
    by_cases owns : owned
    · rw [if_neg (not_not_intro owns)]
      by_cases held : s.powerHeld
      · rw [if_pos held]
        exact exec_refused (r := r) rfl ready wf allowed (takeSoundData_held sound owns (power.trans held))
      have powered : (s.arrived l).powerHeld = false := power.trans (Bool.eq_false_iff.mpr held)
      rw [if_neg held]
      by_cases bad : count = 0 ∨ 224 < count.toNat ∨ 2 ≤ endFlag.toNat
      · rw [if_pos bad]
        exact exec_refused (r := r) rfl ready wf allowed (takeSoundData_bad sound owns powered bad)
      rw [if_neg bad]
      have zero : count = 0 ↔ count.toNat = 0 := BitVec.toNat_inj.symm
      rw [zero] at bad
      have appended : ring.length = e.ring.length + count.toNat := by rw [← counts]; exact List.length_append
      by_cases full : 4096 < ring.length
      · rw [if_pos full]
        exact exec_refused (r := r) rfl ready wf allowed
          (takeSoundData_ringFull sound owns powered (by omega) (by omega) (by omega) (by omega))
      rw [if_neg full]
      by_cases marked : endFlag = 1 ∧ 4 ≤ e.marks.length
      · rw [if_pos marked]
        exact exec_refused (r := r) rfl ready wf allowed
          (takeSoundData_queueFull sound owns powered (by omega) (by omega) (by omega) (by omega) marked)
      · rw [if_neg marked]
        exact exec_taken (r := r) rfl ready wf allowed
          (takeSoundData_appends sound owns powered (by omega) (by omega) (by omega) (by omega) marked rfl rfl)
    · rw [if_pos owns]
      exact exec_refused (r := r) rfl ready wf allowed (takeSoundData_notOwner sound owns)
  · intro r f d tone suspended
    have allowed : (s.arrived l).lineAllows l r = true := by cases l <;> rfl
    by_cases owns : owned
    · rw [if_neg (not_not_intro owns)]
      by_cases held : s.powerHeld
      · rw [if_pos held]
        exact exec_refused (r := r) rfl ready rfl allowed (takeImmediateTone_held sound owns (power.trans held))
      have powered : (s.arrived l).powerHeld = false := power.trans (Bool.eq_false_iff.mpr held)
      rw [if_neg held]
      have suspends : ∀ x, e.player.clip = x → (∀ g y, e.player ≠ .immediate g y) →
          exec (.immediateTone l tag frequency duration) s = .next (suspended x).settle := fun x clip free => by
        have taken := takeImmediateTone_suspends (frequency := frequency) (duration := duration) sound owns powered free
        rw [clip, clampedFlag_eq] at taken
        exact exec_taken (r := r) rfl ready rfl allowed taken
      cases player : e.player with
      | idle => exact suspends none (by rw [player]; rfl) (by rw [player]; nofun)
      | playing p => exact suspends (some p) (by rw [player]; rfl) (by rw [player]; nofun)
      | immediate g x => exact exec_refused (r := r) rfl ready rfl allowed (takeImmediateTone_busy sound owns powered player)
    · rw [if_pos owns]
      exact exec_refused (r := r) rfl ready rfl allowed (takeImmediateTone_notOwner sound owns)

end Sys2Proof.Machine
end

-- ==== Sys2Proof/Proofs/OutputSample.lean ====

section
/-! OUTPUT_SAMPLE_EVENT by the player's state (R112 to R119, R122, R124). -/

namespace Sys2Proof.Machine

/-! ### One constructor applies (R112) -/

theorem Plays.unique {s t : State} {x : Int} (h : Plays s t x) : ∀ {t' x'}, Plays s t' x' → t' = t ∧ x' = x := by
  induction h with
  | silent player queue => intro t' x' h'; cases h' <;> simp_all
  | starts player queue _ ih =>
    intro t' x' h'
    cases h' with
    | starts _ _ after => exact ih after
    | _ => simp_all
  | sounds player remaining => intro t' x' h'; cases h' <;> simp_all
  | resumes player remaining _ ih =>
    intro t' x' h'
    cases h' with
    | resumes player' _ after => cases player.symm.trans player'; exact ih after
    | _ => simp_all
  | tone player ctx remaining => intro t' x' h'; cases h' <;> simp_all
  | toneEnds player ctx remaining _ ih =>
    intro t' x' h'
    cases h' with
    | toneEnds player' _ _ after => cases player.symm.trans player'; exact ih after
    | _ => simp_all
  | holds player ctx hold => intro t' x' h'; cases h' <;> simp_all
  | streamEnds player ctx hold ends _ ih =>
    intro t' x' h'
    cases h' with
    | streamEnds player' ctx' _ _ after => cases player.symm.trans player'; cases ctx.symm.trans ctx'; exact ih after
    | _ => simp_all
  | starves player ctx hold ends short =>
    intro t' x' h'
    cases h' with
    | takes player' ctx' _ _ long =>
      cases player.symm.trans player'; cases ctx.symm.trans ctx'
      exact absurd long (Nat.not_le.mpr short)
    | _ => simp_all
  | takes player ctx hold ends long =>
    intro t' x' h'
    cases h' with
    | starves player' ctx' _ _ short =>
      cases player.symm.trans player'; cases ctx.symm.trans ctx'
      exact absurd long (Nat.not_le.mpr short)
    | _ => simp_all

/-! ### The event (R112, R122) -/

/-- The output sample of an internal sample (R122). -/
def State.outputs (t : State) (gain : Nat) (x : Int) : State :=
  { t with sound := { t.sound with out := (x * (gain : Int)).tdiv 100 } }

section
variable {s : State} (calm : s.calm = true)
include calm

theorem outputSampleEvent_eq {t : State} {x : Int} (plays : Plays s t x) :
    exec .outputSampleEvent s = .next (t.outputs s.sound.gain x).settle := by
  obtain ⟨t', x', plays', is⟩ := outputSample_plays s
  obtain ⟨rfl, rfl⟩ := plays.unique plays'
  show Host.Outcome.next (s.command _) = _
  rw [command_calm calm, is]
  rfl

/-- The engine changed, its owner and the attention table not: nothing is left to do at once. -/
theorem settle_sound {v : Sound} (owner : v.owner = s.sound.owner) : ({ s with sound := v } : State).settle = { s with sound := v } := by
  simp only [State.calm, Bool.and_eq_true] at calm
  refine settle_of_quiet (Eq.trans ?_ calm.1)
  cases v
  cases owner
  rfl

/-- An event that raises nothing. -/
theorem outputSampleEvent_quiet {v : Sound} {x : Int} (plays : Plays s { s with sound := v } x) (owner : v.owner = s.sound.owner) :
    exec .outputSampleEvent s = .next { s with sound := { v with out := (x * (s.sound.gain : Int)).tdiv 100 } } := by
  rw [outputSampleEvent_eq calm plays]
  exact congrArg Host.Outcome.next (settle_sound calm owner)

end

/-- The engine after a fetch of `size` bytes that takes a sample (R115, R117, R120). -/
def Sound.fetched (e : Sound) (p : Playing) (c : StreamCtx) (size : Nat) (sample : Int) (refill : Bool) : Sound := { e with
  ring := e.ring.drop size
  marks := e.marks.map fun d => d - size
  refill := refill
  player := .playing { p with ctx := .stream { c with
    current := sample, hold := (if c.rate = 8000 then 4 else 2) - 1, consumed := min 4294967295 (c.consumed + 1), starved := false } } }

/-- Settles O54: the event is one derivation of `Plays`, and each case's derivation is given. -/
theorem outputSampleIsMade : Obligations.OutputSampleIsMade := by
  refine ⟨fun s calm => ?_, fun s calm => ?_⟩
  · obtain ⟨t, x, plays, _⟩ := outputSample_plays s
    exact ⟨t, x, plays, outputSampleEvent_eq calm plays⟩
  · intro e out event played raised ended toneSample on
    refine ⟨fun idle empty => ?_, fun g x sounds more => ?_, fun g sounds spent empty => ?_, fun g h p sounds spent tone more => ?_,
      fun p g plays tone more => ?_, fun p g plays tone spent empty => ?_, fun p c plays stream => ?_⟩
    · exact outputSampleEvent_quiet calm (v := e) (x := 0) (.silent idle empty) rfl
    · exact outputSampleEvent_quiet calm (v := { e with player := .immediate (on g) x }) (x := toneSample g) (.sounds sounds more) rfl
    · exact outputSampleEvent_quiet calm (v := { e with player := .idle }) (x := 0) (.resumes sounds spent (.silent rfl empty)) rfl
    · exact outputSampleEvent_quiet calm (v := { e with player := .playing { p with ctx := .tone (on h) } }) (x := toneSample h)
        (.resumes sounds spent (.tone (s := s.withPlayer (.playing p)) rfl tone more)) rfl
    · exact outputSampleEvent_quiet calm (v := { e with player := .playing { p with ctx := .tone (on g) } }) (x := toneSample g)
        (.tone plays tone more) rfl
    · exact outputSampleEvent_eq calm (t := s.clipEnds p) (x := 0) (.toneEnds plays tone spent (.silent rfl empty))
    · intro size counted marked odd
      have ends : e.endsAtFetch c = true ↔ counted ∨ marked ∨ odd := by
        simp only [Sound.endsAtFetch, Bool.or_eq_true, Bool.and_eq_true, beq_iff_eq, or_assoc]
        rfl
      refine ⟨fun held => ?_, fun due empty mark => ?_, fun due empty count noMark => ?_, fun due noCount noMark noOdd short => ?_,
        fun due noCount noMark noOdd long => ?_⟩
      · exact outputSampleEvent_quiet calm (v := { e with player := .playing { p with ctx := .stream { c with hold := c.hold - 1 } } })
          (x := c.current) (.holds plays stream held) rfl
      · have fetched : s.fetchEnds c = { s with sound := { e with marks := e.marks.tail } } := if_pos mark
        exact outputSampleEvent_eq calm (.streamEnds plays stream due (ends.mpr (.inr (.inl mark)))
          (.silent rfl (by rw [fetched]; exact empty))) |>.trans (by rw [fetched]; rfl)
      · have fetched : s.fetchEnds c = s := (if_neg noMark).trans (if_pos count)
        exact outputSampleEvent_eq calm (.streamEnds plays stream due (ends.mpr (.inl count))
          (.silent rfl (by rw [fetched]; exact empty))) |>.trans (by rw [fetched]; rfl)
      · intro x
        have goes : e.endsAtFetch c = false := Bool.eq_false_iff.mpr fun h => (ends.mp h).elim noCount (·.elim noMark noOdd)
        refine (outputSampleEvent_eq calm (.starves plays stream due goes short)).trans ?_
        by_cases same : x.underruns = e.underruns
        · have is : s.clipStarves p c = { s with sound := x } := if_pos same
          rw [if_pos same, is]
          rfl
        · have is : s.clipStarves p c = ({ s with sound := x } : State).soundRaised := if_neg same
          rw [if_neg same, is]
          rfl
      · intro b t segment magnitude sample crosses x
        have goes : e.endsAtFetch c = false := Bool.eq_false_iff.mpr fun h => (ends.mp h).elim noCount (·.elim noMark noOdd)
        refine (outputSampleEvent_eq calm (.takes plays stream due goes long)).trans ?_
        have isSample : c.read s.sound.ring = sample := rfl
        have threshold : c.width = size := rfl
        rw [State.clipTakes, isSample, threshold]
        by_cases passes : crosses
        · have consumed : s.ringConsumed size = ({ s with sound := { e with
            ring := e.ring.drop size, marks := e.marks.map fun d => d - size, refill := true } } : State).soundRaised := if_pos passes
          have isX : x = e.fetched p c size sample true := congrArg (e.fetched p c size sample) (if_pos passes)
          rw [if_pos passes, consumed, isX]
          rfl
        · have consumed : s.ringConsumed size = { s with sound := { e with
            ring := e.ring.drop size, marks := e.marks.map fun d => d - size } } := if_neg passes
          have isX : x = e.fetched p c size sample e.refill := congrArg (e.fetched p c size sample) (if_neg passes)
          rw [if_neg passes, consumed, isX]
          rfl

end Sys2Proof.Machine
end

-- ==== Sys2Proof/Proofs/RegulationParts.lean ====

section
/-! A regulation event from its start decision on: what stands, starts and runs (R9, R10, R20 to R23). -/

namespace Sys2Proof.Machine

/-! ### The state at the start decision (R9, R23) -/

section
variable (s : State) (m : Idx6)

theorem lessForeign_clock : (s.lessForeign m).clock = s.clock :=
  s.lessForeign_induct m (fun t => t.clock = s.clock) (fun _ h => h) rfl

/-- A record dropped leaves a port in SHUTDOWN, or out of it. -/
theorem brokenHead_shutdown (p : Port) (uptime : Word) : (p.brokenHead uptime).act = .shutdown ↔ p.act = .shutdown := by
  unfold Port.brokenHead
  cases p.queue with
  | nil => rfl
  | cons head rest =>
    cases act : p.act <;> simp [Activity.notWaiting]

theorem lessForeign_shutdown : ((s.lessForeign m).port m).act = .shutdown ↔ (s.port m).act = .shutdown := by
  refine s.lessForeign_induct m (fun t => (t.port m).act = .shutdown ↔ (s.port m).act = .shutdown) (fun t h => ?_) Iff.rfl
  rw [State.raise_port, State.modPort_port_same, brokenHead_shutdown]
  exact h

theorem lessForeign_empty (empty : (s.port m).queue = []) : s.lessForeign m = s := by
  unfold State.lessForeign
  rw [empty]
  rfl

theorem lessForeign_alone {head : Move} {rest : List Move} (waits : (s.port m).queue = head :: rest) (alone : head.group = 0) :
    s.lessForeign m = s := by
  unfold State.lessForeign
  rw [waits, List.takeWhile_cons, alone]
  rfl

end

section
variable {s : State} {m : Idx6}

theorem atDecision_shutdown : ((s.atDecision m).port m).act = .shutdown ↔ (s.port m).act = .shutdown := by
  rw [State.atDecision, lessForeign_shutdown, State.modPort_port_same]
  rfl

theorem atDecision_uptime : (s.atDecision m).uptime = s.uptime := by
  unfold State.uptime
  rw [State.atDecision, lessForeign_clock]
  rfl

/-- A port whose queue is empty, or whose head has no group, is at its start decision as its first steps leave it. -/
theorem atDecision_of (h : (s.port m).queue = [] ∨ ∃ head rest, (s.port m).queue = head :: rest ∧ head.group = 0) :
    s.atDecision m = s.modPort m fun p => p.atEvent s.supply.product := by
  have queue : ((s.modPort m fun p => p.atEvent s.supply.product).port m).queue = (s.port m).queue := by
    rw [State.modPort_port_same]; rfl
  rcases h with empty | ⟨head, rest, waits, alone⟩
  · exact lessForeign_empty _ m (queue.trans empty)
  · exact lessForeign_alone _ m (queue.trans waits) alone

/-! ### The event after its start decision -/

theorem isShutdown_iff (p : Port) : p.isShutdown = true ↔ p.act = .shutdown := by
  unfold Port.isShutdown
  cases p.act <;> simp

/-- The regulation event of a port that is not in SHUTDOWN, by what its start decision leaves. -/
theorem regulation_of (awake : (s.port m).act ≠ .shutdown) {u : State} {started : Bool}
    (decides : (s.modPort m fun p => p.atEvent s.supply.product).startDecision m false = (u, started)) :
    s.regulation m = State.afterProfile m (State.profileStep m ((u.port m).queue.length + 1) ⟨started, false⟩ u) := by
  rw [State.regulation_eq]
  dsimp only
  rw [if_neg (mt (isShutdown_iff _).mp awake), decides]

/-- The event of a port whose move runs on, or has started. -/
theorem regulation_runs (awake : (s.port m).act ≠ .shutdown) {u : State} {started : Bool}
    (decides : (s.modPort m fun p => p.atEvent s.supply.product).startDecision m false = (u, started)) {r : Running}
    (act : (u.port m).act = .running r) (unmarked : (u.port m).replacing = false ∨ (u.port m).queue = []) :
    RunsOn m started u (s.regulation m) := by
  rw [regulation_of awake decides]
  exact State.profile_runsOn m _ u r started act ⟨⟨r, act, rfl⟩, unmarked⟩ (Nat.lt_succ_self _)

/-- A start decision that starts nothing. -/
theorem decides_stands {act : Activity} (stands : (s.atDecision m).standing m = some act) :
    (s.modPort m fun p => p.atEvent s.supply.product).startDecision m false =
      ((s.atDecision m).modPort m fun p => { p with act := act }, false) := State.startDecision_stands _ m act stands

/-- A running move that stands has no mark on the head behind it (R11). -/
theorem standing_running {a : State} {r : Running} (stands : a.standing m = some (.running r)) :
    (a.port m).replacing = false ∨ (a.port m).queue = [] := by
  unfold State.standing at stands
  dsimp only at stands
  cases waits : (a.port m).queue with
  | nil => exact .inr rfl
  | cons head rest =>
    rw [waits] at stands
    dsimp only at stands
    left
    cases act : (a.port m).act <;> rw [act] at stands <;> dsimp only at stands <;> revert stands <;>
      cases (a.port m).replacing <;> simp

/-- A port in SHUTDOWN stands in SHUTDOWN, or has no start decision. -/
theorem standing_awake {a : State} {r : Running} (stands : a.standing m = some (.running r)) : (a.port m).act ≠ .shutdown := by
  intro asleep
  unfold State.standing at stands
  dsimp only at stands
  cases waits : (a.port m).queue with
  | nil => rw [waits, asleep] at stands; cases stands
  | cons head rest => rw [waits, asleep] at stands; cases stands

/-- A queue head begun as the running move (R4, R8, R9). -/
theorem begun_runs {p : Port} {head : Move} (waits : p.queue.head? = some head) (following : Bool) :
    ∃ r, (p.begun following).act = .running r ∧ r.move = head ∧ (p.begun following).replacing = false := by
  cases queue : p.queue with
  | nil => rw [queue] at waits; cases waits
  | cons first rest =>
    rw [queue] at waits
    cases waits
    obtain ⟨r, act, move, _, unmarked⟩ := p.begun_cons following head rest queue
    exact ⟨r, act, move, unmarked⟩

section
variable (calm : s.calm = true)
include calm

theorem regulationEvent_eq : exec (.regulationEvent m) s = .next (s.regulation m).settle := by
  show Host.Outcome.next (s.command _) = _
  rw [command_calm calm]

/-- The event of a port whose move runs on (R9 step 6, R10). -/
theorem regulationEvent_runsOn {r : Running} (stands : (s.atDecision m).standing m = some (.running r)) :
    ∃ t, RunsOn m false ((s.atDecision m).modPort m fun p => { p with act := .running r }) t ∧
      exec (.regulationEvent m) s = .next t.settle := by
  refine ⟨_, regulation_runs (mt atDecision_shutdown.mpr (standing_awake stands)) (decides_stands stands) (r := r) ?_ ?_,
    regulationEvent_eq calm⟩
  · rw [State.modPort_port_same]
  · rw [State.modPort_port_same]
    exact standing_running stands

/-- The event of a port whose head starts from a rest (R9 steps 2 and 3). -/
theorem regulationEvent_starts {head : Move} (waits : ((s.atDecision m).port m).queue.head? = some head) {x : Rest}
    (act : ((s.atDecision m).port m).act = .rest x) (may : ((s.atDecision m).port m).replacing = true ∨ head.group = 0) :
    ∃ t, RunsOn m true ((s.atDecision m).modPort m fun p => p.begun false) t ∧ exec (.regulationEvent m) s = .next t.settle := by
  obtain ⟨rest, queue⟩ := List.head?_eq_some_iff.mp waits
  obtain ⟨r, running, _, unmarked⟩ := begun_runs waits false
  have awake : (s.port m).act ≠ .shutdown := mt atDecision_shutdown.mpr (by rw [act]; nofun)
  refine ⟨_, regulation_runs awake ((State.startDecision_starts _ m head rest queue).1 x act may) (r := r) ?_ (.inl ?_), regulationEvent_eq calm⟩
  · rw [State.modPort_port_same]; exact running
  · rw [State.modPort_port_same]; exact unmarked

/-- The event of a port whose head replaces its running move, or follows it as it yields (R9 steps 2 and 4). -/
theorem regulationEvent_follows {head : Move} (waits : ((s.atDecision m).port m).queue.head? = some head) {r : Running}
    (act : ((s.atDecision m).port m).act = .running r)
    (may : ((s.atDecision m).port m).replacing = true ∨ (head.group = 0 ∧ r.move.yields = true)) :
    ∃ t, RunsOn m true ((((s.atDecision m).modPort m fun p =>
        p.recorded r.move (if ((s.atDecision m).port m).replacing then .replaced else .done) s.uptime).raise (.motor m)).modPort m
        fun p => p.begun true) t ∧ exec (.regulationEvent m) s = .next t.settle := by
  obtain ⟨rest, queue⟩ := List.head?_eq_some_iff.mp waits
  have awake : (s.port m).act ≠ .shutdown := mt atDecision_shutdown.mpr (by rw [act]; nofun)
  obtain ⟨r', running, _, unmarked⟩ := begun_runs (p := ((s.atDecision m).port m).recorded r.move
    (if ((s.atDecision m).port m).replacing then .replaced else .done) s.uptime) waits true
  have decides := (State.startDecision_starts _ m head rest queue).2 r act may
  refine ⟨_, regulation_runs awake (decides.trans ?_) (r := r') ?_ (.inl ?_), regulationEvent_eq calm⟩
  · rw [show (State.lessForeign _ m).uptime = s.uptime from atDecision_uptime]
    rfl
  · rw [State.modPort_port_same, State.raise_port, State.modPort_port_same]; exact running
  · rw [State.modPort_port_same, State.raise_port, State.modPort_port_same]; exact unmarked

/-- The event that finds the last member of its head's group ready (R9 step 5, R21). -/
theorem regulationEvent_group {head : Move} (waits : ((s.atDecision m).port m).queue.head? = some head) (grouped : head.group ≠ 0)
    (unmarked : ((s.atDecision m).port m).replacing = false) (ready : (s.atDecision m).groupLacks head.group m = false)
    (act : (∃ x, ((s.atDecision m).port m).act = .rest x ∨ ((s.atDecision m).port m).act = .groupWait x) ∨
      ∃ r, ((s.atDecision m).port m).act = .running r ∧ r.move.yields = true) :
    ∃ t, RunsOn m true ((s.atDecision m).groupStarted m head.group false) t ∧ exec (.regulationEvent m) s = .next t.settle := by
  obtain ⟨rest, queue⟩ := List.head?_eq_some_iff.mp waits
  have awake : (s.port m).act ≠ .shutdown := mt atDecision_shutdown.mpr (by rcases act with ⟨x, act | act⟩ | ⟨r, act, _⟩ <;> rw [act] <;> nofun)
  have member : (s.atDecision m).isMember head.group m = true := (State.lessForeign_head _ m head rest queue).resolve_left grouped
  have started : ∃ p : Port, p.queue.head? = some head ∧ ((s.atDecision m).groupStarted m head.group false).port m =
      p.begun ((s.atDecision m).port m).isRunning := by
    refine ⟨_, ?_, (Six.get_ofFn ..).trans (if_pos member)⟩
    cases (s.atDecision m).port m |>.act with
    | running r => dsimp only; split <;> exact waits
    | _ => exact waits
  obtain ⟨p, first, is⟩ := started
  obtain ⟨r', running, _, unmarked'⟩ := begun_runs first ((s.atDecision m).port m).isRunning
  exact ⟨_, regulation_runs awake (State.startDecision_group _ m head rest queue grouped unmarked ready act) (r := r') (by rw [is]; exact running)
    (.inl (by rw [is]; exact unmarked')), regulationEvent_eq calm⟩

end

end

/-! ### What a move that runs on can come to (R23) -/

section
variable {m : Idx6} {started : Bool} {s t : State} {r : Running} (runs : RunsOn m started s t) (act : (s.port m).act = .running r)
include runs act

/-- A move that arrives, with nothing that can start after it (R30, R33). -/
theorem RunsOn.arrived (near : r.arrives (s.port m) = true) (last : (s.moveEnded m r.move .done).followed m = none) :
    t = (s.moveEnded m r.move .done).modPort m fun p =>
      if r.move.endAction = .hold then (p.restsAfter .hold).driven 0 else p.restsAfter r.move.endAction := by
  cases runs with
  | arrivesLast act' => cases act.symm.trans act'; rfl
  | arrivesNext act' _ next => cases act.symm.trans act'; rw [last] at next; cases next
  | guardEnds act' far | stalls act' far | timesOut act' far | goesOn act' far =>
    cases act.symm.trans act'; rw [near] at far; cases far

variable (far : r.arrives (s.port m) = false)
include far

/-- A move that its guard ends (R106). -/
theorem RunsOn.guarded {x : OutcomeCode} (ends : s.guardEnd r = some x) : t = (s.modPort m fun p => p.ranOn r).endsNow m r.move x := by
  cases runs with
  | arrivesLast act' near | arrivesNext act' near => cases act.symm.trans act'; rw [near] at far; cases far
  | guardEnds act' _ ends' => cases act.symm.trans act'; cases ends.symm.trans ends'; rfl
  | stalls act' _ goes | timesOut act' _ goes | goesOn act' _ goes => cases act.symm.trans act'; rw [ends] at goes; cases goes

variable (goes : s.guardEnd r = none)
include goes

/-- A move that stalls (R16, R40). -/
theorem RunsOn.stalled (strained : (s.port m).config.stallTime ≤ ((s.port m).ranOn r).strained.stallTimer) :
    StopsPorts (s.modPort m fun p => (p.ranOn r).strained) t ((Six.all false).set m true)
      (fun p => p.stoppedBy .stalled (.rest .stalled) s.uptime) true := by
  cases runs with
  | arrivesLast act' near | arrivesNext act' near => cases act.symm.trans act'; rw [near] at far; cases far
  | guardEnds act' _ ends => cases act.symm.trans act'; rw [goes] at ends; cases ends
  | stalls act' _ _ _ stops => cases act.symm.trans act'; exact stops
  | timesOut act' _ _ free | goesOn act' _ _ free => cases act.symm.trans act'; exact absurd strained (Nat.not_le.mpr free)

variable (free : ((s.port m).ranOn r).strained.stallTimer < (s.port m).config.stallTime)
include free

/-- A move whose duration has elapsed (R41). -/
theorem RunsOn.timedOut (before : started = false) (elapsed : (s.wentOn r false).isOver = true) :
    t = (s.modPort m fun p => (p.ranOn (s.wentOn r false)).strained).endsNow m r.move .done := by
  cases runs with
  | arrivesLast act' near | arrivesNext act' near => cases act.symm.trans act'; rw [near] at far; cases far
  | guardEnds act' _ ends => cases act.symm.trans act'; rw [goes] at ends; cases ends
  | stalls act' _ _ strained => cases act.symm.trans act'; exact absurd strained (Nat.not_le.mpr free)
  | timesOut act' => cases act.symm.trans act'; rfl
  | goesOn act' _ _ _ more =>
    cases act.symm.trans act'
    rw [before, elapsed] at more
    simp at more

/-- A move that goes on. -/
theorem RunsOn.wentOn (more : started = true ∨ (s.wentOn r false).isOver = false) :
    t = s.modPort m fun p => (p.ranOn (s.wentOn r started)).strained := by
  cases runs with
  | arrivesLast act' near | arrivesNext act' near => cases act.symm.trans act'; rw [near] at far; cases far
  | guardEnds act' _ ends => cases act.symm.trans act'; rw [goes] at ends; cases ends
  | stalls act' _ _ strained => cases act.symm.trans act'; exact absurd strained (Nat.not_le.mpr free)
  | timesOut act' _ _ _ elapsed =>
    cases act.symm.trans act'
    rw [elapsed] at more
    simp at more
  | goesOn act' => cases act.symm.trans act'; rfl

end

/-! ### A port that has nothing waiting -/

section
variable {m : Idx6} {s : State}

/-- Without a head there is no group that its port could keep waiting (R22). -/
theorem losesHead_of_empty (empty : (s.port m).queue = []) (q : Idx6) : s.losesHead ((Six.all false).set m true) q = false := by
  by_contra loses
  rw [Bool.not_eq_false] at loses
  unfold State.losesHead State.readyFor at loses
  simp only [Bool.and_eq_true, List.any_eq_true, beq_iff_eq, bne_iff_ne] at loses
  obtain ⟨⟨_, ⟨_, _⟩, grouped⟩, n, _, ⟨isIn, same⟩, _⟩ := loses
  rw [eq_of_single isIn, Port.headGroup, empty] at same
  exact grouped same.symm

/-- A stop of one running port with nothing waiting (R16). -/
theorem StopsPorts.single {t : State} {F : Port → Port} (stops : StopsPorts s t ((Six.all false).set m true) F true)
    (empty : (s.port m).queue = []) (running : (s.port m).isRunning = true) : t = (s.modPort m F).raise (.motor m) := by
  have motor : t.motor = s.motor.set m (F (s.port m)) := by
    refine Six.ext_get fun q => ?_
    have port := stops.ports q
    rw [losesHead_of_empty empty] at port
    rw [Six.get_set]
    by_cases is : q = m
    · subst is
      rw [if_pos rfl]
      exact port.trans (if_pos (by simp))
    · rw [Six.get_set, if_neg is, Six.get_all] at port
      rw [if_neg is]
      exact port
  have raised : t.attn.motor = s.attn.motor.set m (min 255 (s.attn.motor.get m + 1)) := by
    refine Six.ext_get fun q => ?_
    have count := stops.raised q
    rw [losesHead_of_empty empty] at count
    rw [Six.get_set]
    by_cases is : q = m
    · subst is
      rw [if_pos rfl]
      exact count.trans (if_pos (by simp [running]))
    · rw [Six.get_set, if_neg is, Six.get_all] at count
      rw [if_neg is]
      exact count
  rw [stops.rest, motor, raised]
  rfl

theorem followed_none (empty : (s.port m).queue = []) : s.followed m = none := by
  unfold State.followed
  rw [empty]

theorem moveEnded_alone (empty : (s.port m).queue = []) (mv : Move) (x : OutcomeCode) :
    s.moveEnded m mv x = (s.modPort m fun p => p.recorded mv x s.uptime).raise (.motor m) := by
  rw [State.moveEnded, lessForeign_empty]
  rw [State.raise_port, State.modPort_port_same]
  exact empty

theorem endedBy_eq {p : Port} (empty : p.queue = []) (mv : Move) (x : OutcomeCode) (uptime : Word) :
    (p.recorded mv x uptime).restsAfter mv.endAction = p.endedBy mv x uptime := by
  unfold Port.restsAfter Port.endedBy Port.recorded
  dsimp only
  rw [empty]

/-- A move's end with nothing waiting (R10, R15, R18). -/
theorem endsNow_alone (empty : (s.port m).queue = []) (mv : Move) (x : OutcomeCode) :
    s.endsNow m mv x = (s.modPort m fun p => p.endedBy mv x s.uptime).raise (.motor m) := by
  have still : ((s.moveEnded m mv x).port m).queue = [] := by
    rw [moveEnded_alone empty, State.raise_port, State.modPort_port_same]
    exact empty
  unfold State.endsNow
  rw [followed_none still]
  dsimp only
  rw [moveEnded_alone empty, State.raise_modPort, State.modPort_modPort]
  exact congrArg (fun t : State => t.raise (.motor m))
    (modPort_congr (f := fun p => (p.recorded mv x s.uptime).restsAfter mv.endAction) (g := fun p => p.endedBy mv x s.uptime)
      (endedBy_eq empty mv x s.uptime))

end

end Sys2Proof.Machine
end

-- ==== Sys2Proof/Proofs/RegulationRuns.lean ====

section
/-! The regulation events of ports at rest, of moves that run on, and of group starts (R8, R16, R20 to R23, R28, R29, R39 to R41). -/

namespace Sys2Proof.Machine

section
variable {s : State} {m : Idx6}

/-- A port changed twice, in figures. -/
theorem modPort_twice {f g : Port → Port} {q : Port} (is : g (f (s.port m)) = q) : (s.modPort m f).modPort m g = s.modPort m fun _ => q := by
  rw [State.modPort_modPort]
  exact modPort_congr (f := fun p => g (f p)) (g := fun _ => q) is

theorem modPort_once {f : Port → Port} {q : Port} (is : f (s.port m) = q) : s.modPort m f = s.modPort m fun _ => q :=
  modPort_congr (f := f) (g := fun _ => q) is

theorem standing_empty (empty : (s.port m).queue = []) : s.standing m = some (s.port m).act := by
  unfold State.standing
  dsimp only
  rw [empty]

/-- The event of a port that runs a move with nothing waiting (R9 step 6). -/
theorem regulationEvent_alone (calm : s.calm = true) {r : Running} (act : (s.port m).act = .running r) (empty : (s.port m).queue = []) :
    ∃ t, RunsOn m false (s.modPort m fun p => p.atEvent s.supply.product) t ∧ exec (.regulationEvent m) s = .next t.settle := by
  have at_ := atDecision_of (.inl empty)
  have act' : ((s.modPort m fun p => p.atEvent s.supply.product).port m).act = .running r := by
    rw [State.modPort_port_same]; exact act
  have stands : (s.atDecision m).standing m = some (.running r) := by
    rw [at_, standing_empty]
    · exact congrArg some act'
    · rw [State.modPort_port_same]; exact empty
  have runs := regulationEvent_runsOn calm stands
  rw [at_, State.modPort_act_self _ m _ act'] at runs
  exact runs

/-! ### Moves at a speed (R28) -/

theorem ranOn_speed (p : Port) {r : Running} {v : Int} (motion : r.move.motion = .speed v ∨ ∃ d, r.move.motion = .timed v d) {target : Int}
    (clamped : target = max (-(p.config.maxSpeed : Int)) (min p.config.maxSpeed v)) :
    p.ranOn r = { p.driven target with act := .running { r with phase := if (p.driven target).vp = target then .cruise else .ramp } } := by
  subst clamped
  unfold Port.ranOn
  rcases motion with motion | ⟨d, motion⟩ <;> rw [motion]

theorem far_of_speed (p : Port) {r : Running} {v : Int} (motion : r.move.motion = .speed v ∨ ∃ d, r.move.motion = .timed v d) :
    r.arrives p = false := by
  unfold Running.arrives
  rcases motion with motion | ⟨d, motion⟩ <;> rw [motion]

theorem guardEnd_none (s : State) {r : Running} (unguarded : r.move.guard = none) : s.guardEnd r = none := by
  unfold State.guardEnd
  rw [unguarded]

theorem wentOn_unguarded (s : State) {r : Running} (unguarded : r.move.guard = none) (started : Bool) :
    s.wentOn r started = { r with elapsed := if started then r.elapsed else min 4294967295 (r.elapsed + 5) } := by
  unfold State.wentOn
  rw [unguarded]

end

/-- A running move's stop looks at its record alone (R16). -/
theorem stoppedBy_running {p : Port} {r r' : Running} (act : p.act = .running r) (move : r'.move = r.move) (timer : Nat) (x : OutcomeCode)
    (rest : Activity) (uptime : Word) :
    ({ p with act := .running r', stallTimer := timer } : Port).stoppedBy x rest uptime = p.stoppedBy x rest uptime := by
  unfold Port.stoppedBy
  dsimp only
  rw [act]
  dsimp only
  rw [move]

theorem endedBy_running (p : Port) (act : Activity) (timer : Nat) (mv : Move) (x : OutcomeCode) (uptime : Word) :
    ({ p with act := act, stallTimer := timer } : Port).endedBy mv x uptime = p.endedBy mv x uptime := by
  unfold Port.endedBy
  cases mv.endAction <;> rfl

/-! ### The event of a port that runs a move with nothing waiting -/

theorem port_alone {s : State} {m : Idx6} {p : Port} (first : (s.port m).atEvent s.supply.product = p) :
    (s.modPort m fun p => p.atEvent s.supply.product).port m = p := (State.modPort_port_same ..).trans first

section
variable {s t : State} {m : Idx6} {r : Running} {p : Port} (first : (s.port m).atEvent s.supply.product = p)
  (act : (s.port m).act = .running r) (empty : (s.port m).queue = [])
  (runs : RunsOn m false (s.modPort m fun p => p.atEvent s.supply.product) t)
include first act empty runs

theorem arrived_alone (near : r.arrives p = true) : t = (s.modPort m fun _ =>
    if r.move.endAction = .hold then (p.endedBy r.move .done s.uptime).driven 0 else p.endedBy r.move .done s.uptime).raise (.motor m) := by
  have port := port_alone first
  have none_ : p.queue = [] := by rw [← first]; exact empty
  have ended := moveEnded_alone (s := s.modPort m fun p => p.atEvent s.supply.product) (by rw [port]; exact none_) r.move .done
  have last : ((s.modPort m fun p => p.atEvent s.supply.product).moveEnded m r.move .done).followed m = none := by
    refine followed_none ?_
    rw [ended, State.raise_port, State.modPort_port_same, port]
    exact none_
  have rested := endedBy_eq none_ r.move .done s.uptime
  rw [runs.arrived (by rw [port, ← first]; exact act) (by rw [port]; exact near) last, ended, State.raise_modPort, modPort_twice (q := _) rfl,
    modPort_twice (q := _) rfl, port]
  by_cases hold : r.move.endAction = .hold
  · rw [if_pos hold, if_pos hold, ← rested, hold]
    rfl
  · rw [if_neg hold, if_neg hold, ← rested]
    rfl

variable (far : r.arrives p = false)
include far

theorem guarded_alone {x : OutcomeCode} (ends : s.guardEnd r = some x) :
    t = (s.modPort m fun _ => (p.ranOn r).endedBy r.move x s.uptime).raise (.motor m) := by
  have port := port_alone first
  have none_ : (p.ranOn r).queue = [] := (p.ranOn_keeps r).2.1.trans (by rw [← first]; exact empty)
  rw [runs.guarded (by rw [port, ← first]; exact act) (by rw [port]; exact far) ends, endsNow_alone (by rw [State.modPort_port_same, port]; exact none_),
    modPort_twice (q := _) rfl, modPort_twice (q := _) rfl, port]
  rfl

variable (goes : s.guardEnd r = none)
include goes

theorem stalled_alone {q : Port} (on : (p.ranOn r).strained = q) (running : q.isRunning = true) (stall : p.config.stallTime ≤ q.stallTimer) :
    t = (s.modPort m fun _ => q.stoppedBy .stalled (.rest .stalled) s.uptime).raise (.motor m) := by
  have port := port_alone first
  have none_ : q.queue = [] := by rw [← on]; exact (p.ranOn_keeps r).2.1.trans (by rw [← first]; exact empty)
  have stops := runs.stalled (by rw [port, ← first]; exact act) (by rw [port]; exact far) goes (by rw [port, on]; exact stall)
  rw [stops.single (by rw [State.modPort_port_same, port, on]; exact none_) (by rw [State.modPort_port_same, port, on]; exact running),
    modPort_twice (q := _) rfl, modPort_twice (q := _) rfl, port, on]
  rfl

variable (free : (p.ranOn r).strained.stallTimer < p.config.stallTime)
include free

theorem timedOut_alone {q : Port} (on : (p.ranOn (s.wentOn r false)).strained = q) (elapsed : (s.wentOn r false).isOver = true) :
    t = (s.modPort m fun _ => q.endedBy r.move .done s.uptime).raise (.motor m) := by
  have port := port_alone first
  have none_ : q.queue = [] := by
    rw [← on]
    exact (p.ranOn_keeps _).2.1.trans (by rw [← first]; exact empty)
  rw [runs.timedOut (by rw [port, ← first]; exact act) (by rw [port]; exact far) goes (by rw [port]; exact free) rfl elapsed,
    endsNow_alone (by rw [State.modPort_port_same, port]; exact on ▸ none_), modPort_twice (q := _) rfl, modPort_twice (q := _) rfl, port, ← on]
  rfl

omit empty in
theorem wentOn_alone {q : Port} (on : (p.ranOn (s.wentOn r false)).strained = q) (more : (s.wentOn r false).isOver = false) :
    t = s.modPort m fun _ => q := by
  have port := port_alone first
  rw [runs.wentOn (by rw [port, ← first]; exact act) (by rw [port]; exact far) goes (by rw [port]; exact free) (.inr more),
    modPort_twice (q := _) rfl, first, ← on]
  rfl

end

/-! ### Ports at which nothing starts and no move runs -/

section
variable {s : State} {m : Idx6} {act : Activity} (awake : (s.port m).act ≠ .shutdown) (stands : (s.atDecision m).standing m = some act)
include awake stands

theorem regulation_stands : s.regulation m = State.afterProfile m (State.profileStep m
    ((((s.atDecision m).modPort m fun p => { p with act := act }).port m).queue.length + 1) ⟨false, false⟩
      ((s.atDecision m).modPort m fun p => { p with act := act })) := regulation_of awake (decides_stands stands)

/-- A port in a rest other than HOLDING, or waiting for its group over one. -/
theorem regulation_rests {x : Rest} (lax : x ≠ .holding) (rests : act = .rest x ∨ act = .groupWait x) :
    s.regulation m = (s.atDecision m).modPort m fun p => { p with act := act } := by
  rw [regulation_stands awake stands]
  refine State.profile_rests m _ _ ?_ ?_
  · rw [State.modPort_port_same]
    rcases rests with rfl | rfl <;> rfl
  · rw [State.modPort_port_same]
    cases x with
    | holding => exact absurd rfl lax
    | _ => rcases rests with rfl | rfl <;> rfl

/-- A port that holds, or waits for its group over HOLDING (R29, R39, R40). -/
theorem regulation_holds (rests : act = .rest .holding ∨ act = .groupWait .holding) {held : Port}
    (is : held = { ((s.atDecision m).port m).driven ((s.atDecision m).port m).holdPull with act := act }.strained) :
    s.regulation m = if held.config.stallTime ≤ held.stallTimer then ((s.atDecision m).modPort m fun _ => held).stallStop m
      else (s.atDecision m).modPort m fun _ => held := by
  have port : ((s.atDecision m).modPort m fun p => { p with act := act }).port m = { (s.atDecision m).port m with act := act } :=
    State.modPort_port_same ..
  rw [regulation_stands awake stands, State.profile_holds]
  · dsimp only
    rw [port, modPort_twice (q := held) (by rw [is]; rfl), is]
    rfl
  · rw [port]
    rcases rests with rfl | rfl <;> rfl
  · rw [port]
    rcases rests with rfl | rfl <;> rfl

end

/-- Settles O33: a port at which nothing starts only measures, and where it holds regulates its hold point. -/
theorem regulationOfIdlePort : Obligations.RegulationOfIdlePort := by
  refine ⟨fun m s calm idle => ?_, fun m act s calm awake stands => ⟨fun x lax rests => ?_, fun rests => ⟨fun free => ?_, fun strained => ?_⟩⟩⟩
  · rw [regulationEvent_eq calm]
    refine congrArg (fun t : State => Host.Outcome.next t.settle) ?_
    rcases idle with asleep | ⟨empty, rests⟩
    · exact regulation_asleep s m ((isShutdown_iff _).mpr asleep)
    · have at_ := atDecision_of (.inl empty)
      have act' : ((s.modPort m fun p => p.atEvent s.supply.product).port m).act = (s.port m).act := by rw [State.modPort_port_same]; rfl
      have stands : (s.atDecision m).standing m = some (s.port m).act := by
        rw [at_, standing_empty (by rw [State.modPort_port_same]; exact empty), act']
      have rest : ∃ x, x ≠ Rest.holding ∧ ((s.port m).act = .rest x ∨ (s.port m).act = .groupWait x) := by
        simp only [List.mem_cons, List.not_mem_nil, or_false] at rests
        rcases rests with is | is | is | is | is | is
        exacts [⟨.free, by decide, .inl is⟩, ⟨.braked, by decide, .inl is⟩, ⟨.stalled, by decide, .inl is⟩, ⟨.free, by decide, .inr is⟩,
          ⟨.braked, by decide, .inr is⟩, ⟨.stalled, by decide, .inr is⟩]
      obtain ⟨x, lax, is⟩ := rest
      rw [regulation_rests (by rcases is with is | is <;> rw [is] <;> nofun) stands lax is, at_, State.modPort_act_self _ m _ act']
  · rw [regulationEvent_eq calm, regulation_rests awake stands lax rests]
  · rw [regulationEvent_eq calm, regulation_holds awake stands rests rfl, if_neg (Nat.not_le.mpr free)]
  · refine ⟨_, ?_, (regulationEvent_eq calm).trans (by rw [regulation_holds awake stands rests rfl, if_pos strained])⟩
    rw [← atDecision_uptime (m := m)]
    exact State.stallStop_stops _ m

/-- Settles O34: of a port with nothing waiting the event is one stop, one end or the move gone on; else it runs on as `RunsOn` says. -/
theorem regulationRunsSpeedMove : Obligations.RegulationRunsSpeedMove := by
  refine ⟨fun m r v d s calm act empty unguarded motion => ?_, fun m r s calm stands unguarded far => regulationEvent_runsOn calm stands⟩
  intro p1 target p2 phase timer elapsed stalls timedOut
  obtain ⟨t, runs, event⟩ := regulationEvent_alone calm act empty
  have fast : r.move.motion = .speed v ∨ ∃ d, r.move.motion = .timed v d := by
    cases d with
    | none => exact .inl motion
    | some d => exact .inr ⟨d, motion⟩
  have far : r.arrives p1 = false := far_of_speed _ fast
  have goes := guardEnd_none s unguarded
  have went : s.wentOn r false = { r with elapsed := elapsed } := wentOn_unguarded s unguarded false
  have on : ∀ e, (p1.ranOn { r with elapsed := e }).strained = { p2 with
      act := .running { r with phase := phase, elapsed := e }, stallTimer := timer } := fun e => by
    rw [ranOn_speed p1 (r := { r with elapsed := e }) fast rfl]
    rfl
  have onEnd : (p1.ranOn (s.wentOn r false)).strained = { p2 with
      act := .running { r with phase := phase, elapsed := elapsed }, stallTimer := timer } := by rw [went]; exact on elapsed
  have isOver : (s.wentOn r false).isOver = timedOut := by
    rw [went]
    show Running.isOver { r with elapsed := elapsed } = d.any fun n => n ≤ elapsed
    unfold Running.isOver
    cases d <;> rw [motion] <;> rfl
  rw [event]
  refine congrArg (fun t : State => Host.Outcome.next t.settle) ?_
  by_cases stall : stalls
  · rw [stalled_alone rfl act empty runs far goes (on r.elapsed) rfl stall, if_pos stall, decide_eq_true stall,
      stoppedBy_running (p := p2) (r' := { r with phase := phase }) act rfl]
    rfl
  · have free : (p1.ranOn r).strained.stallTimer < p1.config.stallTime := by
      rw [show (p1.ranOn r).strained.stallTimer = timer from congrArg Port.stallTimer (on r.elapsed)]
      exact Nat.lt_of_not_le stall
    rw [if_neg stall, decide_eq_false stall, Bool.false_or]
    cases elapsed_ : timedOut with
    | true =>
      rw [timedOut_alone rfl act empty runs far goes free onEnd (isOver.trans elapsed_), endedBy_running]
      rfl
    | false =>
      rw [wentOn_alone rfl act runs far goes free onEnd (isOver.trans elapsed_)]
      rfl

/-- Settles O38: the group's start is the start decision, and the rest of the event runs on. -/
theorem groupStartsTogether : Obligations.GroupStartsTogether :=
  fun _ _ _ calm waits grouped unmarked ready act => regulationEvent_group calm waits grouped unmarked ready act

end Sys2Proof.Machine
end

-- ==== Sys2Proof/Proofs/RegulationStarts.lean ====

section
/-! The regulation events of moves that start, that arrive, and that a guard ends (R4, R8, R15, R28 to R33, R101 to R106). -/

namespace Sys2Proof.Machine

/-! ### Steps that find no stall (R39) -/

theorem strained_of_slow {p : Port} (slow : p.config.stallSpeed = 0) : p.strained = { p with stallTimer := 0 } := by
  have : p.strains = false := by
    unfold Port.strains
    rw [slow]
    simp
  unfold Port.strained
  rw [this]
  rfl

/-! ### Moves to a target (R30 to R32) -/

theorem ranOn_target (p : Port) {r : Running} {speed : Nat}
    (motion : (∃ y, r.move.motion = .position speed y) ∨ ∃ n, r.move.motion = .relative speed n) {top way dist : Int} {brakes : Prop}
    [Decidable brakes] (isDist : dist = r.remaining p) (isTop : top = min (speed : Int) p.config.maxSpeed) (isWay : way = if 0 < dist then 1 else -1)
    (isBrakes : brakes ↔ r.phase = .braking ∨ r.phase = .approach ∨ dist.natAbs ≤
      (p.vp.natAbs ^ 2 + 2 * p.config.accel - 1) / (2 * p.config.accel) + p.vp.natAbs / 200) {target : Int}
    (isTarget : target = way * (if brakes then min 50 top else top)) :
    p.ranOn r = { p.driven target with act := .running { r with
      phase := if brakes then (if (p.driven target).vp = target then .approach else .braking)
        else if (p.driven target).vp = target then .cruise else .ramp } } := by
  subst isTarget isWay isTop isDist
  unfold Port.ranOn
  by_cases slow : brakes
  · have slow' := isBrakes.mp slow
    rcases motion with ⟨y, motion⟩ | ⟨n, motion⟩ <;> rw [motion] <;> dsimp only <;> rw [if_pos slow', if_pos slow, if_pos slow]
  · have slow' := mt isBrakes.mpr slow
    rcases motion with ⟨y, motion⟩ | ⟨n, motion⟩ <;> rw [motion] <;> dsimp only <;> rw [if_neg slow', if_neg slow, if_neg slow]

theorem arrives_target (p : Port) {r : Running} {speed : Nat}
    (motion : (∃ y, r.move.motion = .position speed y) ∨ ∃ n, r.move.motion = .relative speed n) :
    r.arrives p = decide ((r.remaining p).natAbs ≤ p.config.tolerance) := by
  unfold Running.arrives
  rcases motion with ⟨y, motion⟩ | ⟨n, motion⟩ <;> rw [motion]

/-- Settles O36: within the tolerance the move ends, beyond it the profile is by its distance. -/
theorem regulationRunsPositionMove : Obligations.RegulationRunsPositionMove := by
  refine ⟨fun m r speed x s calm act empty unguarded toward motion => ?_, fun m r s calm stands near => regulationEvent_runsOn calm stands⟩
  intro p1 slow patient dist top way brakes target p2 phase
  obtain ⟨t, runs, event⟩ := regulationEvent_alone calm act empty
  have remains : r.remaining p1 = dist := by
    unfold Running.remaining
    rw [toward]
  have goes := guardEnd_none s unguarded
  have went : s.wentOn r false = { r with elapsed := min 4294967295 (r.elapsed + 5) } := wentOn_unguarded s unguarded false
  rw [event]
  refine congrArg (fun t : State => Host.Outcome.next t.settle) ?_
  by_cases near : dist.natAbs ≤ p1.config.tolerance
  · rw [if_pos near, arrived_alone rfl act empty runs (by rw [arrives_target _ motion]; exact decide_eq_true (by rw [remains]; exact near))]
  · rw [if_neg near]
    have far : r.arrives p1 = false := by rw [arrives_target _ motion]; exact decide_eq_false (by rw [remains]; exact near)
    have on : ∀ e, (p1.ranOn { r with elapsed := e }).strained = { p2 with
        act := .running { r with phase := phase, elapsed := e }, stallTimer := 0 } := fun e => by
      rw [ranOn_target p1 (r := { r with elapsed := e }) motion (brakes := brakes) remains.symm rfl rfl Iff.rfl rfl,
        strained_of_slow (by exact slow)]
    have free : (p1.ranOn r).strained.stallTimer < p1.config.stallTime := by
      rw [show (p1.ranOn r).strained.stallTimer = 0 from congrArg Port.stallTimer (on r.elapsed)]
      exact patient
    have onEnd : (p1.ranOn (s.wentOn r false)).strained = { p2 with
        act := .running { r with phase := phase, elapsed := min 4294967295 (r.elapsed + 5) }, stallTimer := 0 } := by
      rw [went]; exact on _
    have lasts : (s.wentOn r false).isOver = false := by
      rw [went]
      unfold Running.isOver
      rcases motion with ⟨y, motion⟩ | ⟨n, motion⟩ <;> rw [motion]
    rw [wentOn_alone rfl act runs far goes free onEnd lasts]

/-! ### Guards (R101 to R105) -/

/-- A reading that a guard may look at (R101). -/
theorem reads_iff (g : Guard) (x : Reading) : g.reads x = true ↔ x.status = .fresh ∧ g.index < x.count := by
  unfold Guard.reads
  rw [Bool.and_eq_true, beq_iff_eq, decide_eq_true_iff]

theorem at_eq (v : Values) {k : Nat} (named : k ≤ 3) : v.at k = [v.v0, v.v1, v.v2, v.v3].getD k 0 := by
  match k, named with
  | 0, _ => rfl
  | 1, _ => rfl
  | 2, _ => rfl
  | 3, _ => rfl

/-- The comparisons of a guard with what it saw before (R103 to R105). -/
theorem met_iff (g : Guard) (seen : Option (Int × Half)) (x : Reading) {value : Int} (is : x.values.at g.index = value) :
    g.met seen x = true ↔ (g.comparison = .atLeast ∧ g.threshold ≤ value) ∨ (g.comparison = .atMost ∧ value ≤ g.threshold) ∨
      (∃ v0 q0, seen = some (v0, q0) ∧
        ((g.comparison = .crossUp ∧ v0 < g.threshold ∧ g.threshold ≤ value) ∨
          (g.comparison = .crossDown ∧ g.threshold < v0 ∧ value ≤ g.threshold) ∨
          (g.comparison = .changed ∧ q0 ≠ x.sequence ∧ v0 ≠ value))) := by
  unfold Guard.met
  rw [is]
  cases seen with
  | none => cases compares : g.comparison <;> simp
  | some seen =>
    obtain ⟨v, q⟩ := seen
    have one : ∀ P : Int → Half → Prop, (∃ v0 q0, some (v, q) = some (v0, q0) ∧ P v0 q0) ↔ P v q := fun P =>
      ⟨fun ⟨_, _, same, holds⟩ => by cases same; exact holds, fun holds => ⟨v, q, rfl, holds⟩⟩
    rw [one fun v0 q0 => (g.comparison = .crossUp ∧ v0 < g.threshold ∧ g.threshold ≤ value) ∨
      (g.comparison = .crossDown ∧ g.threshold < v0 ∧ value ≤ g.threshold) ∨ (g.comparison = .changed ∧ q0 ≠ x.sequence ∧ v0 ≠ value)]
    cases compares : g.comparison <;> simp

section
variable {s : State} {r : Running} {g : Guard} (guarded : r.move.guard = some g)
include guarded

theorem guardEnd_usable (usable : g.reads (s.sensorAt g.sensor).record = true) :
    s.guardEnd r = if g.met r.prev (s.sensorAt g.sensor).record then some .guard else none := by
  unfold State.guardEnd
  rw [guarded]
  exact if_pos usable

theorem guardEnd_unusable (unusable : g.reads (s.sensorAt g.sensor).record = false) :
    s.guardEnd r = if g.strict then some .guardLost else none := by
  unfold State.guardEnd
  rw [guarded]
  exact if_neg (Bool.eq_false_iff.mp unusable)

theorem wentOn_guarded : s.wentOn r false = { r with
    elapsed := min 4294967295 (r.elapsed + 5)
    prev := if g.reads (s.sensorAt g.sensor).record then
      some ((s.sensorAt g.sensor).record.values.at g.index, (s.sensorAt g.sensor).record.sequence) else r.prev } := by
  unfold State.wentOn
  rw [guarded]
  rfl

end

/-- Settles O37: the guard step by its reading, then the move's end or the move gone on. -/
theorem guardEndsMove : Obligations.GuardEndsMove := by
  refine ⟨fun m r v g s calm act empty motion guarded index => ?_, fun m r s calm stands guarded far => regulationEvent_runsOn calm stands⟩
  intro p1 slow patient target p2 phase rec_ usable value fires goesOn ends
  obtain ⟨t, runs, event⟩ := regulationEvent_alone calm act empty
  have far : r.arrives p1 = false := far_of_speed _ (.inl motion)
  have on : ∀ e prev, (p1.ranOn { r with elapsed := e, prev := prev }).strained = { p2 with
      act := .running { r with phase := phase, elapsed := e, prev := prev }, stallTimer := 0 } := fun e prev => by
    rw [ranOn_speed p1 (r := { r with elapsed := e, prev := prev }) (.inl motion) rfl, strained_of_slow (by exact slow)]
  have free : (p1.ranOn r).strained.stallTimer < p1.config.stallTime := by
    rw [show (p1.ranOn r).strained.stallTimer = 0 from congrArg Port.stallTimer (on r.elapsed r.prev)]
    exact patient
  have isValue : rec_.values.at g.index = value := at_eq _ index
  have isFires : g.met r.prev rec_ = true ↔ fires := met_iff g r.prev rec_ isValue
  have reads : g.reads rec_ = true ↔ usable := reads_iff g rec_
  have ended : ∀ {x}, s.guardEnd r = some x → exec (.regulationEvent m) s = .next (ends x).settle := fun {x} is => by
    rw [event, guarded_alone rfl act empty runs far is, ranOn_speed p1 (.inl motion) rfl]
    exact congrArg (fun q : Port => Host.Outcome.next ((s.modPort m fun _ => q).raise (.motor m)).settle)
      (endedBy_running p2 _ p2.stallTimer r.move x s.uptime)
  have went : ∀ {prev}, s.guardEnd r = none → (s.wentOn r false).prev = prev → exec (.regulationEvent m) s = .next (goesOn prev).settle :=
    fun {prev} is saw => by
      have onEnd : (p1.ranOn (s.wentOn r false)).strained = { p2 with
          act := .running { r with phase := phase, elapsed := min 4294967295 (r.elapsed + 5), prev := prev }, stallTimer := 0 } := by
        rw [← saw, wentOn_guarded guarded]
        exact on _ _
      have lasts : (s.wentOn r false).isOver = false := by
        rw [wentOn_guarded guarded]
        unfold Running.isOver
        rw [motion]
      rw [event, wentOn_alone rfl act runs far is free onEnd lasts]
  refine ⟨fun fresh fire => ?_, fun fresh noFire => ?_, fun stale strict => ?_, fun stale lax => ?_⟩
  · exact ended ((guardEnd_usable guarded (reads.mpr fresh)).trans (if_pos (isFires.mpr fire)))
  · refine went ((guardEnd_usable guarded (reads.mpr fresh)).trans (if_neg (mt isFires.mp noFire))) ?_
    rw [wentOn_guarded guarded]
    exact (if_pos (reads.mpr fresh)).trans (by rw [isValue])
  · exact ended ((guardEnd_unusable guarded (Bool.eq_false_iff.mpr (mt reads.mp stale))).trans (if_pos strict))
  · refine went ((guardEnd_unusable guarded (Bool.eq_false_iff.mpr (mt reads.mp stale))).trans (if_neg (Bool.eq_false_iff.mp lax))) ?_
    rw [wentOn_guarded guarded]
    exact if_neg (mt reads.mp stale)

/-! ### Heads that start (R4, R8, R9) -/

/-- A port whose SPEED or TIMED head has started and run its first steps, `q` being the port as the start found it (R28, R34 to R36, R39). -/
def Port.launched (q : Port) (head : Move) (rest : List Move) (v : Int) : Port :=
  let target := max (-(q.config.maxSpeed : Int)) (min q.config.maxSpeed v)
  let q2 := q.driven target
  { q2 with
    act := .running ⟨head, if q2.vp = target then .cruise else .ramp, 0, false, none, none⟩
    queue := rest
    replacing := false
    stallTimer := if q2.strains then 5 else 0 }

theorem launched_timer (q : Port) (head : Move) (rest : List Move) (v : Int) : (q.launched head rest v).stallTimer ≤ 5 := by
  unfold Port.launched
  dsimp only
  split <;> omega

theorem begun_speed {p : Port} {head : Move} {rest : List Move} {v : Int} (queue : p.queue = head :: rest)
    (motion : head.motion = .speed v ∨ ∃ d, head.motion = .timed v d) (following : Bool) : p.begun following = { p with
      act := .running ⟨head, .ramp, 0, false, none, none⟩
      queue := rest
      replacing := false
      stallTimer := 0
      vp := if following then p.vp else 0
      integral := if following then p.integral else 0 } := by
  unfold Port.begun
  rw [queue]
  dsimp only
  rcases motion with motion | ⟨d, motion⟩ <;> rw [motion]

theorem runs_launched {u t : State} {m : Idx6} (runs : RunsOn m true u t) {p : Port} {following : Bool} (port : u.port m = p.begun following)
    {head : Move} {rest : List Move} {v : Int} (queue : p.queue = head :: rest)
    (motion : head.motion = .speed v ∨ ∃ d, head.motion = .timed v d) (unguarded : head.guard = none) (patient : 5 < p.config.stallTime) :
    t = u.modPort m fun _ => ({ p with
      vp := if following then p.vp else 0, integral := if following then p.integral else 0 } : Port).launched head rest v := by
  have port' := port.trans (begun_speed queue motion following)
  have goes := guardEnd_none (r := ⟨head, .ramp, 0, false, none, none⟩) u unguarded
  have went := wentOn_unguarded (r := ⟨head, .ramp, 0, false, none, none⟩) u unguarded true
  have on : ((u.port m).ranOn ⟨head, .ramp, 0, false, none, none⟩).strained = ({ p with
      vp := if following then p.vp else 0, integral := if following then p.integral else 0 } : Port).launched head rest v := by
    rw [port', ranOn_speed _ motion rfl]
    rfl
  have free : ((u.port m).ranOn ⟨head, .ramp, 0, false, none, none⟩).strained.stallTimer < (u.port m).config.stallTime := by
    have timer := launched_timer { p with vp := if following then p.vp else 0, integral := if following then p.integral else 0 } head rest v
    rw [on, port']
    exact Nat.lt_of_le_of_lt timer patient
  have onEnd := on
  rw [← show u.wentOn ⟨head, .ramp, 0, false, none, none⟩ true = ⟨head, .ramp, 0, false, none, none⟩ from went] at onEnd
  rw [runs.wentOn (by rw [port']) (far_of_speed _ motion) goes free (.inl rfl), modPort_once (f := fun p => (p.ranOn (u.wentOn _ true)).strained) onEnd]

theorem stallTime_inRanges {c : PortConfig} (fits : c.inRanges = true) : 20 ≤ c.stallTime := by
  simp only [PortConfig.inRanges, Bool.and_eq_true, decide_eq_true_iff] at fits
  omega

theorem stallTime_atEvent {p : Port} (fits : p.configsInRanges = true) {product : Nat} : 5 < (p.atEvent product).config.stallTime := by
  rw [Port.configsInRanges, Bool.and_eq_true] at fits
  obtain ⟨now, next⟩ := fits
  have enough : 20 ≤ (p.atEvent product).config.stallTime := by
    unfold Port.atEvent
    dsimp only
    cases pending : p.pendingConfig with
    | none => exact stallTime_inRanges now
    | some c => rw [pending] at next; exact stallTime_inRanges next
  omega

/-- Settles O35: the head's start is the start decision, and its first steps find no stall. -/
theorem regulationStartsHead : Obligations.RegulationStartsHead := by
  refine ⟨fun m head rest v s calm queue alone unguarded ranges motion => ?_, fun m head s calm waits =>
    ⟨fun x act may => regulationEvent_starts calm waits act may, fun r act may => regulationEvent_follows calm waits act may⟩⟩
  intro p1 started
  have at_ : s.atDecision m = s.modPort m fun p => p.atEvent s.supply.product := atDecision_of (.inr ⟨head, rest, queue, alone⟩)
  have port : (s.atDecision m).port m = p1 := by rw [at_, State.modPort_port_same]
  have queue' : p1.queue = head :: rest := queue
  have waits : ((s.atDecision m).port m).queue.head? = some head := by rw [port, queue']; rfl
  have patient : 5 < p1.config.stallTime := stallTime_atEvent ranges
  refine ⟨fun x act => ?_, fun r act may => ?_⟩
  · obtain ⟨t, runs, event⟩ := regulationEvent_starts calm waits (x := x) (by rw [port]; exact act) (.inr alone)
    have is := runs_launched runs (p := p1) (following := false) (by rw [State.modPort_port_same, port]) queue' motion unguarded patient
    rw [event, is, at_, modPort_twice (q := _) rfl, modPort_twice (q := _) rfl]
    rfl
  · obtain ⟨t, runs, event⟩ := regulationEvent_follows calm waits (r := r) (by rw [port]; exact act)
      (by rw [port]; exact may.imp_right fun yields => ⟨alone, yields⟩)
    rw [port] at runs
    have is := runs_launched runs (p := p1.recorded r.move (if p1.replacing then .replaced else .done) s.uptime) (following := true)
      (by rw [State.modPort_port_same, State.raise_port, State.modPort_port_same, port]) queue' motion unguarded patient
    rw [event, is, at_, State.raise_modPort, State.raise_modPort, modPort_twice (q := _) rfl, modPort_twice (q := _) rfl,
      modPort_twice (q := _) rfl]
    rfl

end Sys2Proof.Machine
end
